-- ==== Sys2Proof/Word.lean ====
section
/-! DEFINITION. The words and the small types that the commands of the BW-620 and its state share: bytes and fields,
lanes, ends and decks, coded arguments, and pairs indexed by lane and by end. -/

namespace Sys2Proof

abbrev Byte := BitVec 8
abbrev U16 := BitVec 16
abbrev U32 := BitVec 32
/-- A tag id (00_scope.md, Identifiers). -/
abbrev TagId := BitVec 48
/-- Decks 0 to 5, as cell links and digitiser nodes number them. -/
abbrev DeckId := Fin 6

/-- The two lanes (00_scope.md, Lanes, decks and ends). -/
inductive LaneId where
  | l0
  | l1
  deriving DecidableEq, Repr, Inhabited

/-- The two ends of a lane. -/
inductive LaneEnd where
  | a
  | b
  deriving DecidableEq, Repr, Inhabited

/-- The two treadles of a lane end: T1 outer, T2 inner (02 2.1). -/
inductive Treadle where
  | t1
  | t2
  deriving DecidableEq, Repr, Inhabited

/-- An argument of a request that is sent as a code: one its encoding defines, or any other byte (R193). -/
inductive Coded (α : Type) where
  | known (a : α)
  | undefined (code : Byte)
  deriving DecidableEq, Repr

/-- Tables of the TABLE_ requests (R139). -/
inductive TableId where
  | classes
  | settings
  deriving DecidableEq, Repr, Inhabited

/-- Reasons of AUDIT_OPEN (R148). -/
inductive AuditReason where
  | periodic
  | repair
  | complaint
  deriving DecidableEq, Repr, Inhabited

/-- Kinds of audit step (R151). -/
inductive StepKind where
  | zero
  | load
  | corner
  | returnZero
  deriving DecidableEq, Repr, Inhabited

/-- A consignment (03 3.5): commodity, grade, sample reference and destination bin. -/
structure Consignment where
  commodity : U16
  grade0 : Byte
  grade1 : Byte
  sample : Option U32
  bin : Option Byte
  deriving DecidableEq, Repr, Inhabited

/-- One value for each lane. -/
structure PerLane (α : Type) where
  l0 : α
  l1 : α
  deriving DecidableEq, Repr, Inhabited

/-- One value for each end of a lane. -/
structure PerEnd (α : Type) where
  a : α
  b : α
  deriving DecidableEq, Repr, Inhabited

def PerLane.get {α : Type} (x : PerLane α) : LaneId → α
  | .l0 => x.l0
  | .l1 => x.l1

def PerLane.set {α : Type} (x : PerLane α) (l : LaneId) (v : α) : PerLane α :=
  match l with
  | .l0 => { x with l0 := v }
  | .l1 => { x with l1 := v }

def PerEnd.get {α : Type} (x : PerEnd α) : LaneEnd → α
  | .a => x.a
  | .b => x.b

def PerEnd.set {α : Type} (x : PerEnd α) (e : LaneEnd) (v : α) : PerEnd α :=
  match e with
  | .a => { x with a := v }
  | .b => { x with b := v }

/-- The other lane. -/
def LaneId.other : LaneId → LaneId
  | .l0 => .l1
  | .l1 => .l0

/-- The other end of the same lane (a visit's exit end, 00_scope.md). -/
def LaneEnd.other : LaneEnd → LaneEnd
  | .a => .b
  | .b => .a

def LaneId.toNat : LaneId → Nat
  | .l0 => 0
  | .l1 => 1

end Sys2Proof
end

