-- ==== Sys2Proof/Syntax.lean ====
section
/-! DEFINITION. The commands of the BW-620: Instr, one constructor per row of spec/opcode_table.json, with the row's
operands. The table gives no operands; the ones here are those that the rule of each row needs (INVENTORY.md). -/

namespace Sys2Proof

/-- A command or event that the part takes as one step. `wire` is a frame as it stood on its link, from the delimiter
on and before the escaping is removed (11.2). `corr` is a request's correlation number (R181). `wait` is the time, in
0.1 ms, that passes before the event arrives (log 2). -/
inductive Instr where
  /-- SAMPLE_FRAME: a frame arrives on cell link `link` (R1). -/
  | sampleFrame (link : DeckId) (wire : List Byte)
  /-- SAMPLE_TIMEOUT_EXPIRY (R3). -/
  | sampleTimeoutExpiry (deck : DeckId)
  /-- CLEARANCE_TIMER_EXPIRY (R19). -/
  | clearanceTimerExpiry (deck : DeckId)
  /-- TAG_FRAME (R46). -/
  | tagFrame (wait : Nat) (wire : List Byte)
  /-- TREADLE_EDGE (R24); `taken`: the axle screen takes the latch in the same step (log 9). -/
  | treadleEdge (lane : LaneId) (atEnd : LaneEnd) (line : Treadle) (wait : Nat) (taken : Bool)
  /-- WINDOW_EXPIRY (R75). -/
  | windowExpiry (lane : LaneId) (atEnd : LaneEnd)
  /-- BEAM_LEVEL_CHANGE (R25); `blocked` is the raw level after the change. -/
  | beamLevelChange (lane : LaneId) (atEnd : LaneEnd) (blocked : Bool)
  /-- BEAM_DEBOUNCE_EXPIRY (R25). -/
  | beamDebounceExpiry (lane : LaneId) (atEnd : LaneEnd)
  /-- BARRIER_SWITCH_CHANGE (R31); `up` and `down`: the switches closed after the change. -/
  | barrierSwitchChange (lane : LaneId) (atEnd : LaneEnd) (up : Bool) (down : Bool)
  /-- SUPERVISION_TIMER_EXPIRY (R32). -/
  | supervisionTimerExpiry (lane : LaneId) (atEnd : LaneEnd)
  /-- LANE_STOP_EDGE (R28); `active`: the edge into the stop level, or the return from it (log 4). -/
  | laneStopEdge (lane : LaneId) (active : Bool)
  /-- IDENTITY_TIMEOUT (R51). -/
  | identityTimeout (lane : LaneId)
  /-- CONSIGN_TIMEOUT (R56). -/
  | consignTimeout (lane : LaneId)
  /-- QUIET_TIMER_EXPIRY (R59). -/
  | quietTimerExpiry (lane : LaneId)
  /-- SETTLE_COMPLETION (R62). -/
  | settleCompletion (lane : LaneId)
  /-- DWELL_TIMER_EXPIRY (R68). -/
  | dwellTimerExpiry (lane : LaneId)
  /-- CLEAR_TIMER_EXPIRY (R67). -/
  | clearTimerExpiry (lane : LaneId)
  /-- MINUTE_BOUNDARY (R189). -/
  | minuteBoundary
  /-- SITE_CLOCK_WRAP (R189). -/
  | siteClockWrap
  /-- AUDIT_WAIT_EXPIRY (R149). -/
  | auditWaitExpiry
  /-- STEP_TIMER_EXPIRY (R152). -/
  | stepTimerExpiry
  /-- HOLD_TIMER_EXPIRY (R174). -/
  | holdTimerExpiry
  /-- PORT_GRANT (R168). -/
  | portGrant
  /-- STORE_HOLD_GRANT (R171). -/
  | storeHoldGrant
  /-- TRAIL_RECORD_WRITTEN (R162). -/
  | trailRecordWritten
  /-- TRAIL_READ_MARK_WRITTEN (R164). -/
  | trailReadMarkWritten
  /-- TICKET_WRITTEN (R117). -/
  | ticketWritten
  /-- TICKET_READ_MARK_WRITTEN (R123). -/
  | ticketReadMarkWritten
  /-- MIRROR_RECORD_WRITTEN (R108). -/
  | mirrorRecordWritten
  /-- CLASS_RECORD_WRITTEN (R132). -/
  | classRecordWritten
  /-- SETTINGS_IMAGE_WRITTEN (R132). -/
  | settingsImageWritten
  /-- REGISTER_RECORD_WRITTEN (R137). -/
  | registerRecordWritten
  /-- CALIBRATION_IMAGE_WRITTEN (R146). -/
  | calibrationImageWritten
  /-- TICKET_FETCH_READ (R121). -/
  | ticketFetchRead
  /-- TRAIL_FETCH_READ (R163). -/
  | trailFetchRead
  /-- HOLD_READ_DONE (R173). -/
  | holdReadDone
  /-- RECORD_WRITE_FAILED (R170). -/
  | recordWriteFailed
  /-- YARD_FRAME_DROP (R181). -/
  | yardFrameDrop (wire : List Byte)
  /-- FRAME_SENT (R185). -/
  | frameSent
  /-- STATUS (R188). -/
  | status (corr : U16)
  /-- TIME_SET (R190). -/
  | timeSet (corr : U16) (seconds : U32) (millis : U16)
  /-- RESTART (R191); `force` is the FORCE flag, whose other codes are undefined (R193). -/
  | restart (corr : U16) (force : Coded Bool)
  /-- LANE_OPEN (R38). -/
  | laneOpen (corr : U16) (lane : Byte)
  /-- LANE_CLOSE (R39). -/
  | laneClose (corr : U16) (lane : Byte)
  /-- ADMIT (R52); `vehicle` as the 12-byte field of 11.1. -/
  | admitVehicle (corr : U16) (lane : Byte) (atEnd : Coded LaneEnd) (vehicle : List Byte)
  /-- CONSIGN (R57). -/
  | consign (corr : U16) (vehicle : List Byte) (consignment : Consignment)
  /-- RELEASE (R65). -/
  | release (corr : U16) (lane : Byte)
  /-- VISIT_ABORT (R70). -/
  | visitAbort (corr : U16) (lane : Byte)
  /-- CANCEL_PENDING (R106). -/
  | cancelPending (corr : U16) (vehicle : List Byte)
  /-- PENDING_READ (R107). -/
  | pendingRead (corr : U16) (index : Byte)
  /-- TICKET_FETCH (R121). -/
  | ticketFetch (corr : U16)
  /-- TICKET_ACK (R123). -/
  | ticketAck (corr : U16) (serial : U32)
  /-- TRAIL_FETCH (R163). -/
  | trailFetch (corr : U16)
  /-- TRAIL_ACK (R164). -/
  | trailAck (corr : U16) (sequence : U32)
  /-- TABLE_WRITE (R130); `entry` in the 32-byte entry layouts of 11.4. -/
  | tableWrite (corr : U16) (table : Coded TableId) (index : Byte) (entry : List Byte)
  /-- TABLE_READ (R130). -/
  | tableRead (corr : U16) (table : Coded TableId) (index : Byte)
  /-- TABLE_COMMIT (R131). -/
  | tableCommit (corr : U16) (table : Coded TableId) (crc : U32)
  /-- TABLE_DISCARD (R130). -/
  | tableDiscard (corr : U16) (table : Coded TableId)
  /-- REGISTER_PUT (R137); `entry` in the 32-byte register entry layout of 11.4. -/
  | registerPut (corr : U16) (index : U16) (entry : List Byte)
  /-- REGISTER_REMOVE (R137). -/
  | registerRemove (corr : U16) (index : U16)
  /-- REGISTER_GET (R137). -/
  | registerGet (corr : U16) (index : U16)
  /-- AUDIT_OPEN (R148). -/
  | auditOpen (corr : U16) (deck : Byte) (reason : Coded AuditReason)
  /-- AUDIT_STEP (R151); `reference` is a signed mass in kg, `cell` is given for CORNER only. -/
  | auditStep (corr : U16) (kind : Coded StepKind) (reference : U32) (cell : Option Byte)
  /-- CAL_WRITE (R153); `entry` is offsets 5-19 and 32-127 of the calibration image (11.4); `calEn`: CAL_EN is closed
  at the moment the request is taken (R29, log 4). -/
  | calWrite (corr : U16) (deck : Byte) (entry : List Byte) (calEn : Bool)
  /-- ZERO_SET (R16). -/
  | zeroSet (corr : U16) (deck : Byte)
  /-- AUDIT_CLOSE (R157). -/
  | auditClose (corr : U16)
  /-- AUDIT_ABORT (R159). -/
  | auditAbort (corr : U16)
  /-- STORE_HOLD (R171). -/
  | storeHold (corr : U16)
  /-- STORE_RELEASE (R174). -/
  | storeRelease (corr : U16)
  /-- HOLD_READ (R173). -/
  | holdRead (corr : U16) (address : U32) (length : U16)
  /-- MONITOR_SET (R21); `selection` is none for OFF, else deck and decimation. -/
  | monitorSet (corr : U16) (selection : Option (Byte × Byte))
  /-- POWER_ON (R175). -/
  | powerOn
  /-- LINE_RESET (R175). -/
  | lineReset
  /-- LINE_RESET_RELEASE (R175). -/
  | lineResetRelease
  /-- STARTUP (R179); `failedWrite`: which of startup's three last writes fails its retry, if one does (log 15). -/
  | startup (failedWrite : Option (Fin 3))
  /-- UNKNOWN_REQUEST (R182): a request frame whose body begins with no request code, or whose length does not fit the
  request that it names; `code` is the body's first byte, none where the body is empty. -/
  | unknownRequest (corr : U16) (code : Option Byte) (arguments : List Byte)
  /-- TREADLE_LATCH_TAKEN (R24). -/
  | treadleLatchTaken (lane : LaneId) (atEnd : LaneEnd) (line : Treadle)
  deriving DecidableEq, Repr

end Sys2Proof
end

