-- ==== Sys2Proof/Decode.lean ====
section
/-! DEFINITION. Decoding of the table's words. The opcode table gives no row any bits (it lists commands and events of a
block, not instruction words), so no word spells a command. -/

namespace Sys2Proof

/-- No row of spec/opcode_table.json gives bits, so every word is rejected. -/
def decodeTableWord (_nbits _w : Nat) : Option Instr := none

end Sys2Proof
end

