-- ==== Sys2Proof/Machine/Bytes.lean ====
section
/-! DEFINITION. Bytes: little-endian fields, the framing of the serial links, check codes, vehicle ids, and rounding
(00_scope.md, Conventions; 11.1, 11.2). -/

namespace Sys2Proof.Machine

/-! ## Little-endian fields -/

/-- The `n` bytes of `v`, least significant first. -/
def leBytes : Nat → Nat → List Byte
  | 0, _ => []
  | n + 1, v => BitVec.ofNat 8 v :: leBytes n (v / 256)

/-- The `n` bytes of a signed value in two's complement, least significant first. -/
def leInt (n : Nat) (v : Int) : List Byte := leBytes n (v % (256 ^ n : Nat)).toNat

/-- The number that a run of bytes holds, the first byte least significant. -/
def readLe : List Byte → Nat
  | [] => 0
  | b :: bs => b.toNat + 256 * readLe bs

/-- The bytes of a field. -/
def slice (bs : List Byte) (offset size : Nat) : List Byte := (bs.drop offset).take size

/-- An unsigned field. -/
def field (bs : List Byte) (offset size : Nat) : Nat := readLe (slice bs offset size)

/-- The signed value of an unsigned field of `size` bytes. -/
def signed (size n : Nat) : Int := if 2 * n < 256 ^ size then (n : Int) else (n : Int) - (256 ^ size : Nat)

/-- A signed field. -/
def fieldInt (bs : List Byte) (offset size : Nat) : Int := signed size (field bs offset size)

/-- Bit `i` of a flag byte. -/
def flagBit (n i : Nat) : Bool := n.testBit i

/-- A flag as the value of its bit. -/
def bitOf (b : Bool) (i : Nat) : Nat := if b then 2 ^ i else 0

/-- `bs` filled up to `n` bytes with 0x00. -/
def padTo (n : Nat) (bs : List Byte) : List Byte := bs ++ List.replicate (n - bs.length) 0

/-! ## Check codes (00_scope.md, Check codes) -/

def crc16Bit (c : Nat) : Nat := if 0x8000 ≤ c then (2 * c) ^^^ 0x11021 else 2 * c

def crc16Byte (c : Nat) (b : Byte) : Nat :=
  let x := c ^^^ (b.toNat * 256)
  crc16Bit (crc16Bit (crc16Bit (crc16Bit (crc16Bit (crc16Bit (crc16Bit (crc16Bit x)))))))

/-- CRC-16: x^16 + x^12 + x^5 + 1, initial value all ones, no reflection, no final inversion. -/
def crc16 (bs : List Byte) : Nat := bs.foldl crc16Byte 0xFFFF

def crc32Bit (c : Nat) : Nat := if c % 2 = 1 then (c / 2) ^^^ 0xEDB88320 else c / 2

def crc32Byte (c : Nat) (b : Byte) : Nat :=
  let x := c ^^^ b.toNat
  crc32Bit (crc32Bit (crc32Bit (crc32Bit (crc32Bit (crc32Bit (crc32Bit (crc32Bit x)))))))

/-- CRC-32: reflected 0x04C11DB7, initial value and final inversion all ones. -/
def crc32 (bs : List Byte) : Nat := bs.foldl crc32Byte 0xFFFFFFFF ^^^ 0xFFFFFFFF

/-! ## Framing (11.2, R193) -/

/-- The delimiter of every frame. -/
def delimiter : Byte := 0x7E

/-- A frame's bytes after the delimiter, escaped for the link. -/
def escapeBytes : List Byte → List Byte
  | [] => []
  | b :: bs =>
    if b = 0x7E then 0x7D :: 0x5E :: escapeBytes bs
    else if b = 0x7D then 0x7D :: 0x5D :: escapeBytes bs
    else b :: escapeBytes bs

/-- The bytes behind the escaping: none where a 0x7D is followed by anything but 0x5E or 0x5D, or where a new delimiter
stands before the end. -/
def unescapeBytes : List Byte → Option (List Byte)
  | [] => some []
  | [b] => if b = 0x7D ∨ b = 0x7E then none else some [b]
  | b :: c :: bs =>
    if b = 0x7D then
      if c = 0x5E then (unescapeBytes bs).map (0x7E :: ·)
      else if c = 0x5D then (unescapeBytes bs).map (0x7D :: ·)
      else none
    else if b = 0x7E then none
    else (unescapeBytes (c :: bs)).map (b :: ·)

/-- The first `n` bytes behind the escaping, or all where the wire gives fewer; none where the escaping is wrong or a new
delimiter stands before them. What follows them is not looked at. -/
def unescapeFirst : Nat → List Byte → Option (List Byte)
  | 0, _ => some []
  | _ + 1, [] => some []
  | n + 1, b :: bs =>
    if b = 0x7E then none
    else if b ≠ 0x7D then (unescapeFirst n bs).map (b :: ·)
    else
      match bs with
      | 0x5E :: cs => (unescapeFirst n cs).map (0x7E :: ·)
      | 0x5D :: cs => (unescapeFirst n cs).map (0x7D :: ·)
      | _ => none

/-- A frame as its offsets count it, from the delimiter on (R193). -/
def unframe : List Byte → Option (List Byte)
  | [] => none
  | b :: bs => if b = delimiter then (unescapeBytes bs).map (delimiter :: ·) else none

/-- The CRC-16 that closes a frame is right: it covers offset 1 through the body. -/
def frameCrcOk (f : List Byte) : Bool :=
  field f (f.length - 2) 2 == crc16 ((f.drop 1).take (f.length - 3))

/-! ## Vehicle ids (00_scope.md, Identifiers; 11.1) -/

/-- A-Z, 0-9 or hyphen. -/
def isVehicleChar (b : Byte) : Bool :=
  let n := b.toNat
  (0x41 ≤ n && n ≤ 0x5A) || (0x30 ≤ n && n ≤ 0x39) || n == 0x2D

/-- A-Z or 0-9 (grades, 03 3.5). -/
def isGradeChar (b : Byte) : Bool :=
  let n := b.toNat
  (0x41 ≤ n && n ≤ 0x5A) || (0x30 ≤ n && n ≤ 0x39)

/-- The field without the 0x00 padding at its end. -/
def stripZeros (bs : List Byte) : List Byte := (bs.reverse.dropWhile (· == 0)).reverse

/-- The vehicle id of a 12-byte field, none where it is malformed (R52, R193). -/
def parseVehicle (bs : List Byte) : Option (List Byte) :=
  let v := stripZeros bs
  if v.length = 0 ∨ 12 < v.length ∨ v.all isVehicleChar = false then none else some v

/-! ## Rounding (00_scope.md, Masses) -/

/-- num ÷ den rounded to the nearest whole number with halves away from zero; den is positive. -/
def roundHalfAway (num den : Int) : Int :=
  if 0 ≤ num then (2 * num + den) / (2 * den) else -((2 * -num + den) / (2 * den))

end Sys2Proof.Machine
end

