-- ==== Sys2Proof/Machine/Memory.lean ====
section
/-! DEFINITION. The record memory: 512 KiB of bytes as a list of (address, byte) in one canonical form, its regions and
its slots (09 9.1, R166). An unlisted address reads as 0x00 (log 5). -/

namespace Sys2Proof.Machine

/-- The first address past the record memory. -/
def memSize : Nat := 0x80000

/-- What an address that nothing has written reads as (log 5). -/
def unwritten : Byte := 0

/-- The canonical form: addresses strictly rising and inside the memory, no entry equal to what an unlisted address
reads as. -/
abbrev Memory.wf (m : List Host.Cell) : Prop :=
  m.Pairwise (fun a b => a.1 < b.1) ∧ ∀ c ∈ m, c.1 < memSize ∧ c.2 ≠ unwritten

/-- The byte at an address. -/
def memRead : List Host.Cell → Nat → Byte
  | [], _ => unwritten
  | c :: m, a => if c.1 = a then c.2 else memRead m a

/-- The entries that a run of bytes from `a` on makes: none for a byte an unlisted address reads as, none outside the
memory. -/
def memCells : Nat → List Byte → List Host.Cell
  | _, [] => []
  | a, b :: bs => if b = unwritten ∨ memSize ≤ a then memCells (a + 1) bs else (a, b) :: memCells (a + 1) bs

/-- The memory with a run of bytes written from `a` on. -/
def memWrite (m : List Host.Cell) (a : Nat) (bs : List Byte) : List Host.Cell :=
  m.filter (fun c => decide (c.1 < a)) ++ memCells a bs ++ m.filter (fun c => decide (a + bs.length ≤ c.1))

/-- The `n` bytes from `a` on. -/
def memBytes (m : List Host.Cell) (a n : Nat) : List Byte :=
  let w := m.filter (fun c => decide (a ≤ c.1 ∧ c.1 < a + n))
  (List.range n).map fun i => memRead w (a + i)

/-! ## Regions (R166) -/

/-- The regions of record memory that hold slots of a record kind, and the two read marks. -/
inductive SlotKind where
  | ticketMark
  | trailMark
  | ticket
  | trail
  | mirror
  | calibration
  | classRecord
  | settings
  | register
  deriving DecidableEq, Repr

/-- The base of the region (of the mark, for the two read marks). -/
def SlotKind.base : SlotKind → Nat
  | .ticketMark => 0x00000
  | .trailMark => 0x00040
  | .ticket => 0x00400
  | .trail => 0x50400
  | .mirror => 0x60400
  | .calibration => 0x61C00
  | .classRecord => 0x62800
  | .settings => 0x63400
  | .register => 0x63800

/-- Slot size in bytes. -/
def SlotKind.size : SlotKind → Nat
  | .ticketMark => 64
  | .trailMark => 64
  | .ticket => 160
  | .trail => 64
  | .mirror => 96
  | .calibration => 512
  | .classRecord => 64
  | .settings => 1024
  | .register => 48

/-- Slots in the region. -/
def SlotKind.slots : SlotKind → Nat
  | .ticketMark => 1
  | .trailMark => 1
  | .ticket => 2048
  | .trail => 1024
  | .mirror => 64
  | .calibration => 6
  | .classRecord => 48
  | .settings => 1
  | .register => 1024

/-- The record kind code (11.3). -/
def SlotKind.code : SlotKind → Nat
  | .ticketMark => 0x01
  | .trailMark => 0x02
  | .ticket => 0x10
  | .trail => 0x20
  | .mirror => 0x30
  | .calibration => 0x40
  | .classRecord => 0x50
  | .settings => 0x60
  | .register => 0x70

/-- The address of a slot, from the region's base and the slot number alone: a number beyond the region is taken modulo
its slots, so that no operation reaches outside the region (R166). -/
def SlotKind.address (k : SlotKind) (i : Nat) : Nat := k.base + k.size * (i % k.slots)

/-- The slot that a serial or a trail sequence lives in: (n − 1) modulo the ring (R116, R162, R166). -/
def ringSlot (k : SlotKind) (n : Nat) : Nat := (n - 1) % k.slots

/-! ## Record frames (R167, 11.3) -/

def writtenMarker : Nat := 0x5AC3

/-- A whole slot: marker, kind, an unused byte, the body filled up with 0, and the CRC-16. -/
def sealRecord (k : SlotKind) (body : List Byte) : List Byte :=
  let f := leBytes 2 writtenMarker ++ (leBytes 1 k.code ++ (0 :: padTo (k.size - 6) body))
  f ++ leBytes 2 (crc16 f)

/-- R167: the marker, the kind of the region and the CRC-16 are right. -/
def slotValid (k : SlotKind) (bs : List Byte) : Bool :=
  field bs 0 2 == writtenMarker && field bs 2 1 == k.code &&
    field bs (k.size - 2) 2 == crc16 (bs.take (k.size - 2))

/-- The bytes of a slot, none where R167 finds it invalid. -/
def readSlot (m : List Host.Cell) (k : SlotKind) (i : Nat) : Option (List Byte) :=
  if memRead m (k.address i) = 0xC3 then
    let bs := memBytes m (k.address i) k.size
    if slotValid k bs then some bs else none
  else none

end Sys2Proof.Machine
end

