-- ==== Sys2Proof/Config.lean ====
section
/-! DEFINITION. The free values: what the manual leaves open and the part goes on with. Each is a constant without a
body, so nothing can be proved of it but what holds for every value (log 6, log 7, log 8, log 46). `n` is the counter
State.fresh, which every use advances. -/

namespace Sys2Proof.Config

/-- The byte at offset `offset` of a slot whose write failed its retry, or was cut off by a reset (R170, R175). -/
opaque slotByte (n : Nat) (offset : Nat) : Byte

/-- How far a write cut off by a reset had gone (R175: it "may leave its slot torn"): 0 the slot is as it was, any
other value the slot is torn. The marker is written last (R167), so the record never stands whole. -/
opaque cutOff (n : Nat) : Nat

/-- The "CRC-32 of the image as it stands" in the CAL_CHANGE record of a deck that holds no entry (R154). -/
opaque noImageCrc (n : Nat) : U32

/-- Whether lane 1 takes its settle completion before lane 0 when one freed staging place is wanted by both (R64). -/
opaque laneOneFirst (n : Nat) : Bool

/-- The request code in the refusal of a REQUEST frame that carries none (R182). -/
opaque emptyBodyCode (n : Nat) : Byte

end Sys2Proof.Config
end

