-- ==== Sys2Proof/Machine/State.lean ====
section
/-! DEFINITION. The state of the BW-620, as plain data: every piece of state that the manual names (INVENTORY.md, State),
block by block, and the queue of commands that wait. Reset values stand in the afterReset definitions and State.reset. -/

namespace Sys2Proof.Machine

/-! ## Time and timers -/

/-- A timer of the running count (10 10.7). A running timer holds the running count, in 0.1 ms, at which it expires. -/
inductive Timer where
  | stopped
  | running (deadline : Nat)
  | expired
  deriving DecidableEq, Repr, Inhabited

/-- Site time as records and notices carry it. -/
structure SiteTime where
  sec : Nat
  ms : Nat
  deriving DecidableEq, Repr, Inhabited

/-- The time base (10 10.7): the running count in 0.1 ms and the site clock. `boundaryDue`: a minute boundary has been
reached and its scans have not been taken yet (log 3). -/
structure Clock where
  running : Nat
  sec : Nat
  ms : Nat
  valid : Bool
  boundaryDue : Bool
  deriving DecidableEq, Repr, Inhabited

/-- Where the part stands in a reset (R175, 9.7): the RESET line is asserted, startup is in progress, or running. -/
inductive Phase where
  | resetting
  | startup
  | running
  deriving DecidableEq, Repr, Inhabited

/-- Reset causes (R175). -/
inductive ResetCause where
  | power
  | line
  | command
  deriving DecidableEq, Repr, Inhabited

/-! ## Deck channels and the audit unit's state per deck -/

inductive CellStatus where
  | good
  | overRange
  | underRange
  | opened
  deriving DecidableEq, Repr, Inhabited

/-- Weight status (R12). -/
inductive WeightStatus where
  | noData
  | motion
  | stable
  | over
  deriving DecidableEq, Repr, Inhabited

/-- Service state of a deck (08 8.1). -/
inductive ServiceState where
  | trade
  | audit
  | suspended
  | fault
  deriving DecidableEq, Repr, Inhabited

inductive DeckCause where
  | linkLoss
  | cellFault
  | zeroRange
  | tableParity
  | imageInvalid
  deriving DecidableEq, Repr, Inhabited

/-- A deck's cause set (R142): each cause at most once. -/
structure DeckCauses where
  linkLoss : Bool
  cellFault : Bool
  zeroRange : Bool
  tableParity : Bool
  imageInvalid : Bool
  deriving DecidableEq, Repr, Inhabited

structure CellCal where
  /-- Zero offset, counts. -/
  zero : Int
  /-- Span, millionths of a kilogram per count. -/
  span : Nat
  /-- Corner factor, ten-thousandths. -/
  corner : Nat
  deriving DecidableEq, Repr, Inhabited

/-- The calibration entry (01, The calibration entry), one cell record per cell in use. -/
structure CalEntry where
  node : Nat
  cells : List CellCal
  filterDepth : Nat
  /-- Sample timeout, ms. -/
  timeout : Nat
  capacity : Nat
  e : Nat
  motionBand : Nat
  /-- Zero range, % of capacity. -/
  zeroRange : Nat
  tracking : Bool
  /-- Zcal, kg. -/
  zcal : Int
  deriving DecidableEq, Repr, Inhabited

/-- The entry as it is held: its content, whether its parity is right, and the damaged mark (R6). -/
structure CalSlot where
  entry : CalEntry
  parityOk : Bool
  damaged : Bool
  deriving DecidableEq, Repr, Inhabited

/-- The values published at the last good sample (R13): filtered, net and expanded in grams, displayed in kg. -/
structure Published where
  filtered : Int
  net : Int
  displayed : Int
  expanded : Int
  deriving DecidableEq, Repr, Inhabited

/-- The persisted service state of a calibration image (R145). -/
structure Persisted where
  state : ServiceState
  causes : DeckCauses
  deriving DecidableEq, Repr, Inhabited

/-- Sample receiver SRn, deck channel DCn and what the audit unit keeps for deck n. -/
structure Deck where
  lastSeq : Option Nat
  gapCount : Nat
  sampleTimer : Timer
  filter : List Int
  stability : List Int
  status : WeightStatus
  published : Option Published
  remembered : List CellStatus
  badCells : Bool
  zd : Option Int
  clearance : Timer
  cal : Option CalSlot
  counter : Nat
  service : ServiceState
  causes : DeckCauses
  persisted : Persisted
  marker : Option Nat
  deriving DecidableEq, Repr, Inhabited

/-! ## Axle screens -/

/-- A pass decoder (R75). A held edge has its stamp and its window expiry, both in 0.1 ms. -/
inductive Decoder where
  | idle
  | hold (line : Treadle) (stamp : Nat) (expiry : Nat)
  deriving DecidableEq, Repr, Inhabited

/-- An axle record (04 4.3). Stamps in 0.1 ms, speed in 0.1 km/h, spacing in mm, totals and steps in grams. -/
structure Axle where
  index : Nat
  t1 : Nat
  t2 : Nat
  speed : Option Nat
  offBand : Bool
  spacing : Option Nat
  total : Option Int
  step : Option Int
  scaled : Option Int
  group : Option Nat
  deriving DecidableEq, Repr, Inhabited

inductive VerdictKind where
  | compliant
  | over
  | unclassified
  | notScreened
  deriving DecidableEq, Repr, Inhabited

/-- The verdict record (R92). Its exit axle count is absent until the visit's end, when it is entered (R85). -/
structure Verdict where
  kind : VerdictKind
  classId : Option Nat
  pattern : Option (List Nat)
  masses : Option (List Int)
  overGroups : List Nat
  overGross : Bool
  overflow : Nat
  exitAxles : Option Nat
  deriving DecidableEq, Repr, Inhabited

/-- What a pending entry and a ticket keep of a verdict (05 5.1; R112). -/
structure VerdictSummary where
  kind : VerdictKind
  classId : Option Nat
  overGroups : List Nat
  overGross : Bool
  heldReleased : Bool
  deriving DecidableEq, Repr, Inhabited

/-! ## Visits and lanes -/

inductive VisitState where
  | identify
  | consignWait
  | entering
  | settling
  | held
  | exiting
  | clearing
  deriving DecidableEq, Repr, Inhabited

inductive VisitKind where
  | gross
  | grossPreset
  | tare
  deriving DecidableEq, Repr, Inhabited

/-- The eleven abort reasons (R69). -/
inductive AbortReason where
  | barred
  | identityTimeout
  | duplicateVisit
  | pendingFull
  | noConsignment
  | backedOut
  | dwellLimit
  | deckOver
  | belowMinimum
  | laneFault
  | siteAbort
  deriving DecidableEq, Repr, Inhabited

/-- A vehicle id: 1 to 12 characters A-Z, 0-9, hyphen (00_scope.md), without the padding. -/
abbrev VehicleId := List Byte

/-- A preset tare with its date, a day number (07 7.5). -/
structure PresetTare where
  mass : Nat
  date : Nat
  deriving DecidableEq, Repr, Inhabited

/-- What capture records (R63). Deck weights in kg, in end-A-to-end-B order. -/
structure Capture where
  weights : List Int
  gross : Int
  time : SiteTime
  counts : List Nat
  verdict : Verdict
  deriving DecidableEq, Repr, Inhabited

/-- The visit record (03 3.1). Its lane is the slot it stands in. -/
structure Visit where
  count : Byte
  entry : LaneEnd
  state : VisitState
  kind : Option VisitKind
  vehicle : Option VehicleId
  regIndex : Option Nat
  permits : List Nat
  preset : Option PresetTare
  consignment : Option Consignment
  pendingIndex : Option Nat
  capture : Option Capture
  exitOverrun : Bool
  overstaySent : Bool
  storeWait : Bool
  heldReleased : Bool
  abort : Option AbortReason
  deriving DecidableEq, Repr, Inhabited

/-- Lane states (02 2.4). -/
inductive LaneState where
  | closed
  | opened
  | audit
  | fault
  deriving DecidableEq, Repr, Inhabited

inductive LaneCause where
  | deckFault
  | barrier
  | laneStop
  | settingsParity
  deriving DecidableEq, Repr, Inhabited

/-- A lane's cause set (R35). -/
structure LaneCauses where
  deckFault : Bool
  barrier : Bool
  laneStop : Bool
  settingsParity : Bool
  deriving DecidableEq, Repr, Inhabited

inductive Block where
  | auditPending
  | closeRequested
  | storeNearFull
  | storeBusy
  | storeFault
  | trailFull
  deriving DecidableEq, Repr, Inhabited

/-- A lane's admission block set (R42). -/
structure Blocks where
  auditPending : Bool
  closeRequested : Bool
  storeNearFull : Bool
  storeBusy : Bool
  storeFault : Bool
  trailFull : Bool
  deriving DecidableEq, Repr, Inhabited

/-- Signal outputs (R33). -/
inductive Signal where
  | red
  | green
  deriving DecidableEq, Repr, Inhabited

inductive BarrierCommand where
  | raise
  | lower
  | stop
  deriving DecidableEq, Repr, Inhabited

/-- A barrier's position (R27). -/
inductive Position where
  | up
  | down
  | between
  | conflict
  deriving DecidableEq, Repr, Inhabited

/-- A barrier: its two switches (closed is true), driven command, supervision timer and recorded failure. -/
structure Barrier where
  up : Bool
  down : Bool
  driven : BarrierCommand
  timer : Timer
  failed : Bool
  deriving DecidableEq, Repr, Inhabited

/-- The tag receiver's last read of one reader (R47): tag and ms of the running count. -/
structure LastRead where
  tag : TagId
  ms : Nat
  deriving DecidableEq, Repr, Inhabited

/-- One lane end: treadle latches, decoder, beam, barrier and tag reader. Beams: blocked is true. -/
structure EndState where
  latch1 : Option Nat
  latch2 : Option Nat
  decoder : Decoder
  beamRaw : Bool
  beamLevel : Bool
  beamLatch : Bool
  debounce : Timer
  barrier : Barrier
  lastRead : Option LastRead
  deriving DecidableEq, Repr, Inhabited

/-- Lane controller LCn with axle screen ASn and the lane's lines. -/
structure Lane where
  state : LaneState
  causes : LaneCauses
  blocks : Blocks
  stopLatch : Bool
  stopInput : Bool
  ends : PerEnd EndState
  visit : Option Visit
  nextVisit : Byte
  waitTimer : Timer
  dwellTimer : Timer
  quietTimer : Timer
  settleTimer : Timer
  clearTimer : Timer
  axles : List Axle
  overflow : Nat
  /-- Withdrawn spacing stack, newest first. -/
  withdrawn : List (Option Nat)
  axleInvalid : Bool
  exitAxles : Nat
  /-- The lane's adopted settings image is the active one; if not, it is the previous one. -/
  adoptedActive : Bool
  adoptedValid : Bool
  deriving DecidableEq, Repr, Inhabited

/-! ## Pairing unit -/

/-- The gross side of a pending entry (05 5.1). -/
structure GrossSide where
  gross : Int
  time : SiteTime
  lane : LaneId
  counts : List Nat
  consignment : Consignment
  verdict : VerdictSummary
  deriving DecidableEq, Repr, Inhabited

/-- State of a pending entry with what is present in it (R97): the gross side is absent while RESERVED. -/
inductive EntryState where
  | reserved
  | opened (g : GrossSide)
  | claimed (g : GrossSide) (by_ : LaneId)
  deriving DecidableEq, Repr, Inhabited

structure PendingEntry where
  vehicle : VehicleId
  regIndex : Option Nat
  state : EntryState
  creation : Nat
  deriving DecidableEq, Repr, Inhabited

/-- An entry of the consignment list (03 3.5). -/
structure ConsignEntry where
  vehicle : VehicleId
  consignment : Consignment
  /-- Time entered, site seconds. -/
  entered : Nat
  deriving DecidableEq, Repr, Inhabited

structure Pairing where
  slots : Vector (Option PendingEntry) 64
  nextCreation : Nat
  dirty : List Nat
  mirrorLoss : Nat
  consignments : List ConsignEntry
  deriving DecidableEq, Repr

/-! ## Ticket unit -/

inductive TicketKind where
  | net
  | presetNet
  | unpaired
  | void
  | cancelled
  deriving DecidableEq, Repr, Inhabited

/-- The tare side of a ticket (R112): weighed, preset, or absent. -/
inductive TareSide where
  | absent
  | weighed (tare : Int) (time : SiteTime) (lane : LaneId) (counts : List Nat)
  | preset (tare : Int) (date : Nat)
  deriving DecidableEq, Repr, Inhabited

/-- A ticket record (R112) without its serial, which its write assigns. -/
structure Ticket where
  kind : TicketKind
  vehicle : VehicleId
  regIndex : Option Nat
  side : GrossSide
  tare : TareSide
  net : Option Int
  exitAxles : Option Nat
  heldReleased : Bool
  exitOverrun : Bool
  deriving DecidableEq, Repr, Inhabited

/-- A staged ticket with its issuing tag: lane and visit count, or none (R114). -/
structure StagedTicket where
  ticket : Ticket
  tag : Option (LaneId × Byte)
  deriving DecidableEq, Repr, Inhabited

structure TicketUnit where
  staging : List StagedTicket
  nextSerial : Nat
  oldestUnread : Nat
  ack : Option U16
  markWaiting : Bool
  deriving DecidableEq, Repr, Inhabited

/-! ## Table store -/

/-- A table entry as it is held: its content, whether its parity is right, and its damaged mark (R129). -/
structure Slot (α : Type) where
  val : α
  parityOk : Bool
  damaged : Bool
  deriving DecidableEq, Repr, Inhabited

/-- A valid class entry (07 7.1). A cleared entry is none. -/
structure ClassEntry where
  id : Nat
  sizes : List Nat
  limits : List Nat
  gross : Nat
  deriving DecidableEq, Repr, Inhabited

/-- Admitting ends (07 7.2). -/
inductive Admitting where
  | endA
  | endB
  | both
  deriving DecidableEq, Repr, Inhabited

inductive OverloadAction where
  | hold
  | note
  deriving DecidableEq, Repr, Inhabited

inductive PresetUse where
  | never
  | whenFull
  deriving DecidableEq, Repr, Inhabited

/-- A lane entry of the settings table (07 7.2). Speeds in 0.1 km/h. -/
structure LaneEntry where
  admitting : Admitting
  spacing : Nat
  window : Nat
  speedMin : Nat
  speedMax : Nat
  groupGap : Nat
  quietTime : Nat
  settleTime : Nat
  dwellLimit : Nat
  identityTimeout : Nat
  consignTimeout : Nat
  moveLimit : Nat
  debounce : Nat
  overload : OverloadAction
  presetUse : PresetUse
  minGross : Nat
  emptyBand : Nat
  deriving DecidableEq, Repr, Inhabited

/-- The site entry of the settings table. -/
structure SiteEntry where
  pendingAge : Nat
  consignAge : Nat
  auditWait : Nat
  holdLimit : Nat
  presetAge : Nat
  deriving DecidableEq, Repr, Inhabited

/-- A settings image: two lane entries, the site entry, and the image CRC-32 taken at commit or load (R129). -/
structure SettingsImage where
  lanes : PerLane (Slot LaneEntry)
  site : Slot SiteEntry
  crc : Nat
  deriving DecidableEq, Repr, Inhabited

inductive RegStatus where
  | active
  | barred
  deriving DecidableEq, Repr, Inhabited

/-- An entry of the vehicle register (07 7.5). -/
structure RegEntry where
  tag : TagId
  vehicle : VehicleId
  status : RegStatus
  permits : List Nat
  preset : Option PresetTare
  deriving DecidableEq, Repr, Inhabited

/-- A class or settings commit in progress (R132). -/
structure Commit where
  table : TableId
  corr : U16
  crc : Nat
  deriving DecidableEq, Repr, Inhabited

/-- A register change in progress (R137): the new content of the slot. -/
structure RegChange where
  corr : U16
  put : Bool
  index : Nat
  entry : Option RegEntry
  deriving DecidableEq, Repr, Inhabited

structure TableStore where
  classStaged : Vector (Slot (Option ClassEntry)) 48
  classActive : Vector (Slot (Option ClassEntry)) 48
  classCrc : Nat
  settingsStaged : SettingsImage
  settingsActive : SettingsImage
  settingsPrevious : Option SettingsImage
  /-- The register's slots that are not plainly empty, by rising index; an unlisted slot is empty with right parity. -/
  register : List (Nat × Slot (Option RegEntry))
  commit : Option Commit
  regChange : Option RegChange
  deriving DecidableEq, Repr

/-! ## Audit unit -/

inductive StepResult where
  | pass
  | fail
  | noStable
  deriving DecidableEq, Repr, Inhabited

/-- The reading of a measured step (R152): indicated weight and error in grams, mpe in kg. -/
structure Reading where
  indicated : Int
  error : Int
  mpe : Nat
  deriving DecidableEq, Repr, Inhabited

/-- A step of an audit session. Its number is its place in the step list. `result` is absent while in flight. -/
structure AuditStepRec where
  kind : StepKind
  reference : Int
  cell : Option Nat
  reading : Option Reading
  result : Option StepResult
  deriving DecidableEq, Repr, Inhabited

inductive AuditVerdict where
  | pass
  | fail
  | incomplete
  deriving DecidableEq, Repr, Inhabited

/-- What an ACTIVE session recorded when it became ACTIVE (R150). -/
structure AtOpen where
  lane : LaneState
  deck : ServiceState
  count : Nat
  deriving DecidableEq, Repr, Inhabited

/-- The audit session (08 8.3): PENDING while `atOpen` is none, ACTIVE after. -/
structure Session where
  deck : DeckId
  reason : AuditReason
  openTime : SiteTime
  atOpen : Option AtOpen
  writes : Nat
  steps : List AuditStepRec
  firstCounted : Nat
  inFlight : Option Nat
  deriving DecidableEq, Repr, Inhabited

/-- What a calibration write in progress will make: a new entry, or a new Zcal (R154, R156). -/
inductive CalChange where
  | entry (e : CalEntry)
  | zero (zcal : Int)
  deriving DecidableEq, Repr, Inhabited

inductive CalStage where
  | trail
  | image
  deriving DecidableEq, Repr, Inhabited

/-- A calibration write or audit zero set in progress. -/
structure CalWrite where
  corr : U16
  deck : DeckId
  change : CalChange
  newCount : Nat
  stage : CalStage
  deriving DecidableEq, Repr, Inhabited

/-- Bodies of trail records (11.4). -/
inductive TrailBody where
  | auditOpen (reason : AuditReason) (lane : LaneState) (deck : ServiceState) (count : Nat) (openTime : SiteTime)
  | step (number : Nat) (kind : StepKind) (reference : Int) (cell : Option Nat) (result : StepResult)
      (reading : Option Reading)
  | calChange (oldCrc : Nat) (newCrc : Nat) (newCount : Nat)
  | zeroSet (oldZcal : Int) (newZcal : Int) (newCount : Nat)
  | auditClose (verdict : AuditVerdict) (aborted : Bool) (recorded : Nat) (counted : Nat) (writes : Nat)
      (countAtOpen : Nat) (countNow : Nat) (deckAfter : ServiceState)
  | service (old : ServiceState) (new : ServiceState) (causes : DeckCauses)
  | tableCommit (table : TableId) (newCrc : Nat) (oldCrc : Nat)
  | restart (cause : ResetCause) (invalid : Nat) (byTrail : Nat) (mirrorLoss : Nat)
  | gap (count : Nat)
  deriving DecidableEq, Repr, Inhabited

/-- A trail record without its sequence number, which its write assigns (R160). -/
structure TrailRecord where
  deck : Option DeckId
  time : SiteTime
  valid : Bool
  body : TrailBody
  deriving DecidableEq, Repr, Inhabited

structure Trail where
  staging : List TrailRecord
  nextSeq : Nat
  oldest : Nat
  gap : Nat
  ack : Option U16
  markWaiting : Bool
  deriving DecidableEq, Repr, Inhabited

structure AuditUnit where
  session : Option Session
  waitTimer : Timer
  stepTimer : Timer
  calWrite : Option CalWrite
  trail : Trail
  deriving DecidableEq, Repr, Inhabited

/-! ## Record memory controller -/

/-- Claimants of the port that write (R168). -/
inductive Claimant where
  | trailWriter
  | ticketWriter
  | mirrorWriter
  | tableWriter
  deriving DecidableEq, Repr, Inhabited

/-- Ready operations of the table image writer (R168), oldest first in its queue. -/
inductive TableOp where
  | classRecord (index : Nat)
  | settingsImage
  | registerRecord
  | image (deck : DeckId)
  | calWrite (deck : DeckId)
  deriving DecidableEq, Repr, Inhabited

/-- Fetches that wait as readout claims, with their correlation numbers. -/
inductive Readout where
  | ticket (corr : U16)
  | trail (corr : U16)
  deriving DecidableEq, Repr, Inhabited

/-- The record operation in progress: what is written or read. -/
inductive OpKind where
  | trailRecord
  | trailMark
  | ticketRecord
  | ticketMark
  | mirror (slot : Nat)
  | table (op : TableOp)
  | ticketFetch (corr : U16)
  | trailFetch (corr : U16)
  | holdRead (corr : U16) (length : Nat)
  deriving DecidableEq, Repr, Inhabited

/-- The record operation in progress. `bytes` is what a write writes, formed at its grant; empty for a read. -/
structure Op where
  kind : OpKind
  address : Nat
  bytes : List Byte
  deriving DecidableEq, Repr, Inhabited

/-- Hold state (R171). REQUESTED keeps the request's correlation number. -/
inductive HoldState where
  | none
  | requested (corr : U16)
  | held
  deriving DecidableEq, Repr, Inhabited

/-- Whether the end of a hold waits for the HOLD_READ being performed (R174). -/
inductive HoldEnding where
  | no
  | released (corrs : List U16)
  | lapsed
  deriving DecidableEq, Repr, Inhabited

/-- A HOLD_READ that has been taken and not begun (R173). -/
structure PendingRead where
  corr : U16
  address : Nat
  length : Nat
  deriving DecidableEq, Repr, Inhabited

/-- `marking`: the decks whose image write marks the step in progress has set so far, so that they stand in deck order
(R146); the model's own, empty between steps (log 47). -/
structure Store where
  fault : Bool
  hold : HoldState
  ending : HoldEnding
  holdTimer : Timer
  holdReadCount : Nat
  holdReads : List PendingRead
  op : Option Op
  tableQueue : List TableOp
  marking : List DeckId
  readout : List Readout
  deriving DecidableEq, Repr, Inhabited

/-! ## Yard link interface -/

/-- The 32 requests, in the order of their codes (11.2). -/
inductive Req where
  | status | timeSet | restart | laneOpen | laneClose | admitVehicle | consign | release | visitAbort | cancelPending
  | pendingRead | ticketFetch | ticketAck | trailFetch | trailAck | tableWrite | tableRead | tableCommit
  | tableDiscard | registerPut | registerRemove | registerGet | auditOpen | auditStep | calWrite | zeroSet
  | auditClose | auditAbort | storeHold | storeRelease | holdRead | monitorSet
  deriving DecidableEq, Repr, Inhabited

/-- Refusal reasons, in the order of their codes (R184). -/
inductive Reason where
  | busy | starting | badTarget | badValue | wrongState | timeInvalid | tablesInvalid | sessionActive | noSession
  | switchOpen | trailFull | storeHeld | storeFault | storeBusy | noHold | crcMismatch | commitPending | full
  | notFound | duplicate | claimed | alreadyActive | outOfOrder | stepsFull
  deriving DecidableEq, Repr, Inhabited

/-- A lane's part of STATUS (R188). `adoptedActive`: the lane has adopted the active settings image (R129). -/
structure LaneStatus where
  state : LaneState
  causes : LaneCauses
  blocks : Blocks
  beamLatches : PerEnd Bool
  positions : PerEnd Position
  failures : PerEnd Bool
  imageValid : Bool
  imageCrc : Nat
  adoptedActive : Bool
  deriving DecidableEq, Repr, Inhabited

/-- A visit's part of STATUS. -/
structure VisitStatus where
  count : Byte
  state : VisitState
  kind : Option VisitKind
  entry : LaneEnd
  vehicle : Option VehicleId
  exitOverrun : Bool
  overstaySent : Bool
  storeWait : Bool
  heldReleased : Bool
  deriving DecidableEq, Repr, Inhabited

/-- A deck's part of STATUS. -/
structure DeckStatus where
  service : ServiceState
  causes : DeckCauses
  status : WeightStatus
  displayed : Option Int
  counter : Nat
  usable : Bool
  deriving DecidableEq, Repr, Inhabited

/-- The audit session's part of STATUS. -/
structure SessionStatus where
  deck : DeckId
  reason : AuditReason
  active : Bool
  writes : Nat
  steps : Nat
  firstCounted : Nat
  inFlight : Option Nat
  deriving DecidableEq, Repr, Inhabited

/-- Hold state as STATUS names it. -/
inductive HoldName where
  | none
  | requested
  | held
  deriving DecidableEq, Repr, Inhabited

/-- The part group of STATUS. -/
structure PartStatus where
  startup : Bool
  cause : ResetCause
  time : SiteTime
  valid : Bool
  lost : Bool
  nextNotice : U16
  drops : Nat
  outstanding : Nat
  restartPending : Bool
  deriving DecidableEq, Repr, Inhabited

/-- The groups of STATUS that are absent during startup. -/
structure FullStatus where
  lanes : PerLane LaneStatus
  visits : PerLane (Option VisitStatus)
  decks : List DeckStatus
  hold : HoldName
  unread : Nat
  nextSerial : Nat
  oldestUnread : Nat
  stagedTickets : Nat
  ticketAck : Bool
  trailFree : Nat
  unacknowledged : Nat
  nextSeq : Nat
  oldestSeq : Nat
  stagedTrail : Nat
  trailGap : Nat
  pendingHeld : Nat
  dirtySlots : Nat
  consignments : Nat
  session : Option SessionStatus
  classCrc : Nat
  settingsCrc : Nat
  previousCrc : Option Nat
  commit : Option TableId
  monitor : Option (DeckId × Nat)
  deriving DecidableEq, Repr, Inhabited

/-- The outputs of a lane as a STATUS during startup reports them (R188, R33). -/
structure LaneOutputs where
  signals : PerEnd Signal
  barriers : PerEnd BarrierCommand
  deriving DecidableEq, Repr, Inhabited

/-- The response of STATUS (R188): `full` is absent during startup, when `starting` gives each lane's outputs. -/
structure StatusReport where
  part : PartStatus
  lanes : PerLane LaneState
  starting : Option (PerLane LaneOutputs)
  storeFault : Bool
  full : Option FullStatus
  deriving DecidableEq, Repr, Inhabited

/-- An entry answered by TABLE_READ, or the DAMAGED indication (R130). -/
inductive TableContent where
  | damaged
  | classEntry (e : Option ClassEntry)
  | laneEntry (e : LaneEntry)
  | siteEntry (e : SiteEntry)
  deriving DecidableEq, Repr, Inhabited

/-- A slot answered by REGISTER_GET (R137). -/
inductive RegContent where
  | empty
  | damaged
  | entry (e : RegEntry)
  deriving DecidableEq, Repr, Inhabited

/-- What a response carries beside its outcome, as the owning rule names it. -/
inductive RespData where
  | none
  | status (r : StatusReport)
  | admitted (lane : LaneId) (count : Byte)
  | cancelled (slot : Nat)
  | pending (slot : Nat) (entry : Option PendingEntry) (dirty : Bool) (held : Nat)
  | ticket (serial : Nat) (record : Option Ticket) (unread : Nat) (oldest : Nat)
  | ticketAck (oldest : Nat) (unread : Nat)
  | trail (sequence : Nat) (record : Option TrailRecord) (unacknowledged : Nat) (oldest : Nat)
  | trailAck (oldest : Nat) (unacknowledged : Nat)
  | table (c : TableContent)
  | committed (crc : Nat)
  | discarded (replaced : Nat)
  | register (c : RegContent)
  | sessionOpened (active : Bool)
  | stepNumber (n : Nat)
  | calibrated (count : Nat) (crc : Nat)
  | verdict (v : AuditVerdict)
  | bytes (b : List Byte)
  deriving DecidableEq, Repr, Inhabited

inductive RespOutcome where
  | done (d : RespData)
  | accepted (d : RespData)
  | refused (r : Reason)
  deriving DecidableEq, Repr, Inhabited

/-- A formed response (R184). `code` is the request code; `immediate`: formed at admission, holding no outstanding
entry (R182); `dup`: marked duplicate correlation. -/
structure Response where
  corr : U16
  code : Nat
  outcome : RespOutcome
  immediate : Bool
  dup : Bool
  deriving DecidableEq, Repr, Inhabited

/-- The blocks that own requests (R183). A lane controller and a deck channel are those of the target that the request
names, whether it exists or not. -/
inductive Owner where
  | yardLink
  | laneController (lane : Byte)
  | pairingUnit
  | ticketUnit
  | tableStore
  | auditUnit
  | deckChannel (deck : Byte)
  | deckChannels
  | recordMemory
  deriving DecidableEq, Repr, Inhabited

/-- An entry of the outstanding request table (10, Outstanding request table; R182, R183). -/
structure Outstanding where
  corr : U16
  req : Req
  owner : Owner
  deriving DecidableEq, Repr, Inhabited

/-- Images that a PARITY notice names (R129). -/
inductive ImageName where
  | staged
  | active
  | previous
  deriving DecidableEq, Repr, Inhabited

/-- What a PARITY notice names (R6, R129, R142). -/
inductive ParityAt where
  | deck (d : DeckId)
  | classEntry (image : ImageName) (index : Nat)
  | settingsEntry (image : ImageName) (index : Nat)
  | registerSlot (index : Nat)
  deriving DecidableEq, Repr, Inhabited

/-- Reasons of TAG_IGNORED (R48). -/
inductive IgnoreReason where
  | laneBusy
  | notOpen
  | blocked
  | endClosed
  deriving DecidableEq, Repr, Inhabited

/-- Regions of record memory (R166). -/
inductive Region where
  | control
  | tickets
  | trail
  | mirror
  | calibration
  | classes
  | settings
  | register
  deriving DecidableEq, Repr, Inhabited

/-- What a STARTUP notice and a RESTART record count (R179). -/
structure StartupCounts where
  invalid : Nat
  byTrail : Nat
  mirrorLoss : Nat
  deriving DecidableEq, Repr, Inhabited

/-- The notices with their contents (R73, 10.5). -/
inductive NoticeBody where
  | visitStarted (lane : LaneId) (count : Byte) (entry : LaneEnd) (who : TagId ⊕ VehicleId)
  | visitCaptured (lane : LaneId) (count : Byte) (kind : Option VisitKind) (gross : Int) (verdict : VerdictKind)
  | visitClosed (lane : LaneId) (count : Byte) (kind : Option VisitKind) (gross : Option Int)
      (abort : Option AbortReason) (exitAxles : Nat)
  | visitHeld (lane : LaneId) (count : Byte) (vehicle : Option VehicleId) (gross : Int) (overGroups : List Nat)
      (overGross : Bool)
  | visitAborted (lane : LaneId) (count : Byte) (vehicle : Option VehicleId) (kind : Option VisitKind)
      (reason : AbortReason)
  | overstay (lane : LaneId) (count : Byte) (vehicle : Option VehicleId) (state : VisitState)
  | tagIgnored (reader : Nat) (tag : TagId) (reason : IgnoreReason)
  | tagUnknown (lane : LaneId) (count : Byte) (entry : LaneEnd) (tag : TagId)
  | ticketStored (serial : Nat) (kind : TicketKind) (vehicle : VehicleId) (unread : Nat)
  | pendingExpired (vehicle : VehicleId) (slot : Nat) (gross : Int) (time : SiteTime)
  | consignExpired (vehicle : VehicleId) (commodity : U16)
  | laneState (lane : LaneId) (state : LaneState) (causes : LaneCauses)
  | deckService (deck : DeckId) (old : ServiceState) (new : ServiceState) (causes : DeckCauses)
  | auditPending (deck : DeckId) (reason : AuditReason)
  | auditStarted (deck : DeckId) (reason : AuditReason)
  | auditLapsed (deck : DeckId) (reason : AuditReason)
  | stepDone (deck : DeckId) (number : Nat) (step : AuditStepRec)
  | auditEnded (deck : DeckId) (verdict : AuditVerdict) (state : ServiceState)
  | parity (what : ParityAt)
  | storeState (region : Region) (slot : Nat) (claimant : Claimant)
  | holdGranted (limit : Nat)
  | holdLapsed (reads : Nat)
  | tableAdopted (lane : LaneId) (crc : Nat) (siteChanged : Bool)
  | startup (cause : ResetCause) (timeValid : Bool) (storeFault : Bool) (counts : StartupCounts)
  deriving DecidableEq, Repr

/-- A notice frame (10.5): number, site clock with its valid flag, and content. Its class is NoticeBody.urgent. -/
structure Notice where
  number : U16
  time : SiteTime
  valid : Bool
  body : NoticeBody
  deriving DecidableEq, Repr

/-- A monitor frame (R22). Cell values and raw weight in grams. -/
structure MonitorFrame where
  deck : DeckId
  seq : Nat
  gapCount : Nat
  cells : List Int
  raw : Int
  displayed : Int
  status : WeightStatus
  deriving DecidableEq, Repr, Inhabited

inductive OutFrame where
  | response (r : Response)
  | notice (n : Notice)
  | monitor (m : MonitorFrame)
  deriving DecidableEq, Repr

structure Link where
  rxBuffer : List Byte
  outstanding : List Outstanding
  responses : List Response
  urgent : List Notice
  routine : List Notice
  monitorSlot : Option MonitorFrame
  nextNotice : U16
  lost : Bool
  drops : Nat
  restart : Option U16
  tx : Option OutFrame
  deriving DecidableEq, Repr

/-- Monitor selection and decimation count (R21, R22). -/
structure Monitor where
  selection : Option (DeckId × Nat)
  count : Nat
  deriving DecidableEq, Repr, Inhabited

/-! ## The part -/

/-- Everything inside the BW-620: all of the machine but the record memory device and the queue of waiting commands. -/
structure Part where
  phase : Phase
  cause : ResetCause
  clock : Clock
  calEn : Bool
  monitor : Monitor
  decks : Vector Deck 6
  lanes : PerLane Lane
  pairing : Pairing
  tickets : TicketUnit
  tables : TableStore
  audit : AuditUnit
  store : Store
  link : Link
  fresh : Nat
  deriving DecidableEq, Repr

/-- The machine: the part, the record memory on its port (9.1), and the commands that wait, first in first out. -/
structure State extends Part where
  mem : List Host.Cell
  pending : List Instr
  deriving DecidableEq, Repr

/-- Why the machine stops. The manual names no event that stops the part (INVENTORY.md, Faults), so no command raises
one: the type has no constructor. -/
inductive Fault where
  deriving DecidableEq, Repr

/-- Why a command has no meaning. `notModelled` is raised by Dispatch.lean's refused arms alone, of which there are
none; it would be safe. -/
inductive Refusal where
  /-- The command has no meaning in this model yet. Raised by exec's refused arms only; safe. -/
  | notModelled (mnemonic : String)
  deriving DecidableEq, Repr

/-! ## Reset values -/

def DeckCauses.empty : DeckCauses := ⟨false, false, false, false, false⟩
def LaneCauses.empty : LaneCauses := ⟨false, false, false, false⟩
def Blocks.empty : Blocks := ⟨false, false, false, false, false, false⟩

/-- The default lane entry (07 7.2). -/
def LaneEntry.default_ : LaneEntry :=
  { admitting := .both, spacing := 1000, window := 800, speedMin := 20, speedMax := 100, groupGap := 2500,
    quietTime := 3, settleTime := 2000, dwellLimit := 300, identityTimeout := 60, consignTimeout := 120,
    moveLimit := 8, debounce := 50, overload := .hold, presetUse := .whenFull, minGross := 1000, emptyBand := 5 }

/-- The default site entry (07 7.2). -/
def SiteEntry.default_ : SiteEntry :=
  { pendingAge := 24, consignAge := 120, auditWait := 10, holdLimit := 30, presetAge := 90 }

/-- An entry just written: fresh parity, damaged mark clear (R129). -/
def Slot.fresh {α : Type} (v : α) : Slot α := ⟨v, true, false⟩

/-- A deck from the start of a reset until startup restores it (R23, R165). -/
def Deck.afterReset : Deck :=
  { lastSeq := none, gapCount := 0, sampleTimer := .stopped, filter := [], stability := [], status := .noData,
    published := none, remembered := List.replicate 8 .good, badCells := false, zd := none, clearance := .stopped,
    cal := none, counter := 0, service := .fault, causes := .empty, persisted := ⟨.trade, .empty⟩, marker := none }

/-- A lane end from the start of a reset until the end of startup (R45, R74, R95), with its pins as they stand. The
debounced level and the blocked latch, which R45 gives at the end of startup only, are CLEAR until then (log 17). -/
def EndState.afterReset (beamRaw up down : Bool) : EndState :=
  { latch1 := none, latch2 := none, decoder := .idle, beamRaw := beamRaw, beamLevel := false, beamLatch := false,
    debounce := .stopped, barrier := ⟨up, down, .stop, .stopped, false⟩, lastRead := none }

/-- A lane from the start of a reset until the end of startup (R45, R74, R95), with its pins as they stand. -/
def Lane.afterReset (stopInput : Bool) (ends : PerEnd EndState) : Lane :=
  { state := .closed, causes := .empty, blocks := .empty, stopLatch := false, stopInput := stopInput, ends := ends,
    visit := none, nextVisit := 0, waitTimer := .stopped, dwellTimer := .stopped, quietTimer := .stopped,
    settleTimer := .stopped, clearTimer := .stopped, axles := [], overflow := 0, withdrawn := [],
    axleInvalid := false, exitAxles := 0, adoptedActive := true, adoptedValid := false }

def Pairing.afterReset : Pairing :=
  { slots := Vector.replicate 64 none, nextCreation := 1, dirty := [], mirrorLoss := 0, consignments := [] }

def TicketUnit.afterReset : TicketUnit :=
  { staging := [], nextSerial := 1, oldestUnread := 1, ack := none, markWaiting := false }

/-- CRC-32 of a class image of 48 cleared entries, 1536 zero bytes (test_cleared_class_image_crc computes it). -/
def clearedClassCrc : Nat := 0x6C1CE17E

/-- CRC-32 of the default settings image (test_default_settings_crc computes it). -/
def defaultSettingsCrc : Nat := 0x2369F012

/-- The default settings image, freshly written. -/
def SettingsImage.default_ : SettingsImage :=
  { lanes := ⟨.fresh .default_, .fresh .default_⟩, site := .fresh .default_, crc := defaultSettingsCrc }

def TableStore.afterReset : TableStore :=
  { classStaged := Vector.replicate 48 (.fresh none), classActive := Vector.replicate 48 (.fresh none),
    classCrc := clearedClassCrc, settingsStaged := .default_, settingsActive := .default_, settingsPrevious := none,
    register := [], commit := none, regChange := none }

def AuditUnit.afterReset : AuditUnit :=
  { session := none, waitTimer := .stopped, stepTimer := .stopped, calWrite := none,
    trail := { staging := [], nextSeq := 1, oldest := 1, gap := 0, ack := none, markWaiting := false } }

def Store.afterReset : Store :=
  { fault := false, hold := .none, ending := .no, holdTimer := .stopped, holdReadCount := 0, holdReads := [],
    op := none, tableQueue := [], marking := [], readout := [] }

def Link.afterReset : Link :=
  { rxBuffer := [], outstanding := [], responses := [], urgent := [], routine := [], monitorSlot := none,
    nextNotice := 0, lost := false, drops := 0, restart := none, tx := none }

/-- The part just after POWER_ON with nothing in record memory and every pin at its DESIGN CHOICE level (log 4, log 5):
every block at its reset values, the site clock lost, startup in progress (R175, R192). -/
def Part.reset : Part :=
  { phase := .startup, cause := .power,
    clock := { running := 0, sec := 0, ms := 0, valid := false, boundaryDue := false },
    calEn := false, monitor := ⟨none, 0⟩, decks := Vector.replicate 6 Deck.afterReset,
    lanes := ⟨.afterReset false ⟨.afterReset false false false, .afterReset false false false⟩,
      .afterReset false ⟨.afterReset false false false, .afterReset false false false⟩⟩,
    pairing := .afterReset, tickets := .afterReset, tables := .afterReset, audit := .afterReset,
    store := .afterReset, link := .afterReset, fresh := 0 }

/-- The machine right after reset, with nothing in record memory and no command waiting. -/
def State.reset : State := { Part.reset with mem := [], pending := [] }

/-- The machine with its part changed, its memory and its queue left alone: what most commands do. -/
def State.act (s : State) (f : Part → Part) : State := { s with toPart := f s.toPart }

end Sys2Proof.Machine
end

