-- ==== Sys2Proof/Machine/Records.lean ====
section
/-! DEFINITION. The byte layouts of entries and records (11.1, 11.3, 11.4), each with its reader, which answers none for
a field outside its range (R194). A flag byte other than 0 and 1 is taken as out of range (log 33). -/

namespace Sys2Proof

/-! ## Codes of the types that commands carry (11.4) -/

def AuditReason.code : AuditReason → Nat
  | .periodic => 1
  | .repair => 2
  | .complaint => 3

def AuditReason.ofCode : Nat → Option AuditReason
  | 1 => some .periodic
  | 2 => some .repair
  | 3 => some .complaint
  | _ => none

def StepKind.code : StepKind → Nat
  | .zero => 1
  | .load => 2
  | .corner => 3
  | .returnZero => 4

def StepKind.ofCode : Nat → Option StepKind
  | 1 => some .zero
  | 2 => some .load
  | 3 => some .corner
  | 4 => some .returnZero
  | _ => none

def TableId.code : TableId → Nat
  | .classes => 1
  | .settings => 2

def TableId.ofCode : Nat → Option TableId
  | 1 => some .classes
  | 2 => some .settings
  | _ => none

def LaneId.ofCode : Nat → Option LaneId
  | 0 => some .l0
  | 1 => some .l1
  | _ => none

end Sys2Proof

namespace Sys2Proof.Machine

/-! ## Shared fields (11.1) -/

def vehicleField (v : VehicleId) : List Byte := padTo 12 v

def timeField (t : SiteTime) : List Byte := leBytes 4 t.sec ++ leBytes 2 t.ms

def readTime (bs : List Byte) (o : Nat) : Option SiteTime :=
  let t : SiteTime := ⟨field bs o 4, field bs (o + 4) 2⟩
  if t.ms ≤ 999 then some t else none

def countsField (cs : List Nat) : List Byte :=
  leBytes 4 (cs.getD 0 0) ++ (leBytes 4 (cs.getD 1 0) ++ leBytes 4 (cs.getD 2 0))

def readCounts (bs : List Byte) (o : Nat) : List Nat := [field bs o 4, field bs (o + 4) 4, field bs (o + 8) 4]

def consignmentField (c : Consignment) : List Byte :=
  leBytes 2 c.commodity.toNat ++ (c.grade0 :: c.grade1 :: (leBytes 4 ((c.sample.map (·.toNat)).getD 0) ++
    [c.bin.getD 0, BitVec.ofNat 8 (bitOf c.sample.isSome 0 + bitOf c.bin.isSome 1)]))

/-- The ranges of 03 3.5. -/
def consignmentOk (c : Consignment) : Bool :=
  decide (1 ≤ c.commodity.toNat ∧ c.commodity.toNat ≤ 999) && isGradeChar c.grade0 && isGradeChar c.grade1 &&
    match c.bin with
    | none => true
    | some b => decide (1 ≤ b.toNat ∧ b.toNat ≤ 64)

/-- A consignment, none where a field is out of range; presence bits that the layout does not define are not tested
(log 33). -/
def readConsignment (bs : List Byte) (o : Nat) : Option Consignment :=
  let p := field bs (o + 9) 1
  let c : Consignment :=
    { commodity := BitVec.ofNat 16 (field bs o 2)
      grade0 := BitVec.ofNat 8 (field bs (o + 2) 1)
      grade1 := BitVec.ofNat 8 (field bs (o + 3) 1)
      sample := if flagBit p 0 then some (BitVec.ofNat 32 (field bs (o + 4) 4)) else none
      bin := if flagBit p 1 then some (BitVec.ofNat 8 (field bs (o + 8) 1)) else none }
  if consignmentOk c then some c else none

def VerdictKind.code : VerdictKind → Nat
  | .compliant => 1
  | .over => 2
  | .unclassified => 3
  | .notScreened => 4

def VerdictKind.ofCode : Nat → Option VerdictKind
  | 1 => some .compliant
  | 2 => some .over
  | 3 => some .unclassified
  | 4 => some .notScreened
  | _ => none

def groupMask (gs : List Nat) : Nat := ((List.range 8).map fun i => bitOf (gs.contains (i + 1)) i).sum

def readGroupMask (n : Nat) : List Nat := ((List.range 8).filter fun i => n.testBit i).map (· + 1)

/-- The verdict summary; a ticket leaves its HELD_RELEASED bit unused (`held` false). -/
def verdictField (v : VerdictSummary) (held : Bool) : List Byte :=
  leBytes 1 v.kind.code ++ (leBytes 1 (v.classId.getD 0) ++ (leBytes 1 (groupMask v.overGroups) ++
    leBytes 1 (bitOf v.overGross 0 + bitOf held 1)))

def within (lo hi n : Nat) : Bool := decide (lo ≤ n ∧ n ≤ hi)

/-- The columns of R92: the class id and the over marks that a verdict of this kind can carry. -/
def VerdictSummary.ok (v : VerdictSummary) : Bool :=
  let marked := decide (v.overGroups ≠ []) || v.overGross
  match v.kind with
  | .compliant => v.classId.any (within 1 250) && !marked
  | .over => v.classId.any (within 1 250) && marked
  | .unclassified | .notScreened => v.classId.isNone && !marked

/-- A verdict summary, none where a field is out of range (R92, R194). Flag bits that the layout does not define are not
tested (log 33). -/
def readVerdict (bs : List Byte) (o : Nat) (heldBit : Bool) : Option VerdictSummary := do
  let kind ← VerdictKind.ofCode (field bs o 1)
  let c := field bs (o + 1) 1
  let f := field bs (o + 3) 1
  let v : VerdictSummary :=
    { kind := kind, classId := if c = 0 then none else some c, overGroups := readGroupMask (field bs (o + 2) 1),
      overGross := flagBit f 0, heldReleased := heldBit && flagBit f 1 }
  if v.ok then some v else none

def DeckCauses.code (c : DeckCauses) : Nat :=
  bitOf c.linkLoss 0 + bitOf c.cellFault 1 + bitOf c.zeroRange 2 + bitOf c.tableParity 3 + bitOf c.imageInvalid 4

def DeckCauses.ofCode (n : Nat) : Option DeckCauses :=
  if n < 32 then some ⟨flagBit n 0, flagBit n 1, flagBit n 2, flagBit n 3, flagBit n 4⟩ else none

def ServiceState.code : ServiceState → Nat
  | .trade => 0
  | .audit => 1
  | .suspended => 2
  | .fault => 3

def ServiceState.ofCode : Nat → Option ServiceState
  | 0 => some .trade
  | 1 => some .audit
  | 2 => some .suspended
  | 3 => some .fault
  | _ => none

def LaneState.code : LaneState → Nat
  | .closed => 0
  | .opened => 1
  | .audit => 2
  | .fault => 3

def LaneState.ofCode : Nat → Option LaneState
  | 0 => some .closed
  | 1 => some .opened
  | 2 => some .audit
  | 3 => some .fault
  | _ => none

def DeckId.ofCode (n : Nat) : Option DeckId := if h : n < 6 then some ⟨n, h⟩ else none

/-- A flag byte (log 33). -/
def readFlag : Nat → Option Bool
  | 0 => some false
  | 1 => some true
  | _ => none

/-- A register index with its presence flag. -/
def readIndex (present : Bool) (n : Nat) : Option (Option Nat) :=
  if present then (if n ≤ 1023 then some (some n) else none) else some none

/-! ## Read marks -/

def markBytes (k : SlotKind) (n : Nat) : List Byte := sealRecord k (leBytes 4 n)

def readMark (bs : List Byte) : Nat := field bs 4 4

/-! ## Class entries and records (R127) -/

def classEntryBytes : Option ClassEntry → List Byte
  | none => List.replicate 32 0
  | some c =>
    leBytes 1 1 ++ (leBytes 1 c.id ++ (leBytes 1 c.sizes.length ++ (0 ::
      (padTo 8 (c.sizes.flatMap (leBytes 1)) ++ (padTo 16 (c.limits.flatMap (leBytes 2)) ++ leBytes 4 c.gross)))))

/-- The ranges of R127. -/
def ClassEntry.ok (c : ClassEntry) : Bool :=
  decide (1 ≤ c.id ∧ c.id ≤ 250) && decide (1 ≤ c.sizes.length ∧ c.sizes.length ≤ 8) &&
    c.sizes.all (fun n => decide (1 ≤ n ∧ n ≤ 4)) && decide (c.limits.length = c.sizes.length) &&
    c.limits.all (fun n => decide (1 ≤ n ∧ n ≤ 65000)) && decide (1 ≤ c.gross ∧ c.gross ≤ 200000)

/-- The entry of 32 bytes, none where R127 refuses it BAD_VALUE. A size or a limit beyond the group count counts as one
more size or limit (log 33). -/
def parseClassEntry (bs : List Byte) : Option (Option ClassEntry) := do
  let valid ← readFlag (field bs 0 1)
  if valid then
    let n := field bs 2 1
    let c : ClassEntry :=
      { id := field bs 1 1
        sizes := (List.range (min n 8)).map fun i => field bs (4 + i) 1
        limits := (List.range (min n 8)).map fun i => field bs (12 + 2 * i) 2
        gross := field bs 28 4 }
    let rest := (List.range 8).all fun i =>
      decide (i < n) || (field bs (4 + i) 1 == 0 && field bs (12 + 2 * i) 2 == 0)
    if n ≤ 8 ∧ rest = true ∧ c.ok = true then return some c else none
  else return none

def classRecordBytes (index : Nat) (c : Option ClassEntry) (crc : Nat) : List Byte :=
  sealRecord .classRecord (leBytes 1 index ++ (0 :: 0 :: 0 :: (classEntryBytes c ++ (List.replicate 16 0 ++ leBytes 4 crc))))

/-- The 32 bytes of the entry of a class record. -/
def classEntryField (bs : List Byte) : List Byte := slice bs 8 32

/-- A cleared entry as it is stored holds 0 in every field (11.4, R194); its unused byte is not tested. -/
def clearedClass (bs : List Byte) : Bool := bs.take 3 ++ 0 :: bs.drop 4 == classEntryBytes none

/-- A class record as (index, entry, image CRC-32), none where a field of its entry is out of range (R194). -/
def readClassRecord (bs : List Byte) : Option (Nat × Option ClassEntry × Nat) := do
  let c ← parseClassEntry (classEntryField bs)
  if c.isNone && !clearedClass (classEntryField bs) then none else return (field bs 4 1, c, field bs 56 4)

/-- The CRC-32 of a class image (R129, 11.4). -/
def classImageCrc (cs : List (Option ClassEntry)) : Nat := crc32 (cs.flatMap classEntryBytes)

/-! ## Settings entries and image (R128) -/

def Admitting.code : Admitting → Nat
  | .endA => 1
  | .endB => 2
  | .both => 3

def Admitting.ofCode : Nat → Option Admitting
  | 1 => some .endA
  | 2 => some .endB
  | 3 => some .both
  | _ => none

def OverloadAction.code : OverloadAction → Nat
  | .hold => 0
  | .note => 1

def PresetUse.code : PresetUse → Nat
  | .never => 0
  | .whenFull => 1

def laneEntryBytes (x : LaneEntry) : List Byte :=
  padTo 32 (leBytes 1 1 ++ (leBytes 1 x.admitting.code ++ (leBytes 2 x.spacing ++ (leBytes 2 x.window ++
    (leBytes 1 x.speedMin ++ (leBytes 1 x.speedMax ++ (leBytes 2 x.groupGap ++ (leBytes 1 x.quietTime ++
    (leBytes 2 x.settleTime ++ (leBytes 2 x.dwellLimit ++ (leBytes 2 x.identityTimeout ++ (leBytes 2 x.consignTimeout ++
    (leBytes 1 x.moveLimit ++ (leBytes 2 x.debounce ++ (leBytes 1 x.overload.code ++ (leBytes 1 x.presetUse.code ++
    (leBytes 2 x.minGross ++ leBytes 1 x.emptyBand)))))))))))))))))

def siteEntryBytes (x : SiteEntry) : List Byte :=
  padTo 32 (leBytes 1 2 ++ (leBytes 1 x.pendingAge ++ (leBytes 1 x.consignAge ++ (leBytes 1 x.auditWait ++
    (leBytes 1 x.holdLimit ++ leBytes 2 x.presetAge)))))

/-- The ranges of 07 7.2, lane entry. -/
def LaneEntry.ok (x : LaneEntry) : Bool :=
  within 500 2000 x.spacing && within 50 2000 x.window && within 10 50 x.speedMin && within 50 200 x.speedMax &&
    within 1200 3000 x.groupGap && within 1 10 x.quietTime && within 500 10000 x.settleTime &&
    within 30 900 x.dwellLimit && within 10 300 x.identityTimeout && within 10 600 x.consignTimeout &&
    within 2 20 x.moveLimit && within 10 500 x.debounce && within 200 5000 x.minGross && within 1 20 x.emptyBand

/-- The ranges of 07 7.2, site entry. -/
def SiteEntry.ok (x : SiteEntry) : Bool :=
  within 1 72 x.pendingAge && within 10 240 x.consignAge && within 1 30 x.auditWait && within 1 120 x.holdLimit &&
    within 1 365 x.presetAge

/-- A lane entry of 32 bytes, none where R128 refuses it. -/
def parseLaneEntry (bs : List Byte) : Option LaneEntry := do
  let admitting ← Admitting.ofCode (field bs 1 1)
  let overload ← readFlag (field bs 22 1)
  let presetUse ← readFlag (field bs 23 1)
  let x : LaneEntry :=
    { admitting := admitting, spacing := field bs 2 2, window := field bs 4 2, speedMin := field bs 6 1,
      speedMax := field bs 7 1, groupGap := field bs 8 2, quietTime := field bs 10 1, settleTime := field bs 11 2,
      dwellLimit := field bs 13 2, identityTimeout := field bs 15 2, consignTimeout := field bs 17 2,
      moveLimit := field bs 19 1, debounce := field bs 20 2, overload := if overload then .note else .hold,
      presetUse := if presetUse then .whenFull else .never, minGross := field bs 24 2, emptyBand := field bs 26 1 }
  if field bs 0 1 = 1 ∧ x.ok = true then some x else none

/-- A site entry of 32 bytes, none where R128 refuses it. -/
def parseSiteEntry (bs : List Byte) : Option SiteEntry :=
  let x : SiteEntry :=
    { pendingAge := field bs 1 1, consignAge := field bs 2 1, auditWait := field bs 3 1, holdLimit := field bs 4 1,
      presetAge := field bs 5 2 }
  if field bs 0 1 = 2 ∧ x.ok = true then some x else none

/-- The 96 bytes that a settings image CRC-32 covers. -/
def settingsBytes (a b : LaneEntry) (s : SiteEntry) : List Byte :=
  laneEntryBytes a ++ (laneEntryBytes b ++ siteEntryBytes s)

def SettingsImage.bytes (x : SettingsImage) : List Byte := settingsBytes x.lanes.l0.val x.lanes.l1.val x.site.val

def settingsRecordBytes (x : SettingsImage) (crc : Nat) : List Byte :=
  sealRecord .settings (padTo 1014 x.bytes ++ leBytes 4 crc)

/-- A settings image record, none where an entry is out of range or the CRC-32 of the entries as they are stored does not
match (R141, R194). -/
def readSettingsRecord (bs : List Byte) : Option SettingsImage := do
  let a ← parseLaneEntry (slice bs 4 32)
  let b ← parseLaneEntry (slice bs 36 32)
  let s ← parseSiteEntry (slice bs 68 32)
  let crc := field bs 1018 4
  if crc = crc32 (slice bs 4 96) then
    return { lanes := ⟨.fresh a, .fresh b⟩, site := .fresh s, crc := crc }
  else none

/-! ## Register entries and records (07 7.5) -/

def RegStatus.code : RegStatus → Nat
  | .active => 1
  | .barred => 2

def regEntryBytes : Option RegEntry → List Byte
  | none => List.replicate 32 0
  | some r =>
    leBytes 6 r.tag.toNat ++ (vehicleField r.vehicle ++ (leBytes 1 r.status.code ++ (leBytes 1 r.permits.length ++
      (padTo 4 (r.permits.flatMap (leBytes 1)) ++ (leBytes 1 (bitOf r.preset.isSome 0) ++
      (leBytes 4 ((r.preset.map (·.mass)).getD 0) ++ (leBytes 2 ((r.preset.map (·.date)).getD 0) ++ [0])))))))

/-- The ranges of 07 7.5, and no repeated permit (R137). -/
def RegEntry.ok (r : RegEntry) : Bool :=
  decide (r.permits.length ≤ 4) && r.permits.all (within 1 250) && decide r.permits.Nodup &&
    match r.preset with
    | none => true
    | some t => within 1 99999 t.mass && within 0 49710 t.date

/-- A register entry of 32 bytes: none where a field is out of range, `some none` where the status is 0, empty. -/
def parseRegEntry (bs : List Byte) : Option (Option RegEntry) := do
  if field bs 18 1 = 0 then
    return none
  else
    let status ← (match field bs 18 1 with
      | 1 => some RegStatus.active
      | 2 => some RegStatus.barred
      | _ => none)
    let vehicle ← parseVehicle (slice bs 6 12)
    let present ← readFlag (field bs 24 1)
    let n := field bs 19 1
    let r : RegEntry :=
      { tag := BitVec.ofNat 48 (field bs 0 6)
        vehicle := vehicle
        status := status
        permits := (List.range (min n 4)).map fun i => field bs (20 + i) 1
        preset := if present then some ⟨field bs 25 4, field bs 29 2⟩ else none }
    if n ≤ 4 ∧ r.ok = true then return some r else none

def regRecordBytes (index : Nat) (r : Option RegEntry) : List Byte :=
  sealRecord .register (leBytes 2 index ++ (0 :: 0 :: regEntryBytes r))

/-- The entry of a register record whose index is that of its slot (log 14). -/
def readRegRecord (index : Nat) (bs : List Byte) : Option (Option RegEntry) :=
  if field bs 4 2 = index then parseRegEntry (slice bs 8 32) else none

/-! ## Pending mirror records -/

def EntryState.code : EntryState → Nat
  | .reserved => 1
  | .opened _ => 2
  | .claimed _ _ => 3

def EntryState.side : EntryState → Option GrossSide
  | .reserved => none
  | .opened g => some g
  | .claimed g _ => some g

def grossSideBytes (g : GrossSide) : List Byte :=
  leInt 4 g.gross ++ (timeField g.time ++ (leBytes 1 g.lane.toNat ++ (0 :: (countsField g.counts ++
    (consignmentField g.consignment ++ verdictField g.verdict g.verdict.heldReleased)))))

def mirrorBytes (index : Nat) : Option PendingEntry → List Byte
  | none => sealRecord .mirror (leBytes 1 index)
  | some x =>
    sealRecord .mirror (leBytes 1 index ++ (leBytes 1 x.state.code ++ (leBytes 1 (bitOf x.regIndex.isSome 0) ++
      (leBytes 1 (match x.state with
        | .claimed _ l => l.toNat
        | _ => 0) ++
      (leBytes 4 x.creation ++ (vehicleField x.vehicle ++ (leBytes 2 (x.regIndex.getD 0) ++
      (match x.state.side with
        | none => []
        | some g => grossSideBytes g))))))))

def readGrossSide (bs : List Byte) (o : Nat) : Option GrossSide := do
  let time ← readTime bs (o + 4)
  let lane ← LaneId.ofCode (field bs (o + 10) 1)
  let consignment ← readConsignment bs (o + 24)
  let verdict ← readVerdict bs (o + 34) true
  return { gross := fieldInt bs o 4, time := time, lane := lane, counts := readCounts bs (o + 12),
           consignment := consignment, verdict := verdict }

/-- A mirror record of slot `index`: none where it is invalid (R110 step 1, R194), `some none` where it is FREE. The bits
of byte 6 that the layout does not define are not tested (log 33). -/
def readMirror (index : Nat) (bs : List Byte) : Option (Option PendingEntry) := do
  if field bs 4 1 ≠ index then none
  else if field bs 5 1 = 0 then return none
  else
    let vehicle ← parseVehicle (slice bs 12 12)
    let regIndex ← readIndex (flagBit (field bs 6 1) 0) (field bs 24 2)
    let creation := field bs 8 4
    let state ← (match field bs 5 1 with
      | 1 => some EntryState.reserved
      | 2 => (readGrossSide bs 26).map EntryState.opened
      | 3 => do
        let g ← readGrossSide bs 26
        let l ← LaneId.ofCode (field bs 7 1)
        return EntryState.claimed g l
      | _ => none)
    if 1 ≤ creation then
      return some { vehicle := vehicle, regIndex := regIndex, state := state, creation := creation }
    else none

/-! ## Ticket records (R112) -/

def TicketKind.code : TicketKind → Nat
  | .net => 1
  | .presetNet => 2
  | .unpaired => 3
  | .void => 4
  | .cancelled => 5

def TicketKind.ofCode : Nat → Option TicketKind
  | 1 => some .net
  | 2 => some .presetNet
  | 3 => some .unpaired
  | 4 => some .void
  | 5 => some .cancelled
  | _ => none

/-- Offsets 58-81: tare, tare time, tare lane, unused, tare change counts; and 82-83, the preset tare date. -/
def tareBytes : TareSide → List Byte
  | .absent => List.replicate 26 0
  | .weighed t time l cs => leInt 4 t ++ (timeField time ++ (leBytes 1 l.toNat ++ (0 :: (countsField cs ++ [0, 0]))))
  | .preset t d => leInt 4 t ++ (List.replicate 20 0 ++ leBytes 2 d)

def TareSide.isPreset : TareSide → Bool
  | .preset _ _ => true
  | _ => false

def ticketBytes (serial : Nat) (t : Ticket) : List Byte :=
  sealRecord .ticket (leBytes 4 serial ++ (leBytes 1 t.kind.code ++
    (leBytes 1 (bitOf t.heldReleased 0 + bitOf t.exitOverrun 1 + bitOf t.regIndex.isSome 2 + bitOf t.exitAxles.isSome 3 +
      bitOf t.tare.isPreset 4) ++
    (vehicleField t.vehicle ++ (leBytes 2 (t.regIndex.getD 0) ++ (consignmentField t.side.consignment ++
    (leInt 4 t.side.gross ++ (timeField t.side.time ++ (leBytes 1 t.side.lane.toNat ++ (leBytes 1 (t.exitAxles.getD 0) ++
    (countsField t.side.counts ++ (tareBytes t.tare ++ (leInt 4 (t.net.getD 0) ++
      verdictField t.side.verdict false)))))))))))))

/-- Whether a ticket of this kind carries a tare (R112). -/
def TicketKind.hasTare : TicketKind → Bool
  | .net | .presetNet | .void => true
  | .unpaired | .cancelled => false

/-- Whether a ticket of this kind carries a net (R112). -/
def TicketKind.hasNet : TicketKind → Bool
  | .net | .presetNet => true
  | _ => false

/-- The tare source that a ticket of this kind can carry (R113). -/
def TicketKind.takesPreset (k : TicketKind) (preset : Bool) : Bool :=
  match k with
  | .net => !preset
  | .presetNet => preset
  | _ => true

/-- The tare side of a ticket of this kind, none where a field is out of range (R112, R113, R194). -/
def readTare (bs : List Byte) (kind : TicketKind) (preset : Bool) : Option TareSide :=
  if kind.takesPreset preset = false then none
  else if kind.hasTare then
    let t := fieldInt bs 58 4
    if preset then
      if 1 ≤ t ∧ t ≤ 99999 ∧ field bs 82 2 ≤ 49710 then some (.preset t (field bs 82 2)) else none
    else do
      let time ← readTime bs 62
      let l ← LaneId.ofCode (field bs 68 1)
      return .weighed t time l (readCounts bs 70)
  else some .absent

/-- A ticket record with its serial, none where a field is out of range (R194). Flag bits that the layout does not define
are not tested (log 33). -/
def readTicket (bs : List Byte) : Option (Nat × Ticket) := do
  let kind ← TicketKind.ofCode (field bs 8 1)
  let f := field bs 9 1
  let vehicle ← parseVehicle (slice bs 10 12)
  let regIndex ← readIndex (flagBit f 2) (field bs 22 2)
  let consignment ← readConsignment bs 24
  let time ← readTime bs 38
  let lane ← LaneId.ofCode (field bs 44 1)
  let tare ← readTare bs kind (flagBit f 4)
  let verdict ← readVerdict bs 88 false
  let serial := field bs 4 4
  let net := fieldInt bs 84 4
  if 1 ≤ serial ∧ (kind.hasNet = true → 0 < net) then
    return (serial,
      { kind := kind, vehicle := vehicle, regIndex := regIndex,
        side := { gross := fieldInt bs 34 4, time := time, lane := lane, counts := readCounts bs 46,
                  consignment := consignment, verdict := verdict },
        tare := tare, net := if kind.hasNet then some net else none,
        exitAxles := if flagBit f 3 then some (field bs 45 1) else none,
        heldReleased := flagBit f 0, exitOverrun := flagBit f 1 })
  else none

/-! ## Trail records (R160) -/

def StepResult.code : StepResult → Nat
  | .pass => 1
  | .fail => 2
  | .noStable => 3

def StepResult.ofCode : Nat → Option StepResult
  | 1 => some .pass
  | 2 => some .fail
  | 3 => some .noStable
  | _ => none

def AuditVerdict.code : AuditVerdict → Nat
  | .pass => 1
  | .fail => 2
  | .incomplete => 3

def AuditVerdict.ofCode : Nat → Option AuditVerdict
  | 1 => some .pass
  | 2 => some .fail
  | 3 => some .incomplete
  | _ => none

def ResetCause.code : ResetCause → Nat
  | .power => 1
  | .line => 2
  | .command => 3

def ResetCause.ofCode : Nat → Option ResetCause
  | 1 => some .power
  | 2 => some .line
  | 3 => some .command
  | _ => none

def TrailBody.code : TrailBody → Nat
  | .auditOpen .. => 1
  | .step .. => 2
  | .calChange .. => 3
  | .zeroSet .. => 4
  | .auditClose .. => 5
  | .service .. => 6
  | .tableCommit .. => 7
  | .restart .. => 8
  | .gap _ => 9

/-- A weight in grams as tenths of a kilogram; expanded weights and errors are whole tenths. -/
def tenths (g : Int) : Int := g / 100

/-- Offsets 17-61 of a trail record. -/
def TrailBody.bytes : TrailBody → List Byte
  | .auditOpen reason lane deck count time =>
    leBytes 1 reason.code ++ (leBytes 1 lane.code ++ (leBytes 1 deck.code ++ (leBytes 4 count ++ timeField time)))
  | .step number kind reference cell result reading =>
    leBytes 1 number ++ (leBytes 1 kind.code ++ (leInt 4 reference ++ (leBytes 1 (cell.getD 0xFF) ++
      (leBytes 1 result.code ++ (leInt 4 ((reading.map (tenths ·.indicated)).getD 0) ++
      (leInt 4 ((reading.map (tenths ·.error)).getD 0) ++ leBytes 2 ((reading.map (·.mpe)).getD 0)))))))
  | .calChange old new count => leBytes 4 old ++ (leBytes 4 new ++ leBytes 4 count)
  | .zeroSet old new count => leInt 4 old ++ (leInt 4 new ++ leBytes 4 count)
  | .auditClose verdict aborted recorded counted writes atOpen now after =>
    leBytes 1 verdict.code ++ (leBytes 1 (bitOf aborted 0) ++ (leBytes 1 recorded ++ (leBytes 1 counted ++
      (leBytes 2 writes ++ (leBytes 4 atOpen ++ (leBytes 4 now ++ leBytes 1 after.code))))))
  | .service old new causes => leBytes 1 old.code ++ (leBytes 1 new.code ++ leBytes 1 causes.code)
  | .tableCommit table new old => leBytes 1 table.code ++ (leBytes 4 new ++ leBytes 4 old)
  | .restart cause invalid byTrail loss =>
    leBytes 1 cause.code ++ (leBytes 1 invalid ++ (leBytes 1 byTrail ++ leBytes 1 loss))
  | .gap n => leBytes 2 n

def trailBytes (sequence : Nat) (r : TrailRecord) : List Byte :=
  sealRecord .trail (leBytes 4 sequence ++ (timeField r.time ++ (leBytes 1 r.body.code ++
    (leBytes 1 ((r.deck.map (·.val)).getD 0xFF) ++ (leBytes 1 (bitOf r.valid 0) ++ r.body.bytes)))))

/-- A deck field, 0xFF when none. -/
def readDeck (n : Nat) : Option (Option DeckId) := if n = 0xFF then some none else (DeckId.ofCode n).map some

/-- The deck state at open and after a session: not AUDIT (8.3, R158). -/
def readOutsideAudit (n : Nat) : Option ServiceState :=
  (ServiceState.ofCode n).bind fun s => if s = .audit then none else some s

/-- The lane state at open: CLOSED, OPEN or FAULT (8.3, R40). -/
def readLaneAtOpen (n : Nat) : Option LaneState := (LaneState.ofCode n).bind fun s => if s = .audit then none else some s

/-- The largest capacity, which bounds references and Zcal (01, The calibration entry). -/
def capacityLimit : Nat := 60000

/-- The reference and the cell position that a step of this kind can carry (R151, 11.4): 0 and none, or a mass up to the
largest capacity, with a cell for CORNER alone. -/
def stepFits (k : StepKind) (reference : Int) (cell : Nat) : Bool :=
  match k with
  | .zero | .returnZero => decide (reference = 0) && cell == 0xFF
  | .load => decide (1 ≤ reference ∧ reference ≤ capacityLimit) && cell == 0xFF
  | .corner => decide (1 ≤ reference ∧ reference ≤ capacityLimit) && within 0 7 cell

/-- A Zcal that some capacity allows. -/
def zcalOk (z : Int) : Bool := decide (z.natAbs ≤ capacityLimit)

def readTrailBody (bs : List Byte) : Option TrailBody :=
  match field bs 14 1 with
  | 1 => do
    let reason ← AuditReason.ofCode (field bs 17 1)
    let lane ← readLaneAtOpen (field bs 18 1)
    let deck ← readOutsideAudit (field bs 19 1)
    let time ← readTime bs 24
    return .auditOpen reason lane deck (field bs 20 4) time
  | 2 => do
    let kind ← StepKind.ofCode (field bs 18 1)
    let result ← StepResult.ofCode (field bs 24 1)
    let c := field bs 23 1
    if within 1 24 (field bs 17 1) && stepFits kind (fieldInt bs 19 4) c then
      return .step (field bs 17 1) kind (fieldInt bs 19 4) (if c = 0xFF then none else some c) result
        (if result = .noStable then none
         else some ⟨100 * fieldInt bs 25 4, 100 * fieldInt bs 29 4, field bs 33 2⟩)
    else none
  | 3 => some (.calChange (field bs 17 4) (field bs 21 4) (field bs 25 4))
  | 4 =>
    if zcalOk (fieldInt bs 17 4) && zcalOk (fieldInt bs 21 4) then
      some (.zeroSet (fieldInt bs 17 4) (fieldInt bs 21 4) (field bs 25 4))
    else none
  | 5 => do
    let verdict ← AuditVerdict.ofCode (field bs 17 1)
    let aborted ← readFlag (field bs 18 1)
    let after ← readOutsideAudit (field bs 31 1)
    if field bs 19 1 ≤ 24 ∧ field bs 20 1 ≤ 24 then
      return .auditClose verdict aborted (field bs 19 1) (field bs 20 1) (field bs 21 2) (field bs 23 4) (field bs 27 4)
        after
    else none
  | 6 => do
    let old ← ServiceState.ofCode (field bs 17 1)
    let new ← ServiceState.ofCode (field bs 18 1)
    let causes ← DeckCauses.ofCode (field bs 19 1)
    return .service old new causes
  | 7 => do
    let table ← TableId.ofCode (field bs 17 1)
    return .tableCommit table (field bs 18 4) (field bs 22 4)
  | 8 => do
    let cause ← ResetCause.ofCode (field bs 17 1)
    if field bs 18 1 ≤ 6 ∧ field bs 19 1 ≤ 6 ∧ field bs 20 1 ≤ 64 then
      return .restart cause (field bs 18 1) (field bs 19 1) (field bs 20 1)
    else none
  | 9 => some (.gap (field bs 17 2))
  | _ => none

/-- The kinds of trail record that concern a deck (R160): all but TABLE_COMMIT, RESTART and GAP. -/
def TrailBody.onDeck : TrailBody → Bool
  | .tableCommit .. | .restart .. | .gap _ => false
  | _ => true

/-- A trail record with its sequence, none where a field is out of range (R194): a record of a kind that concerns a deck
carries one, and one of another kind none (R160). -/
def readTrail (bs : List Byte) : Option (Nat × TrailRecord) := do
  let time ← readTime bs 8
  let deck ← readDeck (field bs 15 1)
  let valid ← readFlag (field bs 16 1)
  let body ← readTrailBody bs
  let sequence := field bs 4 4
  if 1 ≤ sequence ∧ deck.isSome = body.onDeck then
    return (sequence, { deck := deck, time := time, valid := valid, body := body })
  else none

/-! ## Calibration images (R146) -/

/-- What a calibration image carries. -/
structure CalImage where
  deck : DeckId
  entry : CalEntry
  counter : Nat
  persisted : Persisted
  marker : Option Nat
  deriving DecidableEq, Repr, Inhabited

/-- Offsets 5-19 of an image. -/
def calHeadBytes (x : CalEntry) : List Byte :=
  leBytes 1 x.node ++ (leBytes 1 x.cells.length ++ (leBytes 1 x.filterDepth ++ (leBytes 2 x.timeout ++
    (leBytes 2 x.capacity ++ (leBytes 1 x.e ++ (leBytes 1 x.motionBand ++ (leBytes 1 x.zeroRange ++
    (leBytes 1 (bitOf x.tracking 0) ++ leInt 4 x.zcal))))))))

def cellBytes (c : CellCal) : List Byte := leInt 4 c.zero ++ (leBytes 4 c.span ++ (leBytes 2 c.corner ++ [0, 0]))

/-- Offsets 32-127 of an image. -/
def calCellsBytes (x : CalEntry) : List Byte := padTo 96 (x.cells.flatMap cellBytes)

/-- Offsets 4-505 of an image, which its CRC-32 covers. A session's count of calibration writes past 65 535 is written
modulo its field (log 25). -/
def CalImage.covered (x : CalImage) : List Byte :=
  leBytes 1 x.deck.val ++ (calHeadBytes x.entry ++ (leBytes 4 x.counter ++ (leBytes 1 x.persisted.state.code ++
    (leBytes 1 x.persisted.causes.code ++ (leBytes 1 (bitOf x.marker.isSome 0) ++ (0 ::
    (leBytes 2 (x.marker.getD 0) ++ (0 :: 0 :: (calCellsBytes x.entry ++ List.replicate 378 0)))))))))

def CalImage.crc (x : CalImage) : Nat := crc32 x.covered

def CalImage.bytes (x : CalImage) : List Byte := sealRecord .calibration (x.covered ++ leBytes 4 x.crc)

def CellCal.ok (c : CellCal) : Bool :=
  decide (-8388608 ≤ c.zero ∧ c.zero ≤ 8388607) && within 1 100000 c.span && within 9000 11000 c.corner

/-- The ranges of "The calibration entry" (01). -/
def CalEntry.ok (x : CalEntry) : Bool :=
  within 0 15 x.node && within 1 8 x.cells.length && x.cells.all CellCal.ok && within 1 32 x.filterDepth &&
    within 20 500 x.timeout && within 10000 60000 x.capacity && [5, 10, 20, 50].contains x.e && within 1 5 x.motionBand &&
    within 1 4 x.zeroRange && decide (-(x.capacity : Int) ≤ x.zcal ∧ x.zcal ≤ x.capacity)

def readCell (bs : List Byte) (c : Nat) : CellCal :=
  ⟨fieldInt bs (12 * c) 4, field bs (12 * c + 4) 4, field bs (12 * c + 8) 2⟩

/-- The entry of a CAL_WRITE, offsets 5-19 and 32-127 of the image (11.4): none where R153 refuses it BAD_VALUE. A set
beyond cells in use that does not hold 0 counts as one more set (log 33). -/
def parseCalEntry (head cells : List Byte) : Option CalEntry := do
  let tracking ← readFlag (field head 10 1)
  let n := field head 1 1
  let x : CalEntry :=
    { node := field head 0 1, cells := (List.range (min n 8)).map (readCell cells), filterDepth := field head 2 1,
      timeout := field head 3 2, capacity := field head 5 2, e := field head 7 1, motionBand := field head 8 1,
      zeroRange := field head 9 1, tracking := tracking, zcal := fieldInt head 11 4 }
  let rest := (List.range 8).all fun i => decide (i < n) || readCell cells i == ⟨0, 0, 0⟩
  if n ≤ 8 ∧ rest = true ∧ x.ok = true then some x else none

/-- The needs-audit part of a cause set (R142). -/
def DeckCauses.needsAudit (c : DeckCauses) : DeckCauses := { c with linkLoss := false, cellFault := false }

/-- A persisted service state that an image can carry (01, The calibration entry; R145): TRADE without causes, FAULT with
a needs-audit cause, SUSPENDED with or without one. -/
def Persisted.ok (x : Persisted) : Bool :=
  decide (x.causes = x.causes.needsAudit) &&
    match x.state with
    | .trade => decide (x.causes = .empty)
    | .fault => decide (x.causes ≠ .empty)
    | .suspended => true
    | .audit => false

/-- A calibration image of deck `d`: none where it is invalid by its fields, its deck (log 14) or its CRC-32, which is
judged over the bytes as they are stored (R167, R194). -/
def readCalImage (d : DeckId) (bs : List Byte) : Option CalImage := do
  let entry ← parseCalEntry (slice bs 5 15) (slice bs 32 96)
  let state ← ServiceState.ofCode (field bs 24 1)
  let causes ← DeckCauses.ofCode (field bs 25 1)
  let session ← readFlag (field bs 26 1)
  let x : CalImage :=
    { deck := d, entry := entry, counter := field bs 20 4, persisted := ⟨state, causes⟩,
      marker := if session then some (field bs 28 2) else none }
  if field bs 4 1 = d.val ∧ x.persisted.ok = true ∧ field bs 506 4 = crc32 (slice bs 4 502) then some x else none

end Sys2Proof.Machine
end

