-- ==== Sys2Proof/Machine/Frames.lean ====
section
/-! DEFINITION. The frames of the links (11.2) as their receivers judge them, and the request codes. -/

namespace Sys2Proof.Machine

/-! ## Sample frames -/

/-- A sample frame that passed the corruption test of R1. -/
structure Sample where
  node : Nat
  deck : Nat
  seq : Nat
  cells : List (Int × CellStatus)
  deriving DecidableEq, Repr, Inhabited

/-- Codes above 3 are taken as OPEN (R193). -/
def CellStatus.ofCode : Nat → CellStatus
  | 0 => .good
  | 1 => .overRange
  | 2 => .underRange
  | _ => .opened

/-- The frame behind its escaping, none where R1 finds it corrupt: CRC-16, length for its cell count, cell count 1-8. -/
def parseSample (wire : List Byte) : Option Sample := do
  let f ← unframe wire
  let n := field f 4 1
  if 1 ≤ n ∧ n ≤ 8 ∧ f.length = 7 + 4 * n ∧ frameCrcOk f = true then
    return { node := field f 1 1, deck := field f 2 1, seq := field f 3 1
             cells := (List.range n).map fun c => (fieldInt f (5 + 4 * c) 3, CellStatus.ofCode (field f (8 + 4 * c) 1)) }
  else none

/-! ## Tag frames -/

/-- The lane end that a reader address names (R46). -/
def readerEnd : Nat → Option (LaneId × LaneEnd)
  | 0 => some (.l0, .a)
  | 1 => some (.l0, .b)
  | 2 => some (.l1, .a)
  | 3 => some (.l1, .b)
  | _ => none

/-- The reader address of a lane end. -/
def readerOf : LaneId → LaneEnd → Nat
  | .l0, .a => 0
  | .l0, .b => 1
  | .l1, .a => 2
  | .l1, .b => 3

/-- A tag read: lane end and tag id; none where R46 drops the frame. -/
def parseTag (wire : List Byte) : Option (LaneId × LaneEnd × TagId) := do
  let f ← unframe wire
  let (l, e) ← readerEnd (field f 1 1)
  if f.length = 10 ∧ frameCrcOk f = true then return (l, e, BitVec.ofNat 48 (field f 2 6)) else none

/-! ## Yard link frames -/

/-- R181: a frame of `n` bytes, complete behind the escaping, is dropped by its CRC-16 or its kind; one that ends early,
or is broken by its escaping or by a new delimiter, is dropped as well. `bs` follows the delimiter. -/
def yardBodyBad (n : Nat) (bs : List Byte) : Bool :=
  match unescapeFirst (n - 1) bs with
  | none => true
  | some r =>
    let f := delimiter :: r
    decide (f.length < n) || !frameCrcOk f || field f 3 1 != 1

/-- R181: whether the frame is dropped. It is judged by the bytes that its length gives; bytes that arrive after them,
before the next delimiter, are discarded. -/
def yardFrameBad (wire : List Byte) : Bool :=
  match wire with
  | [] => true
  | b :: bs =>
    match unescapeFirst 2 bs with
    | none => true
    | some h =>
      let n := readLe h
      b != delimiter || decide (h.length < 2) || decide (n < 8) || decide (512 < n) || yardBodyBad n bs

/-- Request codes (11.2). -/
def Req.code : Req → Nat
  | .status => 1
  | .timeSet => 2
  | .restart => 3
  | .laneOpen => 4
  | .laneClose => 5
  | .admitVehicle => 6
  | .consign => 7
  | .release => 8
  | .visitAbort => 9
  | .cancelPending => 10
  | .pendingRead => 11
  | .ticketFetch => 12
  | .ticketAck => 13
  | .trailFetch => 14
  | .trailAck => 15
  | .tableWrite => 16
  | .tableRead => 17
  | .tableCommit => 18
  | .tableDiscard => 19
  | .registerPut => 20
  | .registerRemove => 21
  | .registerGet => 22
  | .auditOpen => 23
  | .auditStep => 24
  | .calWrite => 25
  | .zeroSet => 26
  | .auditClose => 27
  | .auditAbort => 28
  | .storeHold => 29
  | .storeRelease => 30
  | .holdRead => 31
  | .monitorSet => 32

/-- Bytes of arguments that follow each request code, none for a code that names no request (11.2, log 22). -/
def requestArgBytes : Nat → Option Nat
  | 1 => some 0
  | 2 => some 6
  | 3 => some 1
  | 4 => some 1
  | 5 => some 1
  | 6 => some 14
  | 7 => some 22
  | 8 => some 1
  | 9 => some 1
  | 10 => some 12
  | 11 => some 1
  | 12 => some 0
  | 13 => some 4
  | 14 => some 0
  | 15 => some 4
  | 16 => some 34
  | 17 => some 2
  | 18 => some 5
  | 19 => some 1
  | 20 => some 34
  | 21 => some 2
  | 22 => some 2
  | 23 => some 2
  | 24 => some 6
  | 25 => some 112
  | 26 => some 1
  | 27 => some 0
  | 28 => some 0
  | 29 => some 0
  | 30 => some 0
  | 31 => some 6
  | 32 => some 2
  | _ => none

/-- The body of a request frame that fits the request which its code names (R182); an empty body has no code. -/
def fitsRequest : List Byte → Bool
  | [] => false
  | code :: args => decide (requestArgBytes code.toNat = some args.length)

/-- The body of a request frame that names no request or does not fit it: a frame has at most 512 bytes (11.2). -/
def namesNone (body : List Byte) : Bool := decide (body.length ≤ 504) && !fitsRequest body

/-- Request codes 1 to 32, each at its place (11.2). -/
def Req.all : List Req :=
  [.status, .timeSet, .restart, .laneOpen, .laneClose, .admitVehicle, .consign, .release, .visitAbort, .cancelPending,
   .pendingRead, .ticketFetch, .ticketAck, .trailFetch, .trailAck, .tableWrite, .tableRead, .tableCommit, .tableDiscard,
   .registerPut, .registerRemove, .registerGet, .auditOpen, .auditStep, .calWrite, .zeroSet, .auditClose, .auditAbort,
   .storeHold, .storeRelease, .holdRead, .monitorSet]

/-- The class of each notice kind (10.5). -/
def NoticeBody.urgent : NoticeBody → Bool
  | .visitHeld .. => true
  | .visitAborted .. => true
  | .overstay .. => true
  | .laneState .. => true
  | .deckService .. => true
  | .auditLapsed .. => true
  | .stepDone .. => true
  | .auditEnded .. => true
  | .parity _ => true
  | .storeState .. => true
  | .holdLapsed _ => true
  | .startup .. => true
  | _ => false

/-- Notice kinds are coded 1 to 24 in the order of the notice table (11.2). -/
def NoticeBody.code : NoticeBody → Nat
  | .visitStarted .. => 1
  | .visitCaptured .. => 2
  | .visitClosed .. => 3
  | .visitHeld .. => 4
  | .visitAborted .. => 5
  | .overstay .. => 6
  | .tagIgnored .. => 7
  | .tagUnknown .. => 8
  | .ticketStored .. => 9
  | .pendingExpired .. => 10
  | .consignExpired .. => 11
  | .laneState .. => 12
  | .deckService .. => 13
  | .auditPending .. => 14
  | .auditStarted .. => 15
  | .auditLapsed .. => 16
  | .stepDone .. => 17
  | .auditEnded .. => 18
  | .parity _ => 19
  | .storeState .. => 20
  | .holdGranted _ => 21
  | .holdLapsed _ => 22
  | .tableAdopted .. => 23
  | .startup .. => 24

/-- Refusal reason codes 1 to 24 (11.2). -/
def Reason.code : Reason → Nat
  | .busy => 1
  | .starting => 2
  | .badTarget => 3
  | .badValue => 4
  | .wrongState => 5
  | .timeInvalid => 6
  | .tablesInvalid => 7
  | .sessionActive => 8
  | .noSession => 9
  | .switchOpen => 10
  | .trailFull => 11
  | .storeHeld => 12
  | .storeFault => 13
  | .storeBusy => 14
  | .noHold => 15
  | .crcMismatch => 16
  | .commitPending => 17
  | .full => 18
  | .notFound => 19
  | .duplicate => 20
  | .claimed => 21
  | .alreadyActive => 22
  | .outOfOrder => 23
  | .stepsFull => 24

def RespOutcome.code : RespOutcome → Nat
  | .done _ => 1
  | .accepted _ => 2
  | .refused _ => 3

/-- The reason byte of a RESPONSE: 0 unless REFUSED, bit 7 for duplicate correlation (11.2). -/
def Response.reasonByte (r : Response) : Nat :=
  (match r.outcome with
    | .refused x => x.code
    | _ => 0) + bitOf r.dup 7

/-- A frame with its length and its CRC-16, before escaping (11.2). -/
def yardFrame (kind corr : Nat) (body : List Byte) : List Byte :=
  let f := leBytes 2 (body.length + 8) ++ (leBytes 1 kind ++ (leBytes 2 corr ++ body))
  delimiter :: (f ++ leBytes 2 (crc16 f))

/-- The body of a RESPONSE up to its data, whose layout the manual does not give (log 22). -/
def Response.head (r : Response) : List Byte := leBytes 1 r.code ++ (leBytes 1 r.outcome.code ++ leBytes 1 r.reasonByte)

/-- The body of a NOTICE up to its content, whose layout the manual does not give (log 22). -/
def Notice.head (n : Notice) : List Byte :=
  leBytes 2 n.number.toNat ++ (leBytes 1 n.body.code ++ (leBytes 1 (bitOf n.body.urgent 0) ++
    (leBytes 4 n.time.sec ++ (leBytes 2 n.time.ms ++ leBytes 1 (bitOf n.valid 0)))))

def WeightStatus.code : WeightStatus → Nat
  | .noData => 0
  | .motion => 1
  | .stable => 2
  | .over => 3

/-- The entry that a TABLE_READ answers, in its layout (11.4), unused bytes 0 (R193); none for DAMAGED. -/
def TableContent.bytes : TableContent → Option (List Byte)
  | .damaged => none
  | .classEntry e => some (classEntryBytes e)
  | .laneEntry e => some (laneEntryBytes e)
  | .siteEntry e => some (siteEntryBytes e)

/-- The entry that a REGISTER_GET answers, in its layout (11.4), unused bytes 0 (R193); none for an empty or DAMAGED
slot. -/
def RegContent.bytes : RegContent → Option (List Byte)
  | .entry e => some (regEntryBytes (some e))
  | _ => none

/-- The body of a MONITOR frame (11.2); the layout has no unused byte. -/
def MonitorFrame.bytes (m : MonitorFrame) : List Byte :=
  leBytes 1 m.deck.val ++ (leBytes 1 m.seq ++ (leBytes 2 m.gapCount ++ (leBytes 1 m.cells.length ++
    (m.cells.flatMap (leInt 4) ++ (leInt 4 m.raw ++ (leInt 4 m.displayed ++ leBytes 1 m.status.code))))))

end Sys2Proof.Machine
end

