-- ==== Sys2Proof/Machine/Ops.lean ====
section
/-! DEFINITION. The operations that every family of commands shares: reading and changing one deck, lane, end or visit;
the time base; responses; notices; handing a record to the trail; admission blocks; marking an image or a slot for
writing; the lane state changes that reach no visit. -/

namespace Sys2Proof.Machine

/-! ## Decks, lanes, ends and visits -/

/-- The lane of a deck (00_scope.md). -/
def laneOf (d : DeckId) : LaneId := if d.val < 3 then .l0 else .l1

end Sys2Proof.Machine

namespace Sys2Proof

/-- The three decks of a lane, from end A to end B (00_scope.md). -/
def LaneId.decks : LaneId → List DeckId
  | .l0 => [0, 1, 2]
  | .l1 => [3, 4, 5]

end Sys2Proof

namespace Sys2Proof.Machine

def allDecks : List DeckId := [0, 1, 2, 3, 4, 5]

def Part.deck (p : Part) (d : DeckId) : Deck := p.decks[d.val]

def Part.setDeck (p : Part) (d : DeckId) (x : Deck) : Part := { p with decks := p.decks.set d.val x }

def Part.modDeck (p : Part) (d : DeckId) (f : Deck → Deck) : Part := p.setDeck d (f (p.deck d))

def Part.lane (p : Part) (l : LaneId) : Lane := p.lanes.get l

def Part.setLane (p : Part) (l : LaneId) (x : Lane) : Part := { p with lanes := p.lanes.set l x }

def Part.modLane (p : Part) (l : LaneId) (f : Lane → Lane) : Part := p.setLane l (f (p.lane l))

def Part.laneEnd (p : Part) (l : LaneId) (e : LaneEnd) : EndState := (p.lane l).ends.get e

def Part.setEnd (p : Part) (l : LaneId) (e : LaneEnd) (x : EndState) : Part :=
  p.modLane l fun y => { y with ends := y.ends.set e x }

def Part.modEnd (p : Part) (l : LaneId) (e : LaneEnd) (f : EndState → EndState) : Part :=
  p.setEnd l e (f (p.laneEnd l e))

def Part.visit (p : Part) (l : LaneId) : Option Visit := (p.lane l).visit

def Part.setVisit (p : Part) (l : LaneId) (v : Visit) : Part := p.modLane l fun y => { y with visit := some v }

def Part.visitState (p : Part) (l : LaneId) : Option VisitState := (p.visit l).map (·.state)

def Part.modPairing (p : Part) (f : Pairing → Pairing) : Part := { p with pairing := f p.pairing }

def Part.modTickets (p : Part) (f : TicketUnit → TicketUnit) : Part := { p with tickets := f p.tickets }

def Part.modTables (p : Part) (f : TableStore → TableStore) : Part := { p with tables := f p.tables }

def Part.modAudit (p : Part) (f : AuditUnit → AuditUnit) : Part := { p with audit := f p.audit }

def Part.modTrail (p : Part) (f : Trail → Trail) : Part := p.modAudit fun a => { a with trail := f a.trail }

def Part.modStore (p : Part) (f : Store → Store) : Part := { p with store := f p.store }

def Part.modLink (p : Part) (f : Link → Link) : Part := { p with link := f p.link }

/-! ## The time base (10 10.7) -/

def Part.now (p : Part) : Nat := p.clock.running

def Part.siteTime (p : Part) : SiteTime := ⟨p.clock.sec, p.clock.ms⟩

/-- The largest site-second count (R189). -/
def secLimit : Nat := 4294967296

/-- The time base after `dt` tenths of a millisecond (R189). A wrap of the site-second count clears the valid flag; a
rise to a multiple of 60 while the clock is valid is a minute boundary, whose scans are then due (log 3). -/
def Clock.elapse (c : Clock) (dt : Nat) : Clock :=
  let running := c.running + dt
  let ms := c.ms + (running / 10 - c.running / 10)
  let sec := c.sec + ms / 1000
  if secLimit ≤ sec then
    { running := running, sec := sec % secLimit, ms := ms % 1000, valid := false, boundaryDue := false }
  else
    { running := running, sec := sec, ms := ms % 1000, valid := c.valid,
      boundaryDue := c.boundaryDue || (c.valid && decide (c.sec / 60 < sec / 60)) }

def Part.elapse (p : Part) (dt : Nat) : Part := { p with clock := p.clock.elapse dt }

/-- The part at the moment a deadline of the running count is reached; a deadline that has passed is taken late (log 2). -/
def Part.reach (p : Part) (deadline : Nat) : Part := p.elapse (deadline - p.now)

/-- A timer started now for `ms` milliseconds. -/
def Part.start (p : Part) (ms : Nat) : Timer := .running (p.now + 10 * ms)

/-- Takes the expiry of a timer: nothing unless it runs (log 1), else `f` on the part at its deadline. -/
def Part.expire (p : Part) (t : Timer) (f : Part → Part) : Part :=
  match t with
  | .running d => f (p.reach d)
  | _ => p

def Timer.isRunning : Timer → Bool
  | .running _ => true
  | _ => false

/-! ## Responses and the transmitter (10 10.3, 10.4) -/

/-- Appends an owner's response to the response queue (R184). -/
def Part.respond (p : Part) (corr : U16) (r : Req) (o : RespOutcome) : Part :=
  let x : Response := { corr := corr, code := r.code, outcome := o, immediate := false, dup := false }
  p.modLink fun k => { k with responses := k.responses ++ [x] }

def Part.done (p : Part) (corr : U16) (r : Req) (d : RespData := .none) : Part := p.respond corr r (.done d)

def Part.refuse (p : Part) (corr : U16) (r : Req) (x : Reason) : Part := p.respond corr r (.refused x)

/-- Appends an immediate response (R182). -/
def Part.respondNow (p : Part) (corr : U16) (code : Nat) (x : Reason) (dup : Bool) : Part :=
  let x : Response := { corr := corr, code := code, outcome := .refused x, immediate := true, dup := dup }
  p.modLink fun k => { k with responses := k.responses ++ [x] }

/-- One more frame dropped (R181, R182). -/
def Part.countDrop (p : Part) : Part := p.modLink fun k => { k with drops := min 65535 (k.drops + 1) }

/-- The transmitter, when free, begins the first waiting frame (R185). -/
def Link.kick (k : Link) : Link :=
  match k.tx with
  | some _ => k
  | none =>
    match k.responses, k.urgent, k.routine, k.monitorSlot with
    | r :: rs, _, _, _ => { k with responses := rs, tx := some (.response r) }
    | [], n :: ns, _, _ => { k with urgent := ns, tx := some (.notice n) }
    | [], [], n :: ns, _ => { k with routine := ns, tx := some (.notice n) }
    | [], [], [], some m => { k with monitorSlot := none, tx := some (.monitor m) }
    | [], [], [], none => k

/-- The transmitter acts in the step in which a frame comes to wait (log 10); from the start of a reset until startup
begins it sends nothing (R185). -/
def Part.kick (p : Part) : Part := if p.phase = .resetting then p else p.modLink Link.kick

/-! ## Notices (10 10.5) -/

/-- A notice joins its FIFO, is discarded, or displaces the newest ROUTINE notice (R186). -/
def Link.queueNotice (k : Link) (n : Notice) : Link :=
  if k.urgent.length + k.routine.length < 32 then
    if n.body.urgent then { k with urgent := k.urgent ++ [n] } else { k with routine := k.routine ++ [n] }
  else if n.body.urgent ∧ k.routine ≠ [] then
    { k with routine := k.routine.dropLast, urgent := k.urgent ++ [n], lost := true }
  else { k with lost := true }

/-- Hands a notice to the yard link interface: it takes the next number (R186). -/
def Part.notify (p : Part) (b : NoticeBody) : Part :=
  let n : Notice := { number := p.link.nextNotice, time := p.siteTime, valid := p.clock.valid, body := b }
  p.modLink fun k => { k with nextNotice := k.nextNotice + 1 }.queueNotice n

/-! ## Admission blocks (R42-R44) -/

def Part.modBlocks (p : Part) (l : LaneId) (f : Blocks → Blocks) : Part :=
  p.modLane l fun x => { x with blocks := f x.blocks }

/-- A report to both lanes (R43). -/
def Part.bothBlocks (p : Part) (f : Blocks → Blocks) : Part := (p.modBlocks .l0 f).modBlocks .l1 f

/-- A lane admits when it is OPEN, holds no visit and its block set is empty (R42). -/
def Lane.admits (x : Lane) : Bool := decide (x.state = .opened) && x.visit.isNone && decide (x.blocks = .empty)

/-! ## The audit trail (R160, R161) -/

def Trail.unacknowledged (t : Trail) : Nat := t.nextSeq - t.oldest

/-- The free count (R160). -/
def Trail.free (t : Trail) : Nat := 1024 - t.unacknowledged - t.staging.length

/-- What becomes of a record handed over: staged, staged behind a GAP record, or counted into the gap (R161). -/
def Trail.hand (t : Trail) (r gap : TrailRecord) : Trail :=
  if t.gap = 0 then
    if 1 ≤ t.free ∧ t.staging.length < 16 then { t with staging := t.staging ++ [r] }
    else { t with gap := 1 }
  else if 2 ≤ t.free ∧ t.staging.length < 15 then { t with staging := t.staging ++ [gap, r], gap := 0 }
  else { t with gap := min 65535 (t.gap + 1) }

/-- Hands a record to the trail with the time as the time base stands; reports TRAIL_FULL when the free count falls to
0 (R160, R161). -/
def Part.handTrail (p : Part) (deck : Option DeckId) (body : TrailBody) : Part :=
  let t := p.audit.trail
  let t' := t.hand ⟨deck, p.siteTime, p.clock.valid, body⟩ ⟨none, p.siteTime, p.clock.valid, .gap t.gap⟩
  let q := p.modTrail fun _ => t'
  if t'.free = 0 ∧ t.free ≠ 0 then q.bothBlocks fun b => { b with trailFull := true } else q

/-- A request that will make a discretionary record is refused while only the reserve is left (R161). -/
def Part.trailReserved (p : Part) : Bool := decide (p.audit.trail.free ≤ 32)

/-! ## Work for the record memory -/

/-- Marks a pending slot dirty: it joins the dirty queue unless it is there (R108). -/
def Part.markDirty (p : Part) (i : Nat) : Part :=
  if i ∈ p.pairing.dirty then p else p.modPairing fun x => { x with dirty := x.dirty ++ [i] }

/-- Makes an operation of the table image writer ready, at the end of its queue (R168). -/
def Part.queueTable (p : Part) (o : TableOp) : Part :=
  p.modStore fun x => { x with tableQueue := x.tableQueue ++ [o] }

/-- A deck's mark at the end of a queue, but before the marks that the same step has set on the decks above it. -/
def insertMark (marking : List DeckId) (d : DeckId) : List TableOp → List TableOp
  | [] => [.image d]
  | .image e :: ops =>
    if d < e ∧ e ∈ marking then .image d :: .image e :: ops else .image e :: insertMark marking d ops
  | o :: ops => o :: insertMark marking d ops

/-- Sets a deck's image write mark: a mark that is set keeps its place, and the marks set in one step stand in deck order
(R146). A deck without an entry has no image to write (log 13). -/
def Part.markImage (p : Part) (d : DeckId) : Part :=
  if (p.deck d).cal.isNone ∨ TableOp.image d ∈ p.store.tableQueue then p
  else p.modStore fun x => { x with tableQueue := insertMark x.marking d x.tableQueue, marking := d :: x.marking }

/-! ## Deck causes and the persisted service state (R142, R145) -/

def DeckCauses.has (c : DeckCauses) : DeckCause → Bool
  | .linkLoss => c.linkLoss
  | .cellFault => c.cellFault
  | .zeroRange => c.zeroRange
  | .tableParity => c.tableParity
  | .imageInvalid => c.imageInvalid

def DeckCauses.add (c : DeckCauses) : DeckCause → DeckCauses
  | .linkLoss => { c with linkLoss := true }
  | .cellFault => { c with cellFault := true }
  | .zeroRange => { c with zeroRange := true }
  | .tableParity => { c with tableParity := true }
  | .imageInvalid => { c with imageInvalid := true }

/-- The set without its auto causes is DeckCauses.needsAudit; this is the set without its needs-audit causes. -/
def DeckCauses.autoOnly (c : DeckCauses) : DeckCauses := ⟨c.linkLoss, c.cellFault, false, false, false⟩

def DeckCauses.union (a b : DeckCauses) : DeckCauses :=
  ⟨a.linkLoss || b.linkLoss, a.cellFault || b.cellFault, a.zeroRange || b.zeroRange, a.tableParity || b.tableParity,
   a.imageInvalid || b.imageInvalid⟩

/-- The persisted value that a deck's image should carry (R145). In AUDIT a needs-audit cause that joins a carried TRADE
makes it FAULT (log 12). -/
def Deck.persistedValue (x : Deck) : Persisted :=
  let n := x.causes.needsAudit
  match x.service with
  | .suspended => ⟨.suspended, n⟩
  | .audit =>
    let c := x.persisted.causes.union n
    if x.persisted.state = .trade ∧ c ≠ .empty then ⟨.fault, c⟩ else ⟨x.persisted.state, c⟩
  | _ => if n = .empty then ⟨.trade, .empty⟩ else ⟨.fault, n⟩

/-- Judges the persisted service state afresh; a different value marks the image for writing (R145, R146). -/
def Part.judgePersisted (p : Part) (d : DeckId) : Part :=
  let v := (p.deck d).persistedValue
  if v = (p.deck d).persisted then p else (p.modDeck d fun x => { x with persisted := v }).markImage d

/-! ## Lane causes and lane states that reach no visit (R35-R37, R41) -/

def LaneCauses.has (c : LaneCauses) : LaneCause → Bool
  | .deckFault => c.deckFault
  | .barrier => c.barrier
  | .laneStop => c.laneStop
  | .settingsParity => c.settingsParity

def LaneCauses.put (c : LaneCauses) (v : Bool) : LaneCause → LaneCauses
  | .deckFault => { c with deckFault := v }
  | .barrier => { c with barrier := v }
  | .laneStop => { c with laneStop := v }
  | .settingsParity => { c with settingsParity := v }

/-- A change of lane state, with its LANE_STATE notice (R41); CLOSED removes CLOSE_REQUESTED (R37, R44). -/
def Part.enterLaneState (p : Part) (l : LaneId) (st : LaneState) : Part :=
  if (p.lane l).state = st then p
  else
    let q := p.modLane l fun x =>
      { x with state := st
               blocks := if st = .closed then { x.blocks with closeRequested := false } else x.blocks }
    q.notify (.laneState l st (q.lane l).causes)

/-- A cause leaves the cause set; a lane in FAULT that holds no visit and has no cause left enters CLOSED (R35, R37). -/
def Part.laneClear (p : Part) (l : LaneId) (c : LaneCause) : Part :=
  if (p.lane l).causes.has c then
    let q := p.modLane l fun x => { x with causes := x.causes.put false c }
    if (q.lane l).causes = .empty ∧ (q.lane l).state = .fault ∧ (q.visit l).isNone then q.enterLaneState l .closed else q
  else p

/-- A cause joins the cause set of a lane that holds no visit (R36). -/
def Part.laneRaiseIdle (p : Part) (l : LaneId) (c : LaneCause) : Part :=
  if (p.lane l).causes.has c then p
  else
    let q := p.modLane l fun x => { x with causes := x.causes.put true c }
    if (p.lane l).causes = .empty ∧ ((p.lane l).state = .closed ∨ (p.lane l).state = .opened) then
      q.enterLaneState l .fault
    else q

/-- DECK_FAULT leaves the cause set when no deck of the lane is still in FAULT (R35). -/
def Part.clearDeckFault (p : Part) (l : LaneId) : Part :=
  if l.decks.all fun d => decide ((p.deck d).service ≠ .fault) then p.laneClear l .deckFault else p

end Sys2Proof.Machine
end

