-- ==== Sys2Proof/Machine/Flags.lean ====
section
/-! DEFINITION. The computations that set statuses, marks, outputs and verdicts: weights and weight status (01), lane
outputs (02 2.3), axle records, screening and grouping (04), and the limits of audit steps (08 8.4). -/

namespace Sys2Proof.Machine

/-! ## Weights (R7, R9, R13). Weights are in grams, displayed weights in kg. -/

/-- R7: cell kg = (raw count − zero offset) × span ÷ 1 000 000 × corner factor ÷ 10 000, to the gram. -/
def cellGrams (c : CellCal) (raw : Int) : Int := roundHalfAway ((raw - c.zero) * c.span * c.corner) 10000000

/-- The mean of a window, to the gram (R9). -/
def mean (w : List Int) : Int := roundHalfAway w.sum w.length

/-- The window with a value appended and the oldest values beyond `depth` removed (R9, R11). -/
def pushWindow (w : List Int) (depth : Nat) (v : Int) : List Int := (w ++ [v]).drop ((w ++ [v]).length - depth)

/-- Net grams rounded to e, in kg (R13). -/
def displayedKg (e : Nat) (net : Int) : Int := e * roundHalfAway net (1000 * e)

/-- Net grams rounded to e/10, in grams (R13). -/
def expandedGrams (e : Nat) (net : Int) : Int := (100 * e : Nat) * roundHalfAway net (100 * e)

/-- The largest value less the smallest (R11). -/
def spread : List Int → Int
  | [] => 0
  | v :: vs => vs.foldl max v - vs.foldl min v

/-! ## Weight status (R4, R12, R14) -/

/-- R4. -/
def Deck.usable (x : Deck) : Bool :=
  match x.cal with
  | some c => !c.damaged
  | none => false

/-- The entry of a deck that is usable (R4). -/
def Deck.entry (x : Deck) : Option CalEntry := x.cal.bind fun c => if c.damaged then none else some c.entry

/-- R14. -/
def CalEntry.overload (c : CalEntry) : Int := c.capacity + 9 * c.e

/-- The rows of R12. -/
def Deck.evaluate (x : Deck) : WeightStatus :=
  match x.cal, x.published with
  | some c, some w =>
    if c.damaged ∨ x.badCells then .noData
    else if c.entry.overload < w.displayed then .over
    else if x.stability.length = 8 ∧ spread x.stability ≤ (c.entry.motionBand * c.entry.e * 1000 : Nat) then .stable
    else .motion
  | _, _ => .noData

/-- R10. -/
def Deck.restart (x : Deck) : Deck := { x with filter := [], stability := [], published := none, status := .noData }

/-- R19: a run ends, and the clearance timer stops. -/
def Deck.endRun (x : Deck) : Deck := { x with clearance := .stopped }

/-- A good sample: its raw weight enters the windows, and the values and the status are published together (R9-R13). -/
def Deck.take (x : Deck) (c : CalEntry) (raw : Int) : Deck :=
  let filter := pushWindow x.filter c.filterDepth raw
  let f := mean filter
  let net := f - x.zd.getD 0
  let y := { x with
    filter := filter, stability := pushWindow x.stability 8 f
    published := some ⟨f, net, displayedKg c.e net, expandedGrams c.e net⟩ }
  { y with status := y.evaluate }

/-- Within the zero range of Zcal, both bounds included (01, Zero reference); `f` in grams. -/
def CalEntry.inZeroRange (c : CalEntry) (f : Int) : Bool :=
  decide ((f - 1000 * c.zcal).natAbs ≤ c.zeroRange * c.capacity * 10)

/-! ## Barriers and lane outputs (R27, R30, R33) -/

/-- R27. -/
def Barrier.position (b : Barrier) : Position :=
  match b.up, b.down with
  | true, false => .up
  | false, true => .down
  | false, false => .between
  | true, true => .conflict

/-- The barrier is at the position that a command calls for (R27). -/
def Barrier.at (b : Barrier) : BarrierCommand → Bool
  | .raise => decide (b.position = .up)
  | .lower => decide (b.position = .down)
  | .stop => false

/-- The driven command for a wanted one: a lowering is deferred while the beam is BLOCKED and the position is not DOWN
(R30). -/
def Barrier.follow (b : Barrier) (wanted : BarrierCommand) (blocked : Bool) : BarrierCommand :=
  if wanted = .lower ∧ blocked = true ∧ b.position ≠ .down then .stop else wanted

def Admitting.admits : Admitting → LaneEnd → Bool
  | .both, _ => true
  | .endA, e => decide (e = .a)
  | .endB, e => decide (e = .b)

/-- The rows of R33: the signal and the wanted barrier command of one end. `ends` is the admitting-ends setting. -/
def Lane.outputs (x : Lane) (phase : Phase) (ends : Admitting) (e : LaneEnd) : Signal × BarrierCommand :=
  if phase ≠ .running then (.red, .stop)
  else if x.stopLatch then (.red, .stop)
  else
    let atEntry : Bool := decide (x.visit.map (·.entry) = some e)
    match (x.visit.map (·.state) : Option VisitState), x.state with
    | some .clearing, _ => (.red, if atEntry then .raise else .lower)
    | _, .fault => (.red, .lower)
    | _, .closed => (.red, .lower)
    | _, .audit => (.red, .lower)
    | none, .opened => (if x.admits && ends.admits e then .green else .red, .lower)
    | some .entering, .opened => if atEntry then (.green, .raise) else (.red, .lower)
    | some .exiting, .opened => if atEntry then (.red, .lower) else (.green, .raise)
    | some _, .opened => (.red, .lower)

/-! ## Axle records (R77, R80) -/

/-- Speed in 0.1 km/h with halves rounded up: spacing in mm over a pass time in 0.1 ms, none for a pass time of 0
(R77). -/
def passSpeed (spacing passTime : Nat) : Option Nat :=
  if passTime = 0 then none else some ((2 * (360 * spacing) + passTime) / (2 * passTime))

/-- R77. -/
def offBand (speed : Option Nat) (lo hi : Nat) : Bool :=
  match speed with
  | none => true
  | some v => decide (v < lo ∨ hi < v)

/-- The spacing measured from an axle's own pass, in mm (R80). -/
def passSpacing (treadles t2 previous passTime : Nat) : Option Nat :=
  if passTime = 0 then none
  else some (min 65535 (roundHalfAway (treadles * (t2 - previous) : Nat) passTime).toNat)

/-! ## Screening (R86-R89) -/

/-- Step weights of the axles whose lane raw totals are `ts`, against the captured raw lane total (R87). -/
def stepWeights (ts : List Int) (captured : Int) : List Int :=
  List.zipWith (fun a b => b - a) ts (ts.drop 1 ++ [captured])

/-- `r` added to the last value of a list. -/
def addToLast (r : Int) : List Int → List Int
  | [] => []
  | [x] => [x + r]
  | x :: y :: xs => x :: addToLast r (y :: xs)

/-- Scaled weights: each share of the gross rounded, and the remainder added to the last (R88). -/
def scaledWeights (steps : List Int) (gross : Int) : List Int :=
  let rounded := steps.map fun s => roundHalfAway (s * gross) steps.sum
  addToLast (gross - rounded.sum) rounded

/-- Group numbers of the axles after the first, from the group and the number of axles in it so far (R89). -/
def groupsFrom (gap : Nat) : Nat → Nat → List (Option Nat) → List Nat
  | _, _, [] => []
  | g, n, s :: ss =>
    match s with
    | none => (g + 1) :: groupsFrom gap (g + 1) 1 ss
    | some d =>
      if d ≤ gap ∧ n < 4 then g :: groupsFrom gap g (n + 1) ss else (g + 1) :: groupsFrom gap (g + 1) 1 ss

/-- Group numbers of all axles, from their spacings (R89). -/
def groupNumbers (gap : Nat) : List (Option Nat) → List Nat
  | [] => []
  | _ :: ss => 1 :: groupsFrom gap 1 1 ss

/-- Number of groups. -/
def groupCount (gs : List Nat) : Nat := gs.foldl max 0

/-- The group pattern: sizes in group order. -/
def groupPattern (gs : List Nat) : List Nat := (List.range (groupCount gs)).map fun g => gs.count (g + 1)

/-- Group masses: sums of the scaled weights of each group's axles. -/
def groupMasses (gs : List Nat) (scaled : List Int) : List Int :=
  (List.range (groupCount gs)).map fun g => (((gs.zip scaled).filter (fun x => x.1 == g + 1)).map (·.2)).sum

/-- R87: the step weights of a visit that passes the first three conditions of R86, none where one of them holds. -/
def findSteps (invalid : Bool) (axles : List Axle) (captured : Int) : Option (List Int) :=
  if invalid || axles.any (fun x => x.offBand) || axles.any (fun x => x.total.isNone) then none
  else some (stepWeights (axles.filterMap (·.total)) captured)

/-- The fourth condition of R86 does not hold: the steps sum to more than 0 and none is negative. -/
def stepsPass (steps : List Int) : Bool := decide (0 < steps.sum) && !steps.any fun s => decide (s < 0)

/-- The axle records with their step weights, scaled weights and group numbers entered (04 4.3); the last two are absent
where the lists are empty. -/
def enterWeights (axles : List Axle) (steps scaled : List Int) (gs : List Nat) : List Axle :=
  axles.mapIdx fun i x => { x with step := steps[i]?, scaled := scaled[i]?, group := gs[i]? }

/-- R91: numbers of the groups above their limits, ascending. -/
def overGroups (masses : List Int) (limits : List Nat) : List Nat :=
  ((List.range masses.length).filter fun i => decide ((limits.getD i 0 : Int) < masses.getD i 0)).map (· + 1)

/-- The verdict against the class that was matched, if one was (R89-R92). -/
def verdictOf (overflow : Nat) (pattern : List Nat) (masses : List Int) (gross : Int) (c : Option ClassEntry) :
    Verdict :=
  let few := decide (pattern.length ≤ 8)
  match c with
  | some k =>
    let ogs := overGroups masses k.limits
    let og := decide ((k.gross : Int) < gross)
    { kind := if ogs ≠ [] ∨ og = true then .over else .compliant, classId := some k.id, pattern := some pattern,
      masses := some masses, overGroups := ogs, overGross := og, overflow := overflow, exitAxles := none }
  | none =>
    { kind := .unclassified, classId := none, pattern := if few then some pattern else none,
      masses := if few then some masses else none, overGroups := [], overGross := false, overflow := overflow,
      exitAxles := none }

/-- The record of a verdict NOT_SCREENED (R86, R92). -/
def notScreened (overflow : Nat) : Verdict :=
  { kind := .notScreened, classId := none, pattern := none, masses := none, overGroups := [], overGross := false,
    overflow := overflow, exitAxles := none }

/-- R85: the exit axle count is entered at the visit's end. -/
def Visit.enterExit (v : Visit) (n : Nat) : Visit :=
  { v with capture := v.capture.map fun c => { c with verdict := { c.verdict with exitAxles := some n } } }

def Verdict.summary (v : Verdict) (held : Bool) : VerdictSummary :=
  { kind := v.kind, classId := v.classId, overGroups := v.overGroups, overGross := v.overGross, heldReleased := held }

/-! ## Audit steps and verdicts (R152, R157, R158) -/

/-- The mpe in kg, from the reference in scale intervals (R152). -/
def mpe (e : Nat) (reference : Int) : Nat :=
  if reference ≤ (500 * e : Nat) then e else if reference ≤ (2000 * e : Nat) then 2 * e else 3 * e

/-- The reading of a step from the expanded weight in grams (R152). -/
def measure (e : Nat) (reference expanded : Int) : Reading :=
  { indicated := expanded, error := expanded - 1000 * reference, mpe := mpe e reference }

def Reading.result (r : Reading) : StepResult := if r.error.natAbs ≤ 1000 * r.mpe then .pass else .fail

/-- The counted steps with their numbers (8.3). -/
def countedSteps (first : Nat) (steps : List AuditStepRec) : List (Nat × AuditStepRec) :=
  (steps.zipIdx 1).map (fun x => (x.2, x.1)) |>.filter fun x => decide (first ≤ x.1)

/-- R157: the verdict of the counted steps under the active entry, none where there is no usable entry. -/
def judgeSteps (first : Nat) (steps : List AuditStepRec) (c : Option CalEntry) : AuditVerdict :=
  let cs := countedSteps first steps
  let loads := (cs.filter fun x => decide (x.2.kind = .load)).map fun x => (x.1, x.2.reference)
  let refs := (loads.map (·.2)).eraseDups
  let top := refs.foldl max 0
  let lastTop := ((loads.filter fun x => decide (x.2 = top)).map (·.1)).foldl max 0
  if cs.any fun x => decide (x.2.result = some .fail ∨ x.2.result = some .noStable) then .fail
  else
    match c with
    | none => .incomplete
    | some c =>
      if cs.any (fun x => decide (x.2.kind = .zero)) && decide (3 ≤ refs.length) && decide ((c.capacity : Int) ≤ 2 * top) &&
          ((List.range c.cells.length).all fun i =>
            cs.any fun x => decide (x.2.kind = .corner ∧ x.2.cell = some i)) &&
          cs.any (fun x => decide (x.2.kind = .returnZero ∧ lastTop < x.1)) then .pass
      else .incomplete

/-- R158: the deck's state after a session; `causes` are those at the end, for a PASS without the needs-audit ones. -/
def stateAfterSession (v : AuditVerdict) (writes : Nat) (atOpen : ServiceState) (causes : DeckCauses) : ServiceState :=
  match v with
  | .pass => if causes = .empty then .trade else .fault
  | .fail => .suspended
  | .incomplete =>
    if writes ≠ 0 then .suspended
    else
      match atOpen with
      | .trade => if causes = .empty then .trade else .fault
      | .fault => if causes = .empty then .suspended else .fault
      | _ => .suspended

end Sys2Proof.Machine
end

