-- ==== Sys2Proof/Machine/Pairing.lean ====
section
/-! DEFINITION. The pairing unit's lists and the ticket staging queue, as the lanes and the scans call on them (03 3.5,
05, 06 6.2). -/

namespace Sys2Proof.Machine

/-! ## Ticket staging (R114, R115) -/

def Part.stagingFull (p : Part) : Bool := decide (8 ≤ p.tickets.staging.length)

/-- Stages an issued ticket; an append that brings the queue to 8 records reports STORE_BUSY (R114, R115). -/
def Part.issueTicket (p : Part) (t : Ticket) (tag : Option (LaneId × Byte)) : Part :=
  let q := p.modTickets fun x => { x with staging := x.staging ++ [⟨t, tag⟩] }
  if q.stagingFull then q.bothBlocks fun b => { b with storeBusy := true } else q

/-- Enters a visit's exit axle count in the staged ticket that the visit issued, if it is still staged (R114, R72). Where
the visit count has come round and two staged tickets carry the tag, it is entered in both (log 45). -/
def Part.enterExitAxles (p : Part) (l : LaneId) (count : Byte) (n : Nat) : Part :=
  let enter := fun (s : StagedTicket) =>
    if s.tag = some (l, count) then { s with ticket := { s.ticket with exitAxles := some n } } else s
  p.modTickets fun x => { x with staging := x.staging.map enter }

/-! ## The pending-tare list (05) -/

def PendingEntry.isOpen (e : PendingEntry) : Bool :=
  match e.state with
  | .opened _ => true
  | _ => false

/-- The slot and the entry of a vehicle. -/
def Pairing.find (x : Pairing) (v : VehicleId) : Option (Nat × PendingEntry) :=
  x.slots.toList.zipIdx.findSome? fun s => s.1.bind fun e => if e.vehicle = v then some (s.2, e) else none

def Pairing.entries (x : Pairing) : List (Nat × PendingEntry) :=
  x.slots.toList.zipIdx.filterMap fun s => s.1.map fun e => (s.2, e)

def Pairing.held (x : Pairing) : Nat := x.entries.length

/-- The lowest-numbered free slot (R96). -/
def Pairing.freeSlot (x : Pairing) : Option Nat :=
  (x.slots.toList.zipIdx.find? fun s => s.1.isNone).map (·.2)

/-- The mirror write of a slot is in progress on the port. -/
def Part.mirrorWriting (p : Part) (i : Nat) : Bool := decide (p.store.op.map (·.kind) = some (.mirror i))

/-- A slot is dirty while its present content has not been written to the mirror (R107): it is in the dirty queue, or its
write is in progress. -/
def Part.slotDirty (p : Part) (i : Nat) : Bool := decide (i ∈ p.pairing.dirty) || p.mirrorWriting i

/-- Dirty slots (R188). -/
def Part.dirtyCount (p : Part) : Nat := (List.range 64).countP p.slotDirty

/-- A change of a slot marks it dirty (R108). -/
def Part.setSlot (p : Part) (i : Nat) (e : Option PendingEntry) : Part :=
  (p.modPairing fun x => { x with slots := x.slots.setIfInBounds i e }).markDirty i

/-- The largest creation number (R96). -/
def creationLimit : Nat := 4294967295

/-- R96: when the next creation number would pass its limit, the entries held are renumbered from 1 in their order, and
every occupied slot is marked dirty, in slot order. Entries of one number keep one number (log 44). -/
def Part.renumber (p : Part) : Part :=
  if p.pairing.nextCreation ≤ creationLimit then p
  else
    let es := p.pairing.entries
    let rank := fun (c : Nat) => 1 + (es.filter fun x => decide (x.2.creation < c)).length
    let slots := p.pairing.slots.map fun s => s.map fun (e : PendingEntry) => { e with creation := rank e.creation }
    let q := p.modPairing fun x => { x with slots := slots, nextCreation := es.length + 1 }
    (es.map (·.1)).foldl Part.markDirty q

/-- Creates a RESERVED entry in slot `i` (R98, R96). -/
def Part.reserve (p : Part) (i : Nat) (v : VehicleId) (regIndex : Option Nat) : Part :=
  let e : PendingEntry := { vehicle := v, regIndex := regIndex, state := .reserved, creation := p.pairing.nextCreation }
  let q := p.setSlot i (some e)
  (q.modPairing fun x => { x with nextCreation := x.nextCreation + 1 }).renumber

/-- The vehicle's OPEN entry becomes CLAIMED (R100). -/
def Part.claim (p : Part) (i : Nat) (e : PendingEntry) (g : GrossSide) (l : LaneId) : Part :=
  p.setSlot i (some { e with state := .claimed g l })

/-- The entry in a slot. -/
def Part.slot (p : Part) (i : Nat) : Option PendingEntry := (p.pairing.slots[i]?).join

/-- What an aborted visit releases: a RESERVED entry is removed, a CLAIMED one returns to OPEN (R101). -/
def Part.releasePending (p : Part) (v : Visit) : Part :=
  match v.pendingIndex with
  | none => p
  | some i =>
    match p.slot i with
    | none => p
    | some e =>
      match e.state with
      | .reserved => p.setSlot i none
      | .claimed g _ => p.setSlot i (some { e with state := .opened g })
      | .opened _ => p

/-- The ticket of a gross that will not be paired: UNPAIRED or CANCELLED (R104, R106). -/
def PendingEntry.soloTicket (e : PendingEntry) (kind : TicketKind) (g : GrossSide) : Ticket :=
  { kind := kind, vehicle := e.vehicle, regIndex := e.regIndex,
    side := { g with verdict := { g.verdict with heldReleased := false } }, tare := .absent, net := none,
    exitAxles := none, heldReleased := g.verdict.heldReleased, exitOverrun := false }

/-- A NET or VOID ticket, by whether the gross is above the tare (R66, R113); `kind` is the kind with a net. -/
def pairTicket (kind : TicketKind) (vehicle : VehicleId) (regIndex : Option Nat) (g : GrossSide) (tare : TareSide)
    (mass : Int) (exitOverrun : Bool) : Ticket :=
  let net := g.gross - mass
  { kind := if 0 < net then kind else .void, vehicle := vehicle, regIndex := regIndex,
    side := { g with verdict := { g.verdict with heldReleased := false } }, tare := tare,
    net := if 0 < net then some net else none, exitAxles := none, heldReleased := g.verdict.heldReleased,
    exitOverrun := exitOverrun }

/-! ## Expiry (R104) -/

def SiteTime.toMs (t : SiteTime) : Nat := 1000 * t.sec + t.ms

/-- R104: more than the pending age limit, in hours, before the current time. -/
def overdue (now gross : SiteTime) (limit : Nat) : Bool := decide (gross.toMs + limit * 3600000 < now.toMs)

/-- The scan over the slots in `is`; it stops at an overdue entry that finds the staging queue full. -/
def Part.expireSlots (limit : Nat) : List Nat → Part → Part
  | [], p => p
  | i :: is, p =>
    match p.slot i with
    | none => Part.expireSlots limit is p
    | some e =>
      match e.state with
      | .opened g =>
        if overdue p.siteTime g.time limit then
          if p.stagingFull then p
          else
            let q := (p.setSlot i none).issueTicket (e.soloTicket .unpaired g) none
            Part.expireSlots limit is (q.notify (.pendingExpired e.vehicle i g.gross g.time))
        else Part.expireSlots limit is p
      | _ => Part.expireSlots limit is p

/-- The slots of the entries held, in creation order (R96); of entries with one creation number the lower slot comes first
(log 44). -/
def Pairing.order (x : Pairing) : List Nat :=
  (x.entries.insertionSort fun a b => a.2.creation ≤ b.2.creation).map (·.1)

/-- The expiry scan (R104). -/
def Part.expireScan (p : Part) (limit : Nat) : Part := Part.expireSlots limit p.pairing.order p

/-! ## The consignment list (03 3.5) -/

def Pairing.findConsignment (x : Pairing) (v : VehicleId) : Option ConsignEntry :=
  x.consignments.find? fun c => c.vehicle = v

def Part.dropConsignment (p : Part) (v : VehicleId) : Part :=
  p.modPairing fun x => { x with consignments := x.consignments.filter fun c => c.vehicle ≠ v }

def Part.addConsignment (p : Part) (v : VehicleId) (c : Consignment) : Part :=
  let e : ConsignEntry := ⟨v, c, p.clock.sec⟩
  p.modPairing fun x => { x with consignments := x.consignments ++ [e] }

/-- R58: more than the consignment age limit, in minutes, before the current time. -/
def ConsignEntry.stale (c : ConsignEntry) (now limit : Nat) : Bool := decide (c.entered + 60 * limit < now)

/-- The consignment expiry scan (R58). Several entries that expire raise their notices in the order of the list, which is
that of their entry (log 40). -/
def Part.expireConsignments (p : Part) (limit : Nat) : Part :=
  let old := p.pairing.consignments.filter fun c => c.stale p.clock.sec limit
  let keep := p.pairing.consignments.filter fun c => !c.stale p.clock.sec limit
  let q := p.modPairing fun x => { x with consignments := keep }
  old.foldl (fun q c => q.notify (.consignExpired c.vehicle c.consignment.commodity)) q

end Sys2Proof.Machine
end

