-- ==== Sys2Proof/Machine/Service.lean ====
section
/-! DEFINITION. What the lane controllers and the audit unit do to each other: settings in use and their adoption (07),
window restarts and step completion, service state changes (08 8.1), the start and the end of an audit session, the
close step and aborts of a visit (03 3.8-3.10), and lane faults (02 2.4). The definitions are in layers, each over the
ones before it. -/

namespace Sys2Proof.Machine

/-! ## Settings in use (R128, R134, R138) -/

/-- The settings image that a lane has adopted (R134). -/
def Part.adopted (p : Part) (l : LaneId) : SettingsImage :=
  if (p.lane l).adoptedActive then p.tables.settingsActive
  else p.tables.settingsPrevious.getD p.tables.settingsActive

/-- The lane entry in use: the default one in place of a damaged one (R138). -/
def Part.settings (p : Part) (l : LaneId) : LaneEntry :=
  let s := (p.adopted l).lanes.get l
  if s.damaged then .default_ else s.val

/-- The image whose site entry is in force: the previous one while a committed image awaits adoption (R128). -/
def Part.siteImage (p : Part) : SettingsImage := p.tables.settingsPrevious.getD p.tables.settingsActive

/-- The site entry in use: the default one in place of a damaged one (R138), one found damaged before it came into force
included (log 43). -/
def Part.site (p : Part) : SiteEntry := if p.siteImage.site.damaged then .default_ else p.siteImage.site.val

/-- Changes the image that a lane has adopted, where it stands. -/
def Part.modAdopted (p : Part) (l : LaneId) (f : SettingsImage → SettingsImage) : Part :=
  p.modTables fun t =>
    if (p.lane l).adoptedActive ∨ t.settingsPrevious.isNone then { t with settingsActive := f t.settingsActive }
    else { t with settingsPrevious := t.settingsPrevious.map f }

def Part.adoptedName (p : Part) (l : LaneId) : ImageName :=
  if (p.lane l).adoptedActive ∨ p.tables.settingsPrevious.isNone then .active else .previous

/-- A lane without a visit, or at its close step, adopts the active settings image (R134). The lane's own entry found
damaged before raises SETTINGS_PARITY (R138); a site entry found damaged before raises nothing (log 43). -/
def Part.adopt (p : Part) (l : LaneId) : Part :=
  let p1 := p.modLane l fun x => { x with adoptedActive := true, adoptedValid := true }
  let p2 := p1.laneClear l .settingsParity
  let p3 := if (p2.tables.settingsActive.lanes.get l).damaged then p2.laneRaiseIdle l .settingsParity else p2
  let both := (p3.lane l.other).adoptedActive
  let changed := both && p3.tables.settingsPrevious.isSome
  let p4 := if both then p3.modTables fun t => { t with settingsPrevious := none } else p3
  p4.notify (.tableAdopted l p4.tables.settingsActive.crc changed)

/-! ## Window restarts and audit steps (R10, R152) -/

/-- The step in flight of a session on deck `d`. -/
def Part.inFlightOn (p : Part) (d : DeckId) : Option Nat :=
  p.audit.session.bind fun s => if s.deck = d then s.inFlight else none

/-- A step in flight completes, with its reading or, without one, NO_STABLE (R152). -/
def Part.completeStep (p : Part) (reading : Option Reading) : Part :=
  match p.audit.session with
  | none => p
  | some s =>
    match s.inFlight, s.inFlight.bind fun n => s.steps[n - 1]? with
    | some n, some st =>
      let result := match reading with
        | none => StepResult.noStable
        | some r => r.result
      let st' : AuditStepRec := { st with reading := reading, result := some result }
      let s' : Session := { s with steps := s.steps.set (n - 1) st', inFlight := none }
      let p1 := p.modAudit fun a => { a with session := some s', stepTimer := .stopped }
      let p2 := p1.handTrail (some s.deck) (.step n st.kind st.reference st.cell result reading)
      p2.notify (.stepDone s.deck n st')
    | _, _ => p

/-- A window restart of a deck (R10); it completes a step in flight there NO_STABLE (R152). -/
def Part.windowRestart (p : Part) (d : DeckId) : Part :=
  let q := p.modDeck d Deck.restart
  if (q.inFlightOn d).isSome then q.completeStep none else q

/-! ## Service state changes (R143, R144) -/

/-- Zd takes Zcal; a deck without a usable entry has no Zd (R15). -/
def Deck.zeroFromCal (x : Deck) : Deck :=
  { x with zd := if x.usable then x.cal.map (fun c => 1000 * c.entry.zcal) else none }

/-- Steps 1 and 2 of R144. -/
def Part.serviceHead (p : Part) (d : DeckId) (new : ServiceState) : Part :=
  let old := (p.deck d).service
  let p1 := p.modDeck d fun x => { x with service := new }
  let p2 := p1.handTrail (some d) (.service old new (p1.deck d).causes)
  let p3 := p2.windowRestart d
  if new = .trade then p3.modDeck d Deck.zeroFromCal else p3

/-- Steps 4 and 5 of R144. -/
def Part.serviceTail (p : Part) (d : DeckId) (old new : ServiceState) : Part :=
  let q := p.judgePersisted d
  q.notify (.deckService d old new (q.deck d).causes)

/-- The change of a deck to AUDIT (R144, R150). -/
def Part.serviceToAudit (p : Part) (d : DeckId) : Part :=
  let old := (p.deck d).service
  let p1 := p.serviceHead d .audit
  let p2 := if old = .fault then p1.clearDeckFault (laneOf d) else p1
  p2.serviceTail d old .audit

/-! ## A session becomes ACTIVE (R150, R40) -/

def Part.activate (p : Part) (s : Session) : Part :=
  let l := laneOf s.deck
  let o : AtOpen := ⟨(p.lane l).state, (p.deck s.deck).service, (p.deck s.deck).counter⟩
  let p1 := p.modAudit fun a => { a with session := some { s with atOpen := some o }, waitTimer := .stopped }
  let p2 := (p1.modBlocks l fun b => { b with auditPending := false }).enterLaneState l .audit
  let p3 := p2.handTrail (some s.deck) (.auditOpen s.reason o.lane o.deck o.count s.openTime)
  let p4 := p3.serviceToAudit s.deck
  let p5 := (p4.modDeck s.deck fun x => { x with marker := some 0 }).markImage s.deck
  p5.notify (.auditStarted s.deck s.reason)

/-! ## The close step (R72) and the ends of visits (R69) -/

/-- R85: the exit axle count is entered in the verdict record of the visit. -/
def Lane.enterExit (x : Lane) : Lane := { x with visit := x.visit.map (·.enterExit x.exitAxles) }

/-- The visit slot is emptied, the timers of the visit stop, and the axle screen clears its lists (R72, R94). -/
def Lane.emptySlot (x : Lane) : Lane :=
  { x with
    visit := none, waitTimer := .stopped, dwellTimer := .stopped, quietTimer := .stopped, settleTimer := .stopped,
    clearTimer := .stopped, axles := [], overflow := 0, withdrawn := [], axleInvalid := false, exitAxles := 0 }

/-- Step 4 of R72 (R37, R44). -/
def Part.settleLaneState (p : Part) (l : LaneId) : Part :=
  let x := p.lane l
  if (x.state = .opened ∧ x.blocks.closeRequested = true) ∨ (x.state = .fault ∧ x.causes = .empty) then
    p.enterLaneState l .closed
  else p

/-- Step 5 of R72. -/
def Part.startPendingAudit (p : Part) (l : LaneId) : Part :=
  match p.audit.session with
  | none => p
  | some s => if laneOf s.deck = l ∧ s.atOpen.isNone then p.activate s else p

/-- The close step of a visit's end (R72); `closed` is false for a visit ended at once. -/
def Part.closeStep (p : Part) (l : LaneId) (closed : Bool) : Part :=
  match p.visit l with
  | none => p
  | some v =>
    let n := (p.lane l).exitAxles
    let p1 := (p.enterExitAxles l v.count n).modLane l fun x => x.enterExit.emptySlot
    let p2 := if closed then
        p1.notify (.visitClosed l v.count v.kind (v.capture.map (·.gross)) v.abort n)
      else p1
    let p3 := if (p2.lane l).adoptedActive then p2 else p2.adopt l
    (p3.settleLaneState l).startPendingAudit l

/-- The reason is recorded, VISIT_ABORTED is queued, and the pairing unit releases the visit's entry (R69). -/
def Part.abortEffect (p : Part) (l : LaneId) (v : Visit) (reason : AbortReason) : Part :=
  let p1 := p.setVisit l { v with abort := some reason }
  let p2 := p1.notify (.visitAborted l v.count v.vehicle v.kind reason)
  p2.releasePending v

/-- A visit ended at once (R69, R72). -/
def Part.endAtOnce (p : Part) (l : LaneId) (reason : AbortReason) : Part :=
  match p.visit l with
  | none => p
  | some v => (p.abortEffect l v reason).closeStep l false

/-- Both beams of a lane are CLEAR. -/
def Part.beamsClear (p : Part) (l : LaneId) : Bool := !(p.laneEnd l .a).beamLevel && !(p.laneEnd l .b).beamLevel

/-- The fixed length of the clear timer, 2 s (03 3.1). -/
def clearTime : Nat := 2000

/-- The clear timer at entry to EXITING or CLEARING (R67). -/
def Part.clearTimerAtEntry (p : Part) (l : LaneId) : Timer := if p.beamsClear l then p.start clearTime else .stopped

/-- The visit enters CLEARING (R36, R67, R69); leaving SETTLING clears STORE_WAIT (log 32). -/
def Part.enterClearing (p : Part) (l : LaneId) : Part :=
  let t := p.clearTimerAtEntry l
  p.modLane l fun x =>
    { x with visit := x.visit.map fun v => { v with state := .clearing, storeWait := false }
             quietTimer := .stopped, settleTimer := .stopped, clearTimer := t }

/-- A visit aborted in any state before EXITING (R69); a visit in EXITING or CLEARING is left as it is. -/
def Part.abortVisit (p : Part) (l : LaneId) (reason : AbortReason) : Part :=
  match p.visit l with
  | none => p
  | some v =>
    match v.state with
    | .identify => p.endAtOnce l reason
    | .consignWait => p.endAtOnce l reason
    | .entering => (p.abortEffect l v reason).enterClearing l
    | .settling => (p.abortEffect l v reason).enterClearing l
    | .held => (p.abortEffect l v reason).enterClearing l
    | .exiting => p
    | .clearing => p

/-- A visit receives the lane fault (R36). -/
def Part.visitFault (p : Part) (l : LaneId) : Part :=
  if p.visitState l = some .exiting then p.enterClearing l else p.abortVisit l .laneFault

/-! ## Lane faults (R36) and changes of service state (R144) -/

/-- A cause joins the cause set of a lane; into an empty set of an OPEN or CLOSED lane it brings FAULT, and a visit
receives the lane fault in the same step (R36). A lane in FAULT with a visit and an empty set stays in FAULT (R37). -/
def Part.laneRaise (p : Part) (l : LaneId) (c : LaneCause) : Part :=
  if (p.lane l).causes.has c then p
  else
    let q := p.modLane l fun x => { x with causes := x.causes.put true c }
    if (p.lane l).causes ≠ .empty then q
    else
      match (p.lane l).state with
      | .audit => q
      | .fault => q
      | .closed => q.enterLaneState l .fault
      | .opened => (q.enterLaneState l .fault).visitFault l

/-- A change of a deck's service state to TRADE, SUSPENDED or FAULT (R144). -/
def Part.changeService (p : Part) (d : DeckId) (new : ServiceState) : Part :=
  let old := (p.deck d).service
  if old = new then p
  else
    let p1 := p.serviceHead d new
    let p2 := if new = .fault then p1.laneRaise (laneOf d) .deckFault
      else if old = .fault then p1.clearDeckFault (laneOf d) else p1
    p2.serviceTail d old new

/-- A cause joins a deck's set: a deck in TRADE goes to FAULT (R142, R143). -/
def Part.raiseCause (p : Part) (d : DeckId) (c : DeckCause) : Part :=
  if (p.deck d).causes.has c then p
  else
    let q := p.modDeck d fun x => { x with causes := x.causes.add c }
    if (p.deck d).service = .trade then q.changeService d .fault else q.judgePersisted d

/-! ## Reads of the calibration entry (R6, R142) -/

/-- The calibration entry fails its parity check (R6, R142, log 31): it is marked damaged and is then not usable (R4). -/
def Part.entryParityFailure (p : Part) (d : DeckId) : Part :=
  let p1 := p.modDeck d fun x =>
    { x with cal := x.cal.map fun c => { c with damaged := true }
             zd := none, sampleTimer := .stopped, lastSeq := none }
  let p2 := (p1.windowRestart d).modDeck d Deck.endRun
  (p2.raiseCause d .tableParity).notify (.parity (.deck d))

/-- A read of a deck's entry with its parity check, by the deck channel (R6) or by the audit unit (R142). An entry that is
marked damaged is not read again. -/
def Part.readEntry (p : Part) (d : DeckId) : Part :=
  match (p.deck d).cal with
  | none => p
  | some c => if c.damaged || c.parityOk then p else p.entryParityFailure d

/-- A deck that has entered TRADE in this step: the read of Zcal for Zd (R15) checks the entry, a failure taking its
effect after the rest of the step that brought the change (R6, log 37). -/
def Part.tradeRead (p : Part) (d : DeckId) (new : ServiceState) : Part := if new = .trade then p.readEntry d else p

/-- The auto causes that are present leave the set as one change (R19, R143). -/
def Part.clearAuto (p : Part) (d : DeckId) : Part :=
  if (p.deck d).causes.linkLoss ∨ (p.deck d).causes.cellFault then
    let q := p.modDeck d fun x => { x with causes := x.causes.needsAudit }
    if (q.deck d).causes = .empty ∧ (q.deck d).service = .fault then (q.changeService d .trade).tradeRead d .trade else q
  else p

/-! ## The end of a session (R158, R40) -/

/-- The lane leaves AUDIT at the session's end (R40). -/
def Part.leaveAudit (p : Part) (l : LaneId) (atOpen : LaneState) : Part :=
  let x := p.lane l
  if x.causes ≠ .empty then p.enterLaneState l .fault
  else if atOpen = .opened ∧ (l.decks.all fun d => decide ((p.deck d).service = .trade)) = true ∧
      x.blocks.closeRequested = false then p.enterLaneState l .opened
  else p.enterLaneState l .closed

/-- The session ends with a verdict, by AUDIT_CLOSE or, `aborted`, by AUDIT_ABORT (R158). -/
def Part.endSession (p : Part) (s : Session) (o : AtOpen) (v : AuditVerdict) (aborted : Bool) : Part :=
  let d := s.deck
  let causes := if v = .pass then (p.deck d).causes.autoOnly else (p.deck d).causes
  let after := stateAfterSession v s.writes o.deck causes
  let p1 := p.handTrail (some d) (.auditClose v aborted s.steps.length (countedSteps s.firstCounted s.steps).length
    s.writes o.count (p.deck d).counter after)
  let p2 := p1.modDeck d fun x => { x with causes := causes }
  let p3 := p2.changeService d after
  let p4 := (p3.modDeck d fun x => { x with marker := none }).markImage d
  let p5 := p4.modAudit fun a => { a with session := none, waitTimer := .stopped, stepTimer := .stopped }
  let p6 := p5.leaveAudit (laneOf d) o.lane
  (p6.notify (.auditEnded d v after)).tradeRead d after

/-! ## Parity checks at a use of the settings (R129, R138, log 16) -/

/-- The lane's entry is read: one that fails its check is marked damaged, reported, and raises SETTINGS_PARITY. -/
def Part.checkLane (p : Part) (l : LaneId) : Part :=
  let s := (p.adopted l).lanes.get l
  if s.damaged || s.parityOk then p
  else
    let name := p.adoptedName l
    let q := p.modAdopted l fun i => { i with lanes := i.lanes.set l { s with damaged := true } }
    (q.notify (.parity (.settingsEntry name l.toNat))).laneRaise l .settingsParity

/-- The site entry in force is read: one that fails its check raises SETTINGS_PARITY on both lanes, lane 0 first
(log 40). -/
def Part.checkSite (p : Part) : Part :=
  let s := p.siteImage.site
  if s.damaged || s.parityOk then p
  else
    let mark := fun (i : SettingsImage) => { i with site := { s with damaged := true } }
    let name : ImageName := if p.tables.settingsPrevious.isSome then .previous else .active
    let q := p.modTables fun t =>
      if t.settingsPrevious.isSome then { t with settingsPrevious := t.settingsPrevious.map mark }
      else { t with settingsActive := mark t.settingsActive }
    ((q.notify (.parity (.settingsEntry name 2))).laneRaise .l0 .settingsParity).laneRaise .l1 .settingsParity

end Sys2Proof.Machine
end

