-- ==== Sys2Proof/Machine/Course.lean ====
section
/-! DEFINITION. The course of a visit (03 3.2-3.8) as the events of several families move it: start, identity,
classification, entering, settling, capture, results and close. -/

namespace Sys2Proof.Machine

/-! ## Start and register lookups (R49, R50, R52, R136) -/

/-- A visit record at its start (R49). -/
def Visit.start (count : Byte) (entry : LaneEnd) : Visit :=
  { count := count, entry := entry, state := .identify, kind := none, vehicle := none, regIndex := none, permits := [],
    preset := none, consignment := none, pendingIndex := none, capture := none, exitOverrun := false,
    overstaySent := false, storeWait := false, heldReleased := false, abort := none }

/-- A visit starts: the slot takes a new record with the next visit count (R49), and the axle screen starts with empty
lists (R94). -/
def Part.startVisit (p : Part) (l : LaneId) (e : LaneEnd) (who : TagId ⊕ VehicleId) : Part :=
  let n := (p.lane l).nextVisit
  let q := p.modLane l fun x => { x.emptySlot with visit := some (Visit.start n e), nextVisit := n + 1 }
  q.notify (.visitStarted l n e who)

/-- A search of the register in index order: slots that fail their check are marked damaged, reported and passed over;
empty and damaged slots are passed over; it stops at the first entry that `hit` takes (R136). -/
def Part.searchRegister (hit : RegEntry → Bool) : List (Nat × Slot (Option RegEntry)) → Part →
    Part × Option (Nat × RegEntry)
  | [], p => (p, none)
  | (i, s) :: rest, p =>
    if s.damaged then Part.searchRegister hit rest p
    else if s.parityOk = false then
      let mark := fun (x : Nat × Slot (Option RegEntry)) => if x.1 = i then (i, { s with damaged := true }) else x
      let q := p.modTables fun t => { t with register := t.register.map mark }
      Part.searchRegister hit rest (q.notify (.parity (.registerSlot i)))
    else
      match s.val with
      | none => Part.searchRegister hit rest p
      | some r => if hit r then (p, some (i, r)) else Part.searchRegister hit rest p

/-! ## Entering (R59) -/

/-- The visit enters ENTERING and the quiet timer starts (R59). -/
def Part.enterEntering (p : Part) (l : LaneId) : Part :=
  let t := p.start (1000 * (p.settings l).quietTime)
  p.modLane l fun x =>
    { x with visit := x.visit.map fun v => { v with state := .entering, storeWait := false }
             waitTimer := .stopped, settleTimer := .stopped, quietTimer := t }

/-! ## Classification and the consignment step (R53-R56) -/

/-- R55: the preset route, for a visit whose identity holds `t`. -/
def presetOpen (use : PresetUse) (clock : Clock) (maxAge : Nat) (t : Option PresetTare) : Bool :=
  match t with
  | none => false
  | some t =>
    let day := clock.sec / 86400
    decide (use = .whenFull) && clock.valid && decide (t.date ≤ day ∧ day - t.date ≤ maxAge)

/-- R56. -/
def Part.consignStep (p : Part) (l : LaneId) (v : Visit) (vehicle : VehicleId) : Part :=
  match p.pairing.findConsignment vehicle with
  | some c => ((p.dropConsignment vehicle).setVisit l { v with consignment := some c.consignment }).enterEntering l
  | none =>
    let t := p.start (1000 * (p.settings l).consignTimeout)
    (p.setVisit l { v with state := .consignWait }).modLane l fun x => { x with waitTimer := t }

/-- The other lane holds a visit with this vehicle id, past IDENTIFY (R54). -/
def Part.otherHolds (p : Part) (l : LaneId) (vehicle : VehicleId) : Bool :=
  match p.visit l.other with
  | none => false
  | some w => decide (w.vehicle = some vehicle ∧ w.state ≠ .identify)

/-- Classification where the list is full and holds no entry for the vehicle: the preset route or PENDING_FULL (R54). -/
def Part.classifyFull (p : Part) (l : LaneId) (vehicle : VehicleId) : Part :=
  match p.visit l with
  | none => p
  | some v =>
    if presetOpen (p.settings l).presetUse p.clock p.site.presetAge v.preset then
      p.consignStep l { v with kind := some .grossPreset } vehicle
    else p.endAtOnce l .pendingFull

/-- The pairing unit classifies the visit (R54). -/
def Part.classify (p : Part) (l : LaneId) (v : Visit) (vehicle : VehicleId) : Part :=
  if p.otherHolds l vehicle then p.endAtOnce l .duplicateVisit
  else
    match p.pairing.find vehicle with
    | some (i, e) =>
      match e.state with
      | .opened g =>
        ((p.claim i e g l).setVisit l { v with kind := some .tare, pendingIndex := some i }).enterEntering l
      | _ => p.endAtOnce l .pendingFull
    | none =>
      match p.pairing.freeSlot with
      | some i => (p.reserve i vehicle v.regIndex).consignStep l
          { v with kind := some .gross, pendingIndex := some i } vehicle
      | none => p.checkSite.classifyFull l vehicle

/-- What an identity gives a visit. -/
structure Identity where
  vehicle : VehicleId
  regIndex : Option Nat
  permits : List Nat
  preset : Option PresetTare
  deriving DecidableEq, Repr, Inhabited

/-- The identity of a register entry. -/
def Identity.ofEntry (i : Nat) (r : RegEntry) : Identity := ⟨r.vehicle, some i, r.permits, r.preset⟩

/-- The visit's identity is set, the dwell timer starts, the wait timer stops, and the visit is classified (R53). -/
def Part.setIdentity (p : Part) (l : LaneId) (x : Identity) : Part :=
  match p.visit l with
  | none => p
  | some v =>
    let v' : Visit := { v with
      vehicle := some x.vehicle, regIndex := x.regIndex, permits := x.permits, preset := x.preset }
    let t := p.start (1000 * (p.settings l).dwellLimit)
    let q := (p.setVisit l v').modLane l fun y => { y with dwellTimer := t, waitTimer := .stopped }
    q.classify l v' x.vehicle

/-! ## Settling (R60, R61) -/

/-- A restart of the settle timer: it stops at zero, STORE_WAIT is cleared, and the blocked latch of each beam that is
CLEAR is cleared (R61, R64, R26). -/
def Part.settleRestart (p : Part) (l : LaneId) : Part :=
  let unlatch := fun (e : EndState) => { e with beamLatch := e.beamLatch && e.beamLevel }
  p.modLane l fun x =>
    { x with settleTimer := .stopped, visit := x.visit.map fun v => { v with storeWait := false }
             ends := ⟨unlatch x.ends.a, unlatch x.ends.b⟩ }

/-- R61: all three decks STABLE and both blocked latches clear. -/
def Part.settleCondition (p : Part) (l : LaneId) : Bool :=
  (l.decks.all fun d => decide ((p.deck d).status = .stable)) && !(p.laneEnd l .a).beamLatch && !(p.laneEnd l .b).beamLatch

/-- The settle timer starts from zero if it is stopped and the settle condition holds (R61). -/
def Part.settleTry (p : Part) (l : LaneId) : Part :=
  if p.visitState l = some .settling ∧ (p.lane l).settleTimer = .stopped ∧ p.settleCondition l = true then
    let q := p.checkLane l
    if q.visitState l = some .settling then
      let t := q.start (q.settings l).settleTime
      q.modLane l fun x => { x with settleTimer := t }
    else q
  else p

/-- A deck of the lane is OVER (R60). -/
def Part.anyOver (p : Part) (l : LaneId) : Bool := l.decks.any fun d => decide ((p.deck d).status = .over)

/-- The visit enters SETTLING (R60). -/
def Part.enterSettling (p : Part) (l : LaneId) : Part :=
  let p1 := p.modLane l fun x =>
    { x with visit := x.visit.map fun v => { v with state := .settling }, quietTimer := .stopped }
  let p2 := p1.settleRestart l
  if p2.anyOver l then p2.abortVisit l .deckOver else p2.settleTry l

/-- The entry completes when the list holds an axle, the entry beam is CLEAR and the quiet timer has expired (R59). -/
def Part.tryEnterSettling (p : Part) (l : LaneId) : Part :=
  match p.visit l with
  | none => p
  | some v =>
    let x := p.lane l
    if v.state = .entering ∧ x.axles ≠ [] ∧ (x.ends.get v.entry).beamLevel = false ∧ x.quietTimer = .expired then
      p.enterSettling l
    else p

/-! ## Capture and results (R62-R66) -/

/-- The search of the active class image over the indices in `is` (R90): entries that fail their check are marked,
reported and passed over. -/
def Part.matchClass (permits pattern : List Nat) : List Nat → Part → Part × Option ClassEntry
  | [], p => (p, none)
  | i :: is, p =>
    match p.tables.classActive[i]? with
    | none => (p, none)
    | some s =>
      if s.damaged then Part.matchClass permits pattern is p
      else if s.parityOk = false then
        let q := p.modTables fun t =>
          { t with classActive := t.classActive.setIfInBounds i { s with damaged := true } }
        Part.matchClass permits pattern is (q.notify (.parity (.classEntry .active i)))
      else
        match s.val with
        | none => Part.matchClass permits pattern is p
        | some c =>
          if (permits = [] ∨ c.id ∈ permits) ∧ c.sizes = pattern then (p, some c)
          else Part.matchClass permits pattern is p

/-- The verdict of a visit whose steps pass (R88-R92), with the weights and the group numbers entered. -/
def Part.screenSteps (p : Part) (l : LaneId) (permits : List Nat) (gross : Int) (steps : List Int) : Part × Verdict :=
  let x := p.lane l
  let scaled := scaledWeights steps gross
  let gs := groupNumbers (p.settings l).groupGap (x.axles.map (·.spacing))
  let pattern := groupPattern gs
  let masses := groupMasses gs scaled
  let q := p.modLane l fun y => { y with axles := enterWeights y.axles steps scaled gs }
  if pattern.length ≤ 8 ∧ x.overflow = 0 then
    let r := Part.matchClass permits pattern (List.range 48) q
    (r.1, verdictOf x.overflow pattern masses gross r.2)
  else (q, verdictOf x.overflow pattern masses gross none)

/-- The verdict at capture (R86-R92). Steps that are found are entered in the axle records (R87), also where they fail
the fourth condition of R86. -/
def Part.formVerdict (p : Part) (l : LaneId) (permits : List Nat) (gross captured : Int) : Part × Verdict :=
  let x := p.lane l
  match findSteps x.axleInvalid x.axles captured with
  | none => (p, notScreened x.overflow)
  | some steps =>
    if stepsPass steps then p.screenSteps l permits gross steps
    else (p.modLane l fun y => { y with axles := enterWeights y.axles steps [] [] }, notScreened x.overflow)

/-- What a GROSS visit leaves in its entry, and a GROSS_PRESET visit on its ticket (R66, R99). -/
def Visit.grossSide (v : Visit) (l : LaneId) (c : Capture) : GrossSide :=
  { gross := c.gross, time := c.time, lane := l, counts := c.counts, consignment := v.consignment.getD default,
    verdict := c.verdict.summary v.heldReleased }

/-- The visit's results take effect (R66). -/
def Part.takeEffect (p : Part) (l : LaneId) (v : Visit) (c : Capture) : Part :=
  let tag := some (l, v.count)
  match v.kind with
  | none => p
  | some .gross =>
    match v.pendingIndex with
    | none => p
    | some i =>
      match p.slot i with
      | none => p
      | some e => p.setSlot i (some { e with state := .opened (v.grossSide l c) })
  | some .grossPreset =>
    match v.preset with
    | none => p
    | some t =>
      p.issueTicket (pairTicket .presetNet (v.vehicle.getD []) v.regIndex (v.grossSide l c) (.preset t.mass t.date) t.mass
        v.exitOverrun) tag
  | some .tare =>
    match v.pendingIndex with
    | none => p
    | some i =>
      match p.slot i with
      | none => p
      | some e =>
        match e.state with
        | .claimed g _ =>
          (p.setSlot i none).issueTicket (pairTicket .net e.vehicle e.regIndex g
            (.weighed c.gross c.time l c.counts) c.gross v.exitOverrun) tag
        | _ => p

/-- The visit enters EXITING (R66, R67). -/
def Part.enterExiting (p : Part) (l : LaneId) : Part :=
  match p.visit l with
  | none => p
  | some v =>
    let t := p.clearTimerAtEntry l
    let q := p.modLane l fun x =>
      { x with visit := some { v with state := .exiting, storeWait := false }, settleTimer := .stopped, clearTimer := t }
    match v.capture with
    | none => q
    | some c => q.takeEffect l v c

/-- Displayed weights of the lane's decks, kg. -/
def Part.displayedWeights (p : Part) (l : LaneId) : List Int :=
  l.decks.map fun d => ((p.deck d).published.map (·.displayed)).getD 0

/-- The sum of the lane's net values, in grams (R87). -/
def Part.rawTotal (p : Part) (l : LaneId) : Int :=
  (l.decks.map fun d => ((p.deck d).published.map (·.net)).getD 0).sum

/-- Capture (R63, R93). -/
def Part.capture (p : Part) (l : LaneId) (v : Visit) : Part :=
  let weights := p.displayedWeights l
  let gross := weights.sum
  let r := p.formVerdict l v.permits gross (p.rawTotal l)
  let c : Capture := { weights := weights, gross := gross, time := p.siteTime,
                       counts := l.decks.map fun d => (p.deck d).counter, verdict := r.2 }
  let v' : Visit := { v with capture := some c, storeWait := false }
  let p1 := (r.1.setVisit l v').notify (.visitCaptured l v.count v.kind gross r.2.kind)
  if v.kind ≠ some .tare ∧ r.2.kind = .over ∧ (p1.settings l).overload = .hold then
    let p2 := (p1.setVisit l { v' with state := .held }).modLane l fun x => { x with settleTimer := .stopped }
    p2.notify (.visitHeld l v.count v.vehicle gross r.2.overGroups r.2.overGross)
  else p1.enterExiting l

/-- The settle completion of a visit in SETTLING (R62). -/
def Part.settleComplete (p : Part) (l : LaneId) : Part :=
  let p1 := p.checkLane l
  match p1.visit l with
  | none => p1
  | some v =>
    if v.state ≠ .settling then p1
    else if (p1.displayedWeights l).sum < (p1.settings l).minGross then p1.abortVisit l .belowMinimum
    else if (v.kind = some .tare ∨ v.kind = some .grossPreset) ∧ p1.stagingFull = true then
      (p1.setVisit l { v with storeWait := true }).modLane l fun x => { x with settleTimer := .expired }
    else p1.capture l v

/-- A lane whose visit has STORE_WAIT set takes the settle completion again (R64). -/
def Part.storeRetry (p : Part) (l : LaneId) : Part :=
  match p.visit l with
  | none => p
  | some v => if v.state = .settling ∧ v.storeWait = true then p.settleComplete l else p

/-! ## Close (R67) -/

/-- A deck is empty within the empty band; in CLEARING a deck with NO_DATA counts as empty (R67). -/
def Deck.isEmpty (x : Deck) (band : Nat) (clearing : Bool) : Bool :=
  match x.published, x.cal with
  | some w, some c => decide (w.displayed.natAbs ≤ band * c.entry.e)
  | _, _ => clearing

/-- The visit closes if it is in EXITING or CLEARING, the clear timer has expired and all three decks are empty (R67). -/
def Part.tryClose (p : Part) (l : LaneId) : Part :=
  let may := fun (q : Part) =>
    decide ((q.visitState l = some .exiting ∨ q.visitState l = some .clearing) ∧ (q.lane l).clearTimer = .expired)
  if may p then
    let q := p.checkLane l
    let clearing := decide (q.visitState l = some .clearing)
    if may q && l.decks.all (fun d => (q.deck d).isEmpty (q.settings l).emptyBand clearing) then q.closeStep l true else q
  else p

/-! ## What a deck's event does to its lane (R60, R61, R67) -/

/-- The lane's reaction to an event of deck `d`: `good` for a good sample, `before` the deck's status before the
event. -/
def Part.laneReact (p : Part) (d : DeckId) (good : Bool) (before : WeightStatus) : Part :=
  let l := laneOf d
  let st := (p.deck d).status
  match p.visitState l with
  | some .settling =>
    if st = .over then p.abortVisit l .deckOver
    else (if st = .stable then p else p.settleRestart l).settleTry l
  | some .exiting => if good then p.tryClose l else p
  | some .clearing => if good ∨ (st = .noData ∧ before ≠ .noData) then p.tryClose l else p
  | _ => p

end Sys2Proof.Machine
end

