-- ==== Sys2Proof/Machine/Outputs.lean ====
section
/-! DEFINITION. What closes every step: each lane's outputs follow its state (R30-R33), and the transmitter begins the
first waiting frame (R185, log 10). -/

namespace Sys2Proof.Machine

/-- The signal driven at a lane end (R33). -/
def Part.signal (p : Part) (l : LaneId) (e : LaneEnd) : Signal :=
  ((p.lane l).outputs p.phase (p.settings l).admitting e).1

/-- The wanted command of a barrier (R33). -/
def Part.wanted (p : Part) (l : LaneId) (e : LaneEnd) : BarrierCommand :=
  ((p.lane l).outputs p.phase (p.settings l).admitting e).2

/-- The driven command follows the wanted one (R30); a change of it stops the supervision timer, and starts it again
when the new command is not satisfied (R31). `limit` is the timer that a start sets. A recorded failure stays: a command
that is satisfied when it is given is no reaching of a position (R32, log 21). -/
def Barrier.drive (b : Barrier) (wanted : BarrierCommand) (blocked : Bool) (limit : Timer) : Barrier :=
  let driven := b.follow wanted blocked
  let t := if driven = b.driven then b.timer
    else if driven ≠ .stop ∧ b.at driven = false then limit else .stopped
  { b with driven := driven, timer := t }

/-- A change of the driven command will start the supervision timer (R31). -/
def Barrier.starts (b : Barrier) (wanted : BarrierCommand) (blocked : Bool) : Bool :=
  let driven := b.follow wanted blocked
  decide (driven ≠ b.driven ∧ driven ≠ .stop ∧ b.at driven = false)

/-- A supervision timer started now (R31). -/
def Part.moveLimit (p : Part) (l : LaneId) : Timer := p.start (1000 * (p.settings l).moveLimit)

def Part.driveEnd (p : Part) (l : LaneId) (e : LaneEnd) : Part :=
  let w := p.wanted l e
  let t := p.moveLimit l
  p.modEnd l e fun x => { x with barrier := x.barrier.drive w x.beamLevel t }

/-- Whether this step reads the lane's settings for its outputs: an admitting lane's ends, or a timer that starts
(log 16). -/
def Part.drivesBySettings (p : Part) (l : LaneId) : Bool :=
  let starts := fun (e : LaneEnd) =>
    let x := p.laneEnd l e
    x.barrier.starts (p.wanted l e) x.beamLevel
  (p.lane l).admits || starts .a || starts .b

/-- A lane's outputs follow its state; BARRIER leaves the cause set when no failure is recorded any more (R32). -/
def Part.driveLane (p : Part) (l : LaneId) : Part :=
  let p1 := if p.drivesBySettings l then p.checkLane l else p
  let p2 := (p1.driveEnd l .a).driveEnd l .b
  if (p2.laneEnd l .a).barrier.failed || (p2.laneEnd l .b).barrier.failed then p2 else p2.laneClear l .barrier

/-- The step is at its end: the marks of a later step stand behind its own (R146). -/
def Part.endMarking (p : Part) : Part := p.modStore fun x => { x with marking := [] }

/-- The end of every step. -/
def Part.finish (p : Part) : Part := ((p.driveLane .l0).driveLane .l1).kick.endMarking

/-- A command that changes the part alone: its effect, and the end of the step. -/
def State.run (s : State) (f : Part → Part) : Host.Outcome State Fault Refusal := .next (s.act fun p => (f p).finish)

end Sys2Proof.Machine
end

