-- ==== Sys2Proof/Machine/Decks.lean ====
section
/-! DEFINITION. The deck channels' commands: SAMPLE_FRAME, SAMPLE_TIMEOUT_EXPIRY and CLEARANCE_TIMER_EXPIRY (01). -/

namespace Sys2Proof.Machine

/-- Monitor relay of a good sample (R22). -/
def Part.relay (p : Part) (d : DeckId) (seq : Nat) (cells : List Int) (raw : Int) : Part :=
  match p.monitor.selection with
  | none => p
  | some (e, n) =>
    if e ≠ d then p
    else if p.monitor.count + 1 < n then { p with monitor := ⟨some (e, n), p.monitor.count + 1⟩ }
    else
      let x := p.deck d
      let m : MonitorFrame :=
        { deck := d, seq := seq, gapCount := x.gapCount, cells := cells, raw := raw
          displayed := (x.published.map (·.displayed)).getD 0, status := x.status }
      { p with monitor := ⟨some (e, n), 0⟩, link := { p.link with monitorSlot := some m } }

/-- Zero tracking at a stable evaluation (R17). -/
def Part.trackZero (p : Part) (d : DeckId) (c : CalEntry) : Part :=
  let x := p.deck d
  match x.published, x.zd with
  | some w, some z =>
    if c.tracking = true ∧ x.service = .trade ∧ (p.visit (laneOf d)).isNone ∧ (w.filtered - z).natAbs ≤ 500 * c.e then
      if c.inZeroRange w.filtered then p.modDeck d fun y => { y with zd := some w.filtered }
      else p.raiseCause d .zeroRange
    else p
  | _, _ => p

/-- A stable evaluation completes a step in flight on the deck (R152). -/
def Part.measureStep (p : Part) (d : DeckId) (c : CalEntry) : Part :=
  match p.audit.session, (p.deck d).published with
  | some s, some w =>
    match s.inFlight.bind fun n => s.steps[n - 1]? with
    | none => p
    | some st => if s.deck = d then p.completeStep (some (measure c.e st.reference w.expanded)) else p
  | _, _ => p

/-- A good sample (R7, R9-R13, R17, R19, R22). The monitor frame is formed before the zero tracking of the same sample
(log 39). -/
def Part.goodSample (p : Part) (d : DeckId) (c : CalEntry) (s : Sample) : Part :=
  let cells := List.zipWith (fun k x => cellGrams k x.1) c.cells s.cells
  let raw := cells.sum
  let x := p.deck d
  let run := if x.clearance.isRunning = false ∧ (x.causes.linkLoss = true ∨ x.causes.cellFault = true) then p.start 2000
    else x.clearance
  let p1 := p.modDeck d fun x => ({ x with badCells := false, clearance := run }).take c raw
  let p2 := p1.relay d s.seq cells raw
  if (p2.deck d).status = .stable then (p2.trackZero d c).measureStep d c else p2

/-- A valid frame with an in-use cell that is not GOOD (R8, R19, R152). -/
def Part.badFrame (p : Part) (d : DeckId) : Part :=
  let p1 := p.modDeck d fun x => { x with badCells := true, status := .noData, published := none, clearance := .stopped }
  let p2 := if (p1.inFlightOn d).isSome then p1.completeStep none else p1
  p2.raiseCause d .cellFault

/-- A valid frame at the deck channel, the entry's parity first (R6, R8). A cell position beyond the cells in use is
remembered as GOOD, so one that a calibration write brings into use starts so (log 38). -/
def Part.channelFrame (p : Part) (d : DeckId) (c : CalSlot) (s : Sample) : Part × Bool :=
  if c.parityOk = false then (p.entryParityFailure d, false)
  else
    let n := c.entry.cells.length
    let sts := (s.cells.take n).map (·.2)
    let p1 := if sts ≠ (p.deck d).remembered.take n then p.windowRestart d else p
    let p2 := p1.modDeck d fun x => { x with remembered := sts ++ List.replicate (8 - n) .good }
    if sts.all fun st => decide (st = .good) then (p2.goodSample d c.entry s, true) else (p2.badFrame d, false)

/-- Missing frames before a valid one (R2). -/
def missing (last : Option Nat) (seq : Nat) : Nat :=
  match last with
  | none => 0
  | some q => (seq + 255 - q) % 256

/-- Sequence tracking of a valid frame (R2). -/
def Part.trackSequence (p : Part) (d : DeckId) (c : CalEntry) (seq : Nat) : Part :=
  let n := missing (p.deck d).lastSeq seq
  let p1 := p.modDeck d fun x => { x with gapCount := min 65535 (x.gapCount + n) }
  let p2 := if 3 < n then (p1.windowRestart d).modDeck d Deck.endRun else p1
  let t := p2.start c.timeout
  p2.modDeck d fun x => { x with lastSeq := some seq, sampleTimer := t }

/-- The rows of R1 for a frame that is not corrupt, on a deck with a usable entry: dropped, or valid. -/
def Deck.accepts (x : Deck) (d : DeckId) (c : CalEntry) (s : Sample) : Bool :=
  decide (s.node = c.node ∧ s.deck = d.val ∧ c.cells.length ≤ s.cells.length ∧ x.lastSeq ≠ some s.seq)

/-- A frame on a cell link (R1, R23). -/
def Part.sampleFrame (p : Part) (d : DeckId) (wire : List Byte) : Part :=
  match (p.deck d).cal, parseSample wire with
  | some c, some s =>
    if p.phase = .running ∧ c.damaged = false ∧ (p.deck d).accepts d c.entry s = true then
      let r := (p.trackSequence d c.entry s.seq).channelFrame d c s
      r.1.laneReact d r.2 (p.deck d).status
    else p
  | _, _ => p

/-- SAMPLE_FRAME. -/
def execSampleFrame (link : DeckId) (wire : List Byte) (s : State) : Host.Outcome State Fault Refusal :=
  s.run (·.sampleFrame link wire)

/-- R3. -/
def Part.sampleTimeout (p : Part) (d : DeckId) : Part :=
  let p1 := (p.modDeck d fun x => { x with sampleTimer := .expired, lastSeq := none }).windowRestart d
  ((p1.modDeck d Deck.endRun).raiseCause d .linkLoss).laneReact d false (p.deck d).status

/-- SAMPLE_TIMEOUT_EXPIRY. -/
def execSampleTimeoutExpiry (deck : DeckId) (s : State) : Host.Outcome State Fault Refusal :=
  s.run fun p => p.expire (p.deck deck).sampleTimer (·.sampleTimeout deck)

/-- R19: the run has lasted 2 s. -/
def Part.clearanceExpiry (p : Part) (d : DeckId) : Part :=
  let p1 := (p.clearAuto d).windowRestart d
  (p1.modDeck d Deck.endRun).laneReact d false (p.deck d).status

/-- CLEARANCE_TIMER_EXPIRY. -/
def execClearanceTimerExpiry (deck : DeckId) (s : State) : Host.Outcome State Fault Refusal :=
  s.run fun p => p.expire (p.deck deck).clearance (·.clearanceExpiry deck)

end Sys2Proof.Machine
end

