-- ==== Sys2Proof/Machine/Operands.lean ====
section
/-! DEFINITION. The operands of requests: the targets that exist (R139), and the admission of a request frame before any
block sees it (R182). -/

namespace Sys2Proof.Machine

/-- Lanes 0 and 1 exist. -/
def laneTarget (b : Byte) : Option LaneId := LaneId.ofCode b.toNat

/-- Decks 0 to 5 exist. -/
def deckTarget (b : Byte) : Option DeckId := DeckId.ofCode b.toNat

/-- Lane ends A and B exist. -/
def endTarget : Coded LaneEnd → Option LaneEnd
  | .known e => some e
  | .undefined _ => none

/-- Tables CLASS and SETTINGS exist, and their indices (R139). -/
def tableTarget : Coded TableId → Option TableId
  | .known t => some t
  | .undefined _ => none

def indexExists (t : TableId) (i : Nat) : Bool :=
  match t with
  | .classes => decide (i < 48)
  | .settings => decide (i < 3)

/-- The owning block of a request (R183); `target` is the lane or the deck that it names, for the requests that name one.
ZERO_SET belongs to the audit unit for a deck in AUDIT. -/
def Part.ownerOf (p : Part) (r : Req) (target : Byte) : Owner :=
  match r with
  | .status | .timeSet | .restart => .yardLink
  | .laneOpen | .laneClose | .admitVehicle | .release | .visitAbort => .laneController target
  | .consign | .cancelPending | .pendingRead => .pairingUnit
  | .ticketFetch | .ticketAck => .ticketUnit
  | .tableWrite | .tableRead | .tableCommit | .tableDiscard | .registerPut | .registerRemove | .registerGet => .tableStore
  | .auditOpen | .auditStep | .calWrite | .auditClose | .auditAbort | .trailFetch | .trailAck => .auditUnit
  | .zeroSet =>
    match deckTarget target with
    | none => .deckChannel target
    | some d => if (p.deck d).service = .audit then .auditUnit else .deckChannel target
  | .storeHold | .storeRelease | .holdRead => .recordMemory
  | .monitorSet => .deckChannels

/-- The rows of R182 for a request frame whose code names a request with arguments of its length: `owner` takes the
request once it has its outstanding entry (R183). A frame that arrives before startup begins is dropped (R181). -/
def Part.admitRequest (p : Part) (corr : U16) (r : Req) (owner : Part → Part) (target : Byte := 0) : Part :=
  if p.phase = .resetting then p.countDrop
  else if 16 ≤ p.link.responses.length then p.countDrop
  else if p.phase = .startup ∧ r ≠ .status then p.respondNow corr r.code .starting false
  else if p.link.restart.isSome ∧ r ≠ .status then p.respondNow corr r.code .busy false
  else if p.link.outstanding.any (fun o => decide (o.corr = corr)) then p.respondNow corr r.code .badValue true
  else if 8 ≤ p.link.outstanding.length then p.respondNow corr r.code .busy false
  else owner (p.modLink fun k => { k with outstanding := k.outstanding ++ [⟨corr, r, p.ownerOf r target⟩] })

/-- A request as a step. -/
def State.request (s : State) (corr : U16) (r : Req) (owner : Part → Part) (target : Byte := 0) :
    Host.Outcome State Fault Refusal :=
  s.run fun p => p.admitRequest corr r owner target

end Sys2Proof.Machine
end

