-- ==== Sys2Proof/Machine/Audit.lean ====
section
/-! DEFINITION. The audit unit's requests and timers (08), ZERO_SET and MONITOR_SET (01), and the stages of a
calibration write: AUDIT_OPEN, AUDIT_STEP, CAL_WRITE, ZERO_SET, AUDIT_CLOSE, AUDIT_ABORT, AUDIT_WAIT_EXPIRY,
STEP_TIMER_EXPIRY, MONITOR_SET. -/

namespace Sys2Proof.Machine

/-! ## Opening (R148, R149) -/

/-- A session is created PENDING (R149). -/
def Part.openPending (p : Part) (s : Session) : Part :=
  let t := p.start (60000 * p.site.auditWait)
  let p1 := p.modAudit fun a => { a with session := some s, waitTimer := t }
  (p1.modBlocks (laneOf s.deck) fun b => { b with auditPending := true }).notify (.auditPending s.deck s.reason)

/-- The last two rows of R148. -/
def Part.openSession (p : Part) (corr : U16) (s : Session) : Part :=
  if (p.visit (laneOf s.deck)).isSome then (p.openPending s).done corr .auditOpen (.sessionOpened false)
  else (p.activate s).done corr .auditOpen (.sessionOpened true)

/-- A session record at its creation (8.3). -/
def Session.new (d : DeckId) (reason : AuditReason) (time : SiteTime) : Session :=
  { deck := d, reason := reason, openTime := time, atOpen := none, writes := 0, steps := [], firstCounted := 1,
    inFlight := none }

/-- R148. The site entry is read where the session will wait (log 16). -/
def Part.auditOpen (p : Part) (corr : U16) (deck : Byte) (reason : Coded AuditReason) : Part :=
  match deckTarget deck, reason with
  | none, _ => p.refuse corr .auditOpen .badTarget
  | some _, .undefined _ => p.refuse corr .auditOpen .badValue
  | some d, .known r =>
    if p.audit.session.isSome then p.refuse corr .auditOpen .sessionActive
    else if p.store.fault then p.refuse corr .auditOpen .storeFault
    else if p.trailReserved then p.refuse corr .auditOpen .trailFull
    else
      let q := if (p.visit (laneOf d)).isSome then p.checkSite else p
      q.openSession corr (.new d r p.siteTime)

/-- AUDIT_OPEN. -/
def execAuditOpen (corr : U16) (deck : Byte) (reason : Coded AuditReason) (s : State) :
    Host.Outcome State Fault Refusal :=
  s.request corr .auditOpen (·.auditOpen corr deck reason)

/-- A PENDING session is removed (R149). -/
def Part.removePending (p : Part) (s : Session) : Part :=
  (p.modAudit fun a => { a with session := none, waitTimer := .stopped }).modBlocks (laneOf s.deck) fun b =>
    { b with auditPending := false }

/-- AUDIT_WAIT_EXPIRY (R149): the session lapses. -/
def execAuditWaitExpiry (s : State) : Host.Outcome State Fault Refusal :=
  s.run fun p => p.expire p.audit.waitTimer fun q =>
    match q.audit.session with
    | none => q
    | some x => (q.removePending x).notify (.auditLapsed x.deck x.reason)

/-! ## Steps (R151, R152) -/

/-- The session when it is ACTIVE. -/
def Part.active (p : Part) : Option Session := p.audit.session.bind fun s => if s.atOpen.isSome then some s else none

/-- A step is in flight or a calibration write is in progress. -/
def Part.auditBusy (p : Part) (s : Session) : Bool := s.inFlight.isSome || p.audit.calWrite.isSome

/-- R151: the kinds whose reference and cell are judged against the entry. -/
def kindReadsEntry : StepKind → Bool
  | .load | .corner => true
  | .zero | .returnZero => false

/-- The value row of R151. -/
def stepOk (c : Option CalEntry) (kind : StepKind) (reference : Int) (cell : Option Nat) : Bool :=
  match kind, c with
  | .zero, _ => decide (reference = 0)
  | .returnZero, _ => decide (reference = 0)
  | _, none => false
  | .load, some x => decide (1 ≤ reference ∧ reference ≤ x.capacity)
  | .corner, some x => decide (1 ≤ reference ∧ reference ≤ x.capacity) &&
      match cell with
      | none => false
      | some i => decide (i < x.cells.length)

/-- The step is appended and is in flight (R151). -/
def Part.startStep (p : Part) (s : Session) (kind : StepKind) (reference : Int) (cell : Option Nat) : Part :=
  let n := s.steps.length + 1
  let st : AuditStepRec :=
    { kind := kind, reference := reference, cell := if kind = .corner then cell else none, reading := none, result := none }
  let t := p.start 60000
  p.modAudit fun a =>
    { a with session := some { s with steps := s.steps ++ [st], inFlight := some n }, stepTimer := t }

/-- The rows of R151 for an ACTIVE session that is not busy, with a known kind. -/
def Part.takeStep (p : Part) (corr : U16) (s : Session) (kind : StepKind) (reference : Int) (cell : Option Nat) : Part :=
  let q := if kindReadsEntry kind then p.readEntry s.deck else p
  if stepOk (q.deck s.deck).entry kind reference cell = false then q.refuse corr .auditStep .badValue
  else if q.trailReserved then q.refuse corr .auditStep .trailFull
  else (q.startStep s kind reference cell).respond corr .auditStep (.accepted (.stepNumber (s.steps.length + 1)))

/-- R151. -/
def Part.auditStep (p : Part) (corr : U16) (kind : Coded StepKind) (reference : U32) (cell : Option Byte) : Part :=
  match p.active with
  | none => p.refuse corr .auditStep .noSession
  | some s =>
    if p.auditBusy s then p.refuse corr .auditStep .busy
    else if 24 ≤ s.steps.length then p.refuse corr .auditStep .stepsFull
    else
      match kind with
      | .undefined _ => p.refuse corr .auditStep .badValue
      | .known k => p.takeStep corr s k reference.toInt (cell.map (·.toNat))

/-- AUDIT_STEP. -/
def execAuditStep (corr : U16) (kind : Coded StepKind) (reference : U32) (cell : Option Byte) (s : State) :
    Host.Outcome State Fault Refusal :=
  s.request corr .auditStep (·.auditStep corr kind reference cell)

/-- STEP_TIMER_EXPIRY (R152). -/
def execStepTimerExpiry (s : State) : Host.Outcome State Fault Refusal :=
  s.run fun p => p.expire p.audit.stepTimer fun q => q.completeStep none

/-! ## Calibration writes (R153-R156) -/

/-- The calibration image as the deck's content stands (R146). -/
def Part.image (p : Part) (d : DeckId) : Option CalImage :=
  (p.deck d).cal.map fun c =>
    { deck := d, entry := c.entry, counter := (p.deck d).counter, persisted := (p.deck d).persisted,
      marker := (p.deck d).marker }

/-- The entry that a calibration change makes of the present one. -/
def CalChange.apply : CalChange → Option CalEntry → Option CalEntry
  | .entry e, _ => some e
  | .zero z, c => c.map fun x => { x with zcal := z }

/-- The image that a calibration write makes (R154): `writes` is the session's count in its marker. -/
def Part.newImage (p : Part) (d : DeckId) (ch : CalChange) (count writes : Nat) : Option CalImage :=
  (ch.apply ((p.deck d).cal.map (·.entry))).map fun e =>
    { deck := d, entry := e, counter := count, persisted := (p.deck d).persisted, marker := some writes }

/-- The trail and staging row of R153 and R156. -/
def Part.trailRefusal (p : Part) : Option Reason :=
  let t := p.audit.trail
  if t.free ≤ 32 ∨ 4294967295 < t.nextSeq then some .trailFull
  else if 16 ≤ t.staging.length ∨ (15 ≤ t.staging.length ∧ 0 < t.gap) then some .busy
  else none

/-- The largest change count (R147). -/
def counterLimit : Nat := 4294967295

/-- The rows of R153 and R156 after the value rows: why the write is refused, if it is. -/
def Part.writeRefusal (p : Part) : Option Reason :=
  match p.trailRefusal with
  | some r => some r
  | none => if p.store.fault then some .storeFault else if p.store.hold = .held then some .storeHeld else none

/-- The write is in progress: stage 1 of R154. -/
def Part.startCalWrite (p : Part) (w : CalWrite) (body : TrailBody) : Part :=
  (p.modAudit fun a => { a with calWrite := some w }).handTrail (some w.deck) body

/-- A CAL_WRITE is accepted (R154). The CRC-32 of the image of a deck that holds no entry is a free value (log 7). -/
def Part.acceptCalWrite (p : Part) (corr : U16) (s : Session) (e : CalEntry) : Part :=
  let q := p.readEntry s.deck
  let d := s.deck
  let n := (q.deck d).counter + 1
  let new := ((q.newImage d (.entry e) n (s.writes + 1)).map CalImage.crc).getD 0
  let w : CalWrite := { corr := corr, deck := d, change := .entry e, newCount := n, stage := .trail }
  match q.image d with
  | some i => q.startCalWrite w (.calChange i.crc new n)
  | none => ({ q with fresh := q.fresh + 1 } : Part).startCalWrite w (.calChange (Config.noImageCrc q.fresh).toNat new n)

/-- R153. -/
def Part.calWrite (p : Part) (corr : U16) (deck : Byte) (entry : List Byte) : Part :=
  match deckTarget deck with
  | none => p.refuse corr .calWrite .badTarget
  | some d =>
    match p.active with
    | none => p.refuse corr .calWrite .noSession
    | some s =>
      if s.deck ≠ d then p.refuse corr .calWrite .noSession
      else if p.auditBusy s then p.refuse corr .calWrite .busy
      else if p.calEn = false then p.refuse corr .calWrite .switchOpen
      else
        match parseCalEntry (entry.take 15) (entry.drop 15) with
        | none => p.refuse corr .calWrite .badValue
        | some e =>
          if counterLimit ≤ (p.deck d).counter then p.refuse corr .calWrite .wrongState
          else
            match p.writeRefusal with
            | some r => p.refuse corr .calWrite r
            | none => p.acceptCalWrite corr s e

/-- CAL_WRITE; the level of CAL_EN comes with the command (R29, log 4). -/
def execCalWrite (corr : U16) (deck : Byte) (entry : List Byte) (calEn : Bool) (s : State) :
    Host.Outcome State Fault Refusal :=
  s.run fun p => ({ p with calEn := calEn } : Part).admitRequest corr .calWrite (·.calWrite corr deck entry)

/-- The new Zcal of an audit zero set: the filtered value to the nearest kilogram (R156). -/
def newZcal (filtered : Int) : Int := roundHalfAway filtered 1000

/-- The rows of R156 that judge the new Zcal, with the entry that has been read. -/
def Part.judgeZcal (p : Part) (corr : U16) (d : DeckId) (c : CalEntry) (z : Int) : Part :=
  if c.capacity < z.natAbs then p.refuse corr .zeroSet .badValue
  else
    match p.writeRefusal with
    | some r => p.refuse corr .zeroSet r
    | none =>
      let n := (p.deck d).counter + 1
      p.startCalWrite { corr := corr, deck := d, change := .zero z, newCount := n, stage := .trail }
        (.zeroSet c.zcal z n)

/-- What ZERO_SET does with the deck's entry and its filtered value once it has read the entry; a deck whose entry is not
usable, or fails its check in this read, has no filtered value and is not STABLE (R4, R6, log 37). -/
def Part.withZero (p : Part) (corr : U16) (d : DeckId) (f : Part → CalEntry → Int → Part) : Part :=
  let q := p.readEntry d
  match (q.deck d).entry, (q.deck d).published with
  | some c, some w => f q c w.filtered
  | _, _ => q.refuse corr .zeroSet .wrongState

/-- The audit zero set (R156). -/
def Part.auditZeroSet (p : Part) (corr : U16) (d : DeckId) : Part :=
  match p.active with
  | none => p.refuse corr .zeroSet .wrongState
  | some s =>
    if p.auditBusy s then p.refuse corr .zeroSet .busy
    else if (p.deck d).status ≠ .stable then p.refuse corr .zeroSet .wrongState
    else if counterLimit ≤ (p.deck d).counter then p.refuse corr .zeroSet .wrongState
    else p.withZero corr d fun q c f => q.judgeZcal corr d c (newZcal f)

/-- The rows of R16 for a deck in TRADE. -/
def Part.tradeZeroSet (p : Part) (corr : U16) (d : DeckId) : Part :=
  if (p.visit (laneOf d)).isSome ∨ (p.deck d).status ≠ .stable then p.refuse corr .zeroSet .wrongState
  else
    p.withZero corr d fun q c f =>
      if c.inZeroRange f = false then q.refuse corr .zeroSet .badValue
      else (q.modDeck d fun x => { x with zd := some f }).done corr .zeroSet

/-- R16. -/
def Part.zeroSet (p : Part) (corr : U16) (deck : Byte) : Part :=
  match deckTarget deck with
  | none => p.refuse corr .zeroSet .badTarget
  | some d =>
    match (p.deck d).service with
    | .audit => p.auditZeroSet corr d
    | .trade => p.tradeZeroSet corr d
    | _ => p.refuse corr .zeroSet .wrongState

/-- ZERO_SET. -/
def execZeroSet (corr : U16) (deck : Byte) (s : State) : Host.Outcome State Fault Refusal :=
  s.request corr .zeroSet (·.zeroSet corr deck) deck

/-- The trail record of the calibration write in progress has been verified: stages 2 and 3 of R154 (R147). -/
def Part.advanceCalWrite (p : Part) (r : TrailRecord) : Part :=
  match p.audit.calWrite with
  | none => p
  | some w =>
    let isIts := match r.body with
      | .calChange _ _ n => decide (r.deck = some w.deck ∧ n = w.newCount)
      | .zeroSet _ _ n => decide (r.deck = some w.deck ∧ n = w.newCount)
      | _ => false
    if w.stage = .trail ∧ isIts = true then
      let writes := ((p.audit.session.map (·.writes)).getD 0) + 1
      let p1 := p.modDeck w.deck fun x => { x with counter := w.newCount, marker := some writes }
      let p2 := p1.modAudit fun a =>
        { a with calWrite := some { w with stage := .image }, session := a.session.map fun s => { s with writes := writes } }
      p2.queueTable (.calWrite w.deck)
    else p

/-- The counted steps begin after the last step in the list (R154). -/
def Session.recount (s : Session) : Session := { s with firstCounted := s.steps.length + 1 }

/-- The deck channel takes a new entry (R3, R4, R5, R20): the damaged mark clears; a deck that was not usable starts
afresh. -/
def Part.takeEntry (p : Part) (d : DeckId) (e : CalEntry) : Part :=
  let was := (p.deck d).usable
  let full := p.start e.timeout
  let p1 := p.modDeck d fun x =>
    if was then
      { x with cal := some ⟨e, true, false⟩
               sampleTimer := if x.sampleTimer.isRunning && decide ((x.cal.map (·.entry.timeout)) ≠ some e.timeout) then full
                 else x.sampleTimer }
    else
      { x with cal := some ⟨e, true, false⟩, sampleTimer := full, lastSeq := none
               remembered := List.replicate 8 .good, badCells := false, zd := some (1000 * e.zcal) }
  p1.windowRestart d

/-- Zcal takes the new audit zero, and Zd takes Zcal (R156). The entry has been read with its check (R142, log 37): one
found damaged stays so, and the deck then has no Zd. -/
def Deck.takeZcal (x : Deck) (z : Int) : Deck :=
  ({ x with cal := x.cal.map fun c => { c with entry := { c.entry with zcal := z } } } : Deck).zeroFromCal

/-- The image of the calibration write in progress has been verified (R154, R156). -/
def Part.completeCalWrite (p : Part) (crc : Nat) : Part :=
  match p.audit.calWrite with
  | none => p
  | some w =>
    let p1 := match w.change with
      | .entry e => p.takeEntry w.deck e
      | .zero z => (p.readEntry w.deck).modDeck w.deck fun x => x.takeZcal z
    let p2 := p1.modAudit fun a => { a with calWrite := none, session := a.session.map Session.recount }
    match w.change with
    | .entry _ => p2.done w.corr .calWrite (.calibrated w.newCount crc)
    | .zero _ => p2.done w.corr .zeroSet

/-- The request of a calibration write in progress. -/
def CalWrite.req (w : CalWrite) : Req :=
  match w.change with
  | .entry _ => .calWrite
  | .zero _ => .zeroSet

/-- A store fault ends a calibration write (R155): after its trail record it counts, and IMAGE_INVALID joins. -/
def Part.failCalWrite (p : Part) : Part :=
  match p.audit.calWrite with
  | none => p
  | some w =>
    let p1 := (p.modAudit fun a => { a with calWrite := none }).refuse w.corr w.req .storeFault
    match w.stage with
    | .trail => p1
    | .image =>
      let p2 := p1.modAudit fun a => { a with session := a.session.map Session.recount }
      (p2.modStore fun x => { x with tableQueue := x.tableQueue.erase (.calWrite w.deck) }).raiseCause w.deck .imageInvalid

/-! ## Close and abort (R157-R159) -/

/-- R157. -/
def Part.auditClose (p : Part) (corr : U16) : Part :=
  match p.audit.session with
  | none => p.refuse corr .auditClose .noSession
  | some s =>
    match s.atOpen with
    | none => p.refuse corr .auditClose .wrongState
    | some o =>
      if p.auditBusy s then p.refuse corr .auditClose .busy
      else
        let q := p.readEntry s.deck
        let v := judgeSteps s.firstCounted s.steps (q.deck s.deck).entry
        (q.endSession s o v false).done corr .auditClose (.verdict v)

/-- AUDIT_CLOSE. -/
def execAuditClose (corr : U16) (s : State) : Host.Outcome State Fault Refusal :=
  s.request corr .auditClose (·.auditClose corr)

/-- R159. -/
def Part.auditAbort (p : Part) (corr : U16) : Part :=
  match p.audit.session with
  | none => p.refuse corr .auditAbort .noSession
  | some s =>
    if p.audit.calWrite.isSome then p.refuse corr .auditAbort .busy
    else
      match s.atOpen with
      | none => (p.removePending s).done corr .auditAbort
      | some o =>
        let q := p.modAudit fun a => { a with session := some { s with inFlight := none }, stepTimer := .stopped }
        (q.endSession { s with inFlight := none } o .incomplete true).done corr .auditAbort

/-- AUDIT_ABORT. -/
def execAuditAbort (corr : U16) (s : State) : Host.Outcome State Fault Refusal :=
  s.request corr .auditAbort (·.auditAbort corr)

/-! ## Monitor (R21) -/

def Part.monitorSet (p : Part) (corr : U16) (selection : Option (Byte × Byte)) : Part :=
  match selection with
  | none => ({ p with monitor := { p.monitor with selection := none } } : Part).done corr .monitorSet
  | some (deck, n) =>
    match deckTarget deck with
    | none => p.refuse corr .monitorSet .badTarget
    | some d =>
      if n.toNat < 1 ∨ 50 < n.toNat then p.refuse corr .monitorSet .badValue
      else ({ p with monitor := ⟨some (d, n.toNat), 0⟩ } : Part).done corr .monitorSet

/-- MONITOR_SET. -/
def execMonitorSet (corr : U16) (selection : Option (Byte × Byte)) (s : State) : Host.Outcome State Fault Refusal :=
  s.request corr .monitorSet (·.monitorSet corr selection)

end Sys2Proof.Machine
end

