-- ==== Sys2Proof/Machine/Axles.lean ====
section
/-! DEFINITION. The treadles and the axle screens: TREADLE_EDGE, TREADLE_LATCH_TAKEN and WINDOW_EXPIRY (02 R24, 04). -/

namespace Sys2Proof.Machine

/-- An event that a pass decoder completes (R75); a pass has its T1 and T2 stamps. -/
inductive Decoded where
  | inward (t1 t2 : Nat)
  | outward (t1 t2 : Nat)
  | fault
  deriving DecidableEq, Repr

/-- The rows of R75 for an edge: the event it completes, if any, and the decoder afterwards. A hold taken now expires
`window` tenths after its stamp. -/
def Decoder.edge (x : Decoder) (line : Treadle) (stamp window : Nat) : Option Decoded × Decoder :=
  let hold := Decoder.hold line stamp (stamp + window)
  match x, line with
  | .idle, _ => (none, hold)
  | .hold .t1 h expiry, .t2 => if stamp ≤ expiry then (some (.inward h stamp), .idle) else (some .fault, hold)
  | .hold .t2 h expiry, .t1 => if stamp ≤ expiry then (some (.outward stamp h), .idle) else (some .fault, hold)
  | .hold .t1 _ _, .t1 => (some .fault, hold)
  | .hold .t2 _ _, .t2 => (some .fault, hold)

/-- Stamps' difference, the later less the earlier (R77, log 26). -/
def stampDiff (a b : Nat) : Nat := if a ≤ b then b - a else a - b

/-- R76: faults and overruns mark the data of a visit before capture. -/
def VisitState.beforeCapture : VisitState → Bool
  | .identify | .consignWait | .entering | .settling => true
  | .held | .exiting | .clearing => false

/-- The axle data invalid mark (R76). -/
def Part.markInvalid (p : Part) (l : LaneId) : Part :=
  match p.visitState l with
  | none => p
  | some st => if st.beforeCapture then p.modLane l fun x => { x with axleInvalid := true } else p

/-- The sum of the lane's net values, absent where a deck has none (R79). -/
def Part.rawTotalNow (p : Part) (l : LaneId) : Option Int :=
  let nets := l.decks.map fun d => (p.deck d).published.map (·.net)
  if nets.all (·.isSome) then some (nets.map (·.getD 0)).sum else none

/-- The spacing of an axle that is appended, and the withdrawn spacing stack afterwards (R80). -/
def appendSpacing (axles : List Axle) (withdrawn : List (Option Nat)) (treadles t2 passTime : Nat) :
    Option Nat × List (Option Nat) :=
  match axles.getLast?, withdrawn with
  | none, ws => (none, ws.drop 1)
  | some _, w :: ws => (w, ws)
  | some prev, [] => (passSpacing treadles t2 prev.t2 passTime, [])

/-- An inward pass at the entry end (R79, R81). -/
def Part.appendAxle (p : Part) (l : LaneId) (t1 t2 : Nat) : Part :=
  let s := p.settings l
  let passTime := stampDiff t1 t2
  let v := passSpeed s.spacing passTime
  let total := p.rawTotalNow l
  p.modLane l fun x =>
    if 16 ≤ x.axles.length then { x with overflow := min 255 (x.overflow + 1) }
    else
      let sp := appendSpacing x.axles x.withdrawn s.spacing t2 passTime
      let a : Axle :=
        { index := x.axles.length + 1, t1 := t1, t2 := t2, speed := v, offBand := offBand v s.speedMin s.speedMax,
          spacing := sp.1, total := total, step := none, scaled := none, group := none }
      { x with axles := x.axles ++ [a], withdrawn := sp.2 }

/-- A reversal: the lane afterwards, and whether it backed out (R82). -/
def Lane.reverse (x : Lane) : Lane × Bool :=
  if 0 < x.overflow then ({ x with overflow := x.overflow - 1 }, false)
  else
    match x.axles.getLast? with
    | some a => ({ x with axles := x.axles.dropLast, withdrawn := a.spacing :: x.withdrawn }, false)
    | none => (x, true)

/-- The quiet timer restarts (R59, R83). -/
def Part.restartQuiet (p : Part) (l : LaneId) : Part :=
  let t := p.start (1000 * (p.settings l).quietTime)
  p.modLane l fun x => { x with quietTimer := t }

/-- R83 after the lists are up to date: a visit in SETTLING returns to ENTERING (R60), one in ENTERING goes on. -/
def Part.entryPass (p : Part) (l : LaneId) : Part :=
  if p.visitState l = some .settling then p.enterEntering l else p.restartQuiet l

/-- The dispositions of R78 at the entry end in ENTERING and SETTLING. -/
def Part.disposeEntry (p : Part) (l : LaneId) (st : VisitState) (ev : Decoded) : Part :=
  match ev with
  | .inward t1 t2 => (p.appendAxle l t1 t2).entryPass l
  | .outward _ _ =>
    let r := (p.lane l).reverse
    let q := p.setLane l r.1
    if r.2 then q.abortVisit l .backedOut else q.entryPass l
  | .fault => if st = .entering then (p.markInvalid l).restartQuiet l else p.markInvalid l

/-- The exit axle count (R85). -/
def exitCount (n : Nat) : Decoded → Nat
  | .outward _ _ => min 255 (n + 1)
  | .inward _ _ => n - 1
  | .fault => n

/-- The disposition of a decoded event (R78). -/
def Part.dispose (p : Part) (l : LaneId) (e : LaneEnd) (ev : Decoded) : Part :=
  match p.visit l with
  | none => p
  | some v =>
    if e = v.entry then
      match v.state with
      | .identify => if ev = .fault then p.markInvalid l else p
      | .consignWait => if ev = .fault then p.markInvalid l else p
      | .entering => p.disposeEntry l .entering ev
      | .settling => p.disposeEntry l .settling ev
      | _ => p
    else if v.state.beforeCapture then
      let q := p.setVisit l { v with exitOverrun := true }
      if ev = .fault then q.markInvalid l else q
    else if v.state = .exiting then p.modLane l fun x => { x with exitAxles := exitCount x.exitAxles ev }
    else p

/-- The decoder of an end takes an edge (R75). The lane's settings are read when the edge is taken into hold, and for an
entry-end event in ENTERING or SETTLING (log 16); a parity failure found so faults the lane before the event is disposed
of (log 41). -/
def Part.decodeEdge (p : Part) (l : LaneId) (e : LaneEnd) (line : Treadle) (stamp : Nat) : Part :=
  let before := (p.laneEnd l e).decoder.edge line stamp 0
  let atEntry := decide ((p.visit l).map (·.entry) = some e) &&
    (decide (p.visitState l = some .entering) || decide (p.visitState l = some .settling))
  let p1 := if decide (before.2 ≠ .idle) || (before.1.isSome && atEntry) then p.checkLane l else p
  let r := (p1.laneEnd l e).decoder.edge line stamp (10 * (p1.settings l).window)
  let p2 := p1.modEnd l e fun x => { x with decoder := r.2 }
  match r.1 with
  | none => p2
  | some ev => p2.dispose l e ev

def EndState.latch (x : EndState) : Treadle → Option Nat
  | .t1 => x.latch1
  | .t2 => x.latch2

def EndState.setLatch (x : EndState) (v : Option Nat) : Treadle → EndState
  | .t1 => { x with latch1 := v }
  | .t2 => { x with latch2 := v }

/-- The axle screen takes a latch, which clears it (R24, R75). -/
def Part.takeLatch (p : Part) (l : LaneId) (e : LaneEnd) (line : Treadle) : Part :=
  match (p.laneEnd l e).latch line with
  | none => p
  | some stamp => (p.modEnd l e fun x => x.setLatch none line).decodeEdge l e line stamp

/-- An active edge: latched with its stamp, or a treadle overrun (R24, R76). -/
def Part.latchEdge (p : Part) (l : LaneId) (e : LaneEnd) (line : Treadle) : Part :=
  match (p.laneEnd l e).latch line with
  | none => p.modEnd l e fun x => x.setLatch (some p.now) line
  | some _ => p.markInvalid l

/-- TREADLE_EDGE: no edge is latched from the start of a reset to the end of startup (R34). -/
def execTreadleEdge (lane : LaneId) (atEnd : LaneEnd) (line : Treadle) (wait : Nat) (taken : Bool) (s : State) :
    Host.Outcome State Fault Refusal :=
  s.run fun p =>
    let q := p.elapse wait
    if q.phase ≠ .running then q
    else
      let r := q.latchEdge lane atEnd line
      if taken then r.takeLatch lane atEnd line else r

/-- TREADLE_LATCH_TAKEN. -/
def execTreadleLatchTaken (lane : LaneId) (atEnd : LaneEnd) (line : Treadle) (s : State) :
    Host.Outcome State Fault Refusal :=
  s.run (·.takeLatch lane atEnd line)

/-- The window expiry of a held edge (R75). -/
def Part.windowExpiry (p : Part) (l : LaneId) (e : LaneEnd) : Part :=
  match (p.laneEnd l e).decoder with
  | .idle => p
  | .hold _ _ expiry =>
    let p1 := p.reach expiry
    let atEntry := decide ((p1.visit l).map (·.entry) = some e ∧ p1.visitState l = some .entering)
    let p2 := if atEntry then p1.checkLane l else p1
    (p2.modEnd l e fun x => { x with decoder := .idle }).dispose l e .fault

/-- WINDOW_EXPIRY. -/
def execWindowExpiry (lane : LaneId) (atEnd : LaneEnd) (s : State) : Host.Outcome State Fault Refusal :=
  s.run (·.windowExpiry lane atEnd)

end Sys2Proof.Machine
end

