-- ==== Sys2Proof/Machine/LaneLines.lean ====
section
/-! DEFINITION. The other lane lines and the lanes' requests: BEAM_LEVEL_CHANGE, BEAM_DEBOUNCE_EXPIRY,
BARRIER_SWITCH_CHANGE, SUPERVISION_TIMER_EXPIRY and LANE_STOP_EDGE (02). From the start of a reset to the end of startup
only the level of a pin changes (R34). -/

namespace Sys2Proof.Machine

/-- The raw level of a beam changes: its debounce timer starts, or stops on a change back (R25). -/
def Part.beamChange (p : Part) (l : LaneId) (e : LaneEnd) (blocked : Bool) : Part :=
  let x := p.laneEnd l e
  if x.beamRaw = blocked then p
  else
    let q := p.modEnd l e fun y => { y with beamRaw := blocked }
    if p.phase ≠ .running then q
    else if blocked = x.beamLevel then q.modEnd l e fun y => { y with debounce := .stopped }
    else
      let r := q.checkLane l
      let t := r.start (r.settings l).debounce
      r.modEnd l e fun y => { y with debounce := t }

/-- BEAM_LEVEL_CHANGE. -/
def execBeamLevelChange (lane : LaneId) (atEnd : LaneEnd) (blocked : Bool) (s : State) :
    Host.Outcome State Fault Refusal :=
  s.run (·.beamChange lane atEnd blocked)

/-- What a beam event does to the lane's visit (R59, R61, R67). -/
def Part.beamEvent (p : Part) (l : LaneId) (e : LaneEnd) (blocked : Bool) : Part :=
  match p.visit l with
  | none => p
  | some v =>
    match v.state with
    | .entering => if blocked = false ∧ e = v.entry then p.tryEnterSettling l else p
    | .settling => (p.settleRestart l).settleTry l
    | .exiting => p.modLane l fun x => { x with
        clearTimer := if blocked then .stopped else if p.beamsClear l then p.start clearTime else x.clearTimer }
    | .clearing => p.modLane l fun x => { x with
        clearTimer := if blocked then .stopped else if p.beamsClear l then p.start clearTime else x.clearTimer }
    | _ => p

/-- The debounced level takes the raw level: a beam blocked event, which sets the blocked latch, or a beam cleared event
(R25, R26). -/
def Part.debounceExpiry (p : Part) (l : LaneId) (e : LaneEnd) : Part :=
  let b := (p.laneEnd l e).beamRaw
  (p.modEnd l e fun x => { x with debounce := .stopped, beamLevel := b, beamLatch := x.beamLatch || b }).beamEvent l e b

/-- BEAM_DEBOUNCE_EXPIRY. -/
def execBeamDebounceExpiry (lane : LaneId) (atEnd : LaneEnd) (s : State) : Host.Outcome State Fault Refusal :=
  s.run fun p => p.expire (p.laneEnd lane atEnd).debounce (·.debounceExpiry lane atEnd)

/-- The barrier `c`, whose switches have changed from those of `b`, reaches the position that its driven command calls
for, the command being the one that follows the wanted one with these switches (R32): a deferred lowering that reaches
DOWN is driven LOWER again (R30). -/
def Barrier.reaches (b c : Barrier) (wanted : BarrierCommand) (blocked : Bool) : Bool :=
  decide (c.position ≠ b.position) && c.at (c.follow wanted blocked)

/-- The switches of a barrier change: reaching the position of its driven command stops the supervision timer, leaving
it starts it (R31); reaching it clears a recorded failure (R32, log 21). -/
def Part.switchChange (p : Part) (l : LaneId) (e : LaneEnd) (up down : Bool) : Part :=
  let x := p.laneEnd l e
  let b := x.barrier
  let n : Barrier := { b with up := up, down := down }
  let c : Barrier := { n with failed := b.failed && !b.reaches n (p.wanted l e) x.beamLevel }
  if p.phase ≠ .running then p.modEnd l e fun x => { x with barrier := n }
  else if c.at b.driven then p.modEnd l e fun x => { x with barrier := { c with timer := .stopped } }
  else if b.at b.driven then
    let q := (p.modEnd l e fun x => { x with barrier := c }).checkLane l
    let t := q.moveLimit l
    q.modEnd l e fun x => { x with barrier := { x.barrier with timer := t } }
  else p.modEnd l e fun x => { x with barrier := c }

/-- BARRIER_SWITCH_CHANGE. -/
def execBarrierSwitchChange (lane : LaneId) (atEnd : LaneEnd) (up down : Bool) (s : State) :
    Host.Outcome State Fault Refusal :=
  s.run (·.switchChange lane atEnd up down)

/-- A failure is recorded for the barrier, and BARRIER is raised (R32). -/
def Part.supervisionExpiry (p : Part) (l : LaneId) (e : LaneEnd) : Part :=
  (p.modEnd l e fun x => { x with barrier := { x.barrier with timer := .stopped, failed := true } }).laneRaise l .barrier

/-- SUPERVISION_TIMER_EXPIRY. -/
def execSupervisionTimerExpiry (lane : LaneId) (atEnd : LaneEnd) (s : State) : Host.Outcome State Fault Refusal :=
  s.run fun p => p.expire (p.laneEnd lane atEnd).barrier.timer (·.supervisionExpiry lane atEnd)

/-- An edge of the stop input (R28, log 4): one into the stop level sets the latch and raises LANE_STOP. -/
def Part.stopEdge (p : Part) (l : LaneId) (active : Bool) : Part :=
  if (p.lane l).stopInput = active then p
  else
    let q := p.modLane l fun x => { x with stopInput := active }
    if active = true ∧ p.phase = .running then
      (q.modLane l fun x => { x with stopLatch := true }).laneRaise l .laneStop
    else q

/-- LANE_STOP_EDGE. -/
def execLaneStopEdge (lane : LaneId) (active : Bool) (s : State) : Host.Outcome State Fault Refusal :=
  s.run (·.stopEdge lane active)

end Sys2Proof.Machine
end

