-- ==== Sys2Proof/Machine/LaneRequests.lean ====
section
/-! DEFINITION. The requests to the lane controllers and to the pairing unit: LANE_OPEN, LANE_CLOSE, ADMIT, RELEASE,
VISIT_ABORT, CONSIGN, CANCEL_PENDING and PENDING_READ (02, 03, 05). -/

namespace Sys2Proof.Machine

/-- R38. -/
def Part.laneOpen (p : Part) (corr : U16) (lane : Byte) : Part :=
  match laneTarget lane with
  | none => p.refuse corr .laneOpen .badTarget
  | some l =>
    if (p.lane l).state ≠ .closed then p.refuse corr .laneOpen .wrongState
    else if p.clock.valid = false then p.refuse corr .laneOpen .timeInvalid
    else if (p.lane l).adoptedValid = false then p.refuse corr .laneOpen .tablesInvalid
    else if (l.decks.any fun d => decide ((p.deck d).service ≠ .trade)) then p.refuse corr .laneOpen .wrongState
    else (p.enterLaneState l .opened).done corr .laneOpen

/-- LANE_OPEN. -/
def execLaneOpen (corr : U16) (lane : Byte) (s : State) : Host.Outcome State Fault Refusal :=
  s.request corr .laneOpen (·.laneOpen corr lane) lane

/-- R39: the lane stop latch is cleared if the stop input is inactive (R28). -/
def Part.clearStop (p : Part) (l : LaneId) : Part :=
  if (p.lane l).stopLatch = true ∧ (p.lane l).stopInput = false then
    (p.modLane l fun x => { x with stopLatch := false }).laneClear l .laneStop
  else p

/-- R39, R44. -/
def Part.laneClose (p : Part) (corr : U16) (lane : Byte) : Part :=
  match laneTarget lane with
  | none => p.refuse corr .laneClose .badTarget
  | some l =>
    let q := p.clearStop l
    let r := match (p.lane l).state with
      | .closed => q
      | .fault => q
      | .opened =>
        if (q.visit l).isNone then q.enterLaneState l .closed
        else q.modBlocks l fun b => { b with closeRequested := true }
      | .audit => q.modBlocks l fun b => { b with closeRequested := true }
    r.done corr .laneClose

/-- LANE_CLOSE. -/
def execLaneClose (corr : U16) (lane : Byte) (s : State) : Host.Outcome State Fault Refusal :=
  s.request corr .laneClose (·.laneClose corr lane) lane

/-- The identity of an ADMIT: the first ACTIVE entry with the vehicle id, or the bare id (R52, R136). -/
def Part.identifyByName (p : Part) (l : LaneId) (v : VehicleId) : Part :=
  let r := Part.searchRegister (fun x => decide (x.status = .active ∧ x.vehicle = v)) p.tables.register p
  match r.2 with
  | some (i, x) => r.1.setIdentity l (.ofEntry i x)
  | none => r.1.setIdentity l ⟨v, none, [], none⟩

/-- The lane holds a visit in IDENTIFY whose entry end is the named end (R52). -/
def Part.identifiesAt (p : Part) (l : LaneId) (e : LaneEnd) : Bool :=
  match p.visit l with
  | none => false
  | some v => decide (v.state = .identify ∧ v.entry = e)

/-- Rows 3 to 6 of R52. -/
def Part.admitVisit (p : Part) (corr : U16) (l : LaneId) (e : LaneEnd) (v : VehicleId) : Part :=
  if p.identifiesAt l e then
    let n := ((p.visit l).map (·.count)).getD 0
    (p.identifyByName l v).done corr .admitVehicle (.admitted l n)
  else if (p.lane l).admits then
    let n := (p.lane l).nextVisit
    ((p.startVisit l e (.inr v)).identifyByName l v).done corr .admitVehicle (.admitted l n)
  else p.refuse corr .admitVehicle .wrongState

/-- R52. The lane's settings are read where an identity will be set (log 16). -/
def Part.admitVehicle (p : Part) (corr : U16) (lane : Byte) (atEnd : Coded LaneEnd) (vehicle : List Byte) : Part :=
  match laneTarget lane, endTarget atEnd with
  | some l, some e =>
    match parseVehicle vehicle with
    | none => p.refuse corr .admitVehicle .badValue
    | some v => (if p.identifiesAt l e || (p.lane l).admits then p.checkLane l else p).admitVisit corr l e v
  | _, _ => p.refuse corr .admitVehicle .badTarget

/-- ADMIT. -/
def execAdmit (corr : U16) (lane : Byte) (atEnd : Coded LaneEnd) (vehicle : List Byte) (s : State) :
    Host.Outcome State Fault Refusal :=
  s.request corr .admitVehicle (·.admitVehicle corr lane atEnd vehicle) lane

/-- R65. -/
def Part.release (p : Part) (corr : U16) (lane : Byte) : Part :=
  match laneTarget lane with
  | none => p.refuse corr .release .badTarget
  | some l =>
    match p.visit l with
    | none => p.refuse corr .release .wrongState
    | some v =>
      if v.state ≠ .held then p.refuse corr .release .wrongState
      else if v.kind = some .grossPreset ∧ p.stagingFull = true then p.refuse corr .release .storeBusy
      else ((p.setVisit l { v with heldReleased := true }).enterExiting l).done corr .release

/-- RELEASE. -/
def execRelease (corr : U16) (lane : Byte) (s : State) : Host.Outcome State Fault Refusal :=
  s.request corr .release (·.release corr lane) lane

/-- R70. -/
def Part.visitAbort (p : Part) (corr : U16) (lane : Byte) : Part :=
  match laneTarget lane with
  | none => p.refuse corr .visitAbort .badTarget
  | some l =>
    match p.visitState l with
    | none => p.refuse corr .visitAbort .wrongState
    | some .exiting => p.refuse corr .visitAbort .wrongState
    | some .clearing => p.refuse corr .visitAbort .wrongState
    | some _ => (p.abortVisit l .siteAbort).done corr .visitAbort

/-- VISIT_ABORT. -/
def execVisitAbort (corr : U16) (lane : Byte) (s : State) : Host.Outcome State Fault Refusal :=
  s.request corr .visitAbort (·.visitAbort corr lane) lane

/-- The lane of a visit for the vehicle that a test holds of. -/
def Part.laneWhere (p : Part) (v : VehicleId) (f : Visit → Bool) : Option LaneId :=
  [LaneId.l0, LaneId.l1].find? fun l =>
    match p.visit l with
    | none => false
    | some w => decide (w.vehicle = some v) && f w

/-- The lane whose visit waits in CONSIGN_WAIT for the vehicle (R57). -/
def Part.waitingLane (p : Part) (v : VehicleId) : Option LaneId :=
  p.laneWhere v fun w => decide (w.state = .consignWait)

/-- A visit for the vehicle holds a consignment, or the pending-tare list holds an entry for it (R57). -/
def Part.alreadyActive (p : Part) (v : VehicleId) : Bool :=
  (p.laneWhere v fun w => w.consignment.isSome).isSome || (p.pairing.find v).isSome

/-- Rows 4 to 7 of R57. -/
def Part.listConsignment (p : Part) (corr : U16) (v : VehicleId) (c : Consignment) : Part :=
  if p.alreadyActive v then p.refuse corr .consign .alreadyActive
  else if (p.pairing.findConsignment v).isSome then
    ((p.dropConsignment v).addConsignment v c).done corr .consign
  else if 16 ≤ p.pairing.consignments.length then p.refuse corr .consign .full
  else (p.addConsignment v c).done corr .consign

/-- R57. The lane's settings are read where a visit will enter ENTERING (log 16). -/
def Part.consign (p : Part) (corr : U16) (vehicle : List Byte) (c : Consignment) : Part :=
  match parseVehicle vehicle with
  | none => p.refuse corr .consign .badValue
  | some v =>
    if consignmentOk c = false then p.refuse corr .consign .badValue
    else if p.clock.valid = false then p.refuse corr .consign .timeInvalid
    else
      let q := match p.waitingLane v with
        | none => p
        | some l => p.checkLane l
      match q.waitingLane v with
      | none => q.listConsignment corr v c
      | some l =>
        match q.visit l with
        | none => q
        | some w => ((q.setVisit l { w with consignment := some c }).enterEntering l).done corr .consign

/-- CONSIGN. -/
def execConsign (corr : U16) (vehicle : List Byte) (consignment : Consignment) (s : State) :
    Host.Outcome State Fault Refusal :=
  s.request corr .consign (·.consign corr vehicle consignment)

/-- R106. -/
def Part.cancelPending (p : Part) (corr : U16) (vehicle : List Byte) : Part :=
  match parseVehicle vehicle with
  | none => p.refuse corr .cancelPending .badValue
  | some v =>
    match p.pairing.find v with
    | none => p.refuse corr .cancelPending .notFound
    | some (i, e) =>
      match e.state with
      | .opened g =>
        if p.store.fault then p.refuse corr .cancelPending .storeFault
        else if p.stagingFull then p.refuse corr .cancelPending .storeBusy
        else ((p.setSlot i none).issueTicket (e.soloTicket .cancelled g) none).done corr .cancelPending (.cancelled i)
      | _ => p.refuse corr .cancelPending .claimed

/-- CANCEL_PENDING. -/
def execCancelPending (corr : U16) (vehicle : List Byte) (s : State) : Host.Outcome State Fault Refusal :=
  s.request corr .cancelPending (·.cancelPending corr vehicle)

/-- R107. -/
def Part.pendingRead (p : Part) (corr : U16) (index : Byte) : Part :=
  let i := index.toNat
  if 63 < i then p.refuse corr .pendingRead .badTarget
  else p.done corr .pendingRead (.pending i (p.slot i) (p.slotDirty i) p.pairing.held)

/-- PENDING_READ. -/
def execPendingRead (corr : U16) (index : Byte) (s : State) : Host.Outcome State Fault Refusal :=
  s.request corr .pendingRead (·.pendingRead corr index)

end Sys2Proof.Machine
end

