-- ==== Sys2Proof/Machine/Tables.lean ====
section
/-! DEFINITION. The table store's requests (07): TABLE_WRITE, TABLE_READ, TABLE_COMMIT, TABLE_DISCARD, REGISTER_PUT,
REGISTER_REMOVE and REGISTER_GET; and the swap that a verified commit makes. -/

namespace Sys2Proof.Machine

/-- A commit of the table is in progress. -/
def Part.committing (p : Part) (t : TableId) : Bool := decide ((p.tables.commit.map (·.table)) = some t)

/-! ## Reads with their parity check (R129) -/

/-- The entry is good to read: not marked damaged, and its parity holds. -/
def Slot.good {α : Type} (s : Slot α) : Bool := !s.damaged && s.parityOk

/-- The entry's damaged mark after a read (R129). -/
def Slot.checked {α : Type} (s : Slot α) : Slot α := { s with damaged := s.damaged || !s.parityOk }

/-- Queues the PARITY notice of a read that found a failure: one for an entry that was not marked before (R129). -/
def Part.noteParity {α : Type} (p : Part) (s : Slot α) (what : ParityAt) : Part :=
  if !s.damaged && !s.parityOk then p.notify (.parity what) else p

/-- A read of a staged class entry. -/
def Part.readStagedClass (p : Part) (i : Nat) : Part :=
  match p.tables.classStaged[i]? with
  | none => p
  | some s =>
    (p.modTables fun t => { t with classStaged := t.classStaged.setIfInBounds i s.checked }).noteParity s
      (.classEntry .staged i)

/-- The DUPLICATE row of R127 reads every other entry of the staged class image, in index order (log 28). -/
def Part.readOtherClasses (p : Part) (i : Nat) : Part :=
  ((List.range 48).filter fun j => decide (j ≠ i)).foldl Part.readStagedClass p

/-- Another valid entry of the staged image, not damaged, carries the class id (R127). -/
def TableStore.holdsClass (t : TableStore) (id i : Nat) : Bool :=
  t.classStaged.toList.zipIdx.any fun s => decide (s.2 ≠ i ∧ s.1.damaged = false ∧ (s.1.val.map (·.id)) = some id)

/-! ## TABLE_WRITE (R130) -/

/-- Replaces a staged settings entry, by index. -/
def SettingsImage.writeLane (x : SettingsImage) (l : LaneId) (e : LaneEntry) : SettingsImage :=
  { x with lanes := x.lanes.set l (.fresh e) }

/-- The staged class entry is replaced. -/
def Part.putClass (p : Part) (corr : U16) (i : Nat) (c : Option ClassEntry) : Part :=
  (p.modTables fun t => { t with classStaged := t.classStaged.setIfInBounds i (.fresh c) }).done corr .tableWrite

/-- TABLE_WRITE of a CLASS entry (R127, R130): a cleared entry is taken whatever the others hold. -/
def Part.writeClass (p : Part) (corr : U16) (i : Nat) (entry : List Byte) : Part :=
  match parseClassEntry entry with
  | none => p.refuse corr .tableWrite .badValue
  | some none => p.putClass corr i none
  | some (some k) =>
    let q := p.readOtherClasses i
    if q.tables.holdsClass k.id i then q.refuse corr .tableWrite .duplicate else q.putClass corr i (some k)

/-- TABLE_WRITE of a SETTINGS entry (R128, R130). -/
def Part.writeSettings (p : Part) (corr : U16) (i : Nat) (entry : List Byte) : Part :=
  let put := fun (f : SettingsImage → SettingsImage) =>
    (p.modTables fun t => { t with settingsStaged := f t.settingsStaged }).done corr .tableWrite
  match LaneId.ofCode i with
  | some l =>
    match parseLaneEntry entry with
    | none => p.refuse corr .tableWrite .badValue
    | some e => put fun x => x.writeLane l e
  | none =>
    match parseSiteEntry entry with
    | none => p.refuse corr .tableWrite .badValue
    | some e => put fun x => { x with site := .fresh e }

/-- R130, TABLE_WRITE. -/
def Part.tableWrite (p : Part) (corr : U16) (table : Coded TableId) (index : Byte) (entry : List Byte) : Part :=
  match tableTarget table with
  | none => p.refuse corr .tableWrite .badTarget
  | some t =>
    if indexExists t index.toNat = false then p.refuse corr .tableWrite .badTarget
    else if p.committing t then p.refuse corr .tableWrite .busy
    else
      match t with
      | .classes => p.writeClass corr index.toNat entry
      | .settings => p.writeSettings corr index.toNat entry

/-- TABLE_WRITE. -/
def execTableWrite (corr : U16) (table : Coded TableId) (index : Byte) (entry : List Byte) (s : State) :
    Host.Outcome State Fault Refusal :=
  s.request corr .tableWrite (·.tableWrite corr table index entry)

/-! ## TABLE_READ (R130) -/

/-- A read of a staged settings entry of a lane. -/
def Part.readStagedLane (p : Part) (l : LaneId) : Part :=
  let s := p.tables.settingsStaged.lanes.get l
  (p.modTables fun t => { t with settingsStaged :=
    { t.settingsStaged with lanes := t.settingsStaged.lanes.set l s.checked } }).noteParity s
      (.settingsEntry .staged l.toNat)

/-- A read of the staged site entry. -/
def Part.readStagedSite (p : Part) : Part :=
  let s := p.tables.settingsStaged.site
  (p.modTables fun t => { t with settingsStaged := { t.settingsStaged with site := s.checked } }).noteParity s
    (.settingsEntry .staged 2)

/-- What TABLE_READ answers for an entry. -/
def Slot.content {α : Type} (s : Slot α) (f : α → TableContent) : TableContent := if s.good then f s.val else .damaged

/-- R130, TABLE_READ. -/
def Part.tableRead (p : Part) (corr : U16) (table : Coded TableId) (index : Byte) : Part :=
  let i := index.toNat
  match tableTarget table with
  | none => p.refuse corr .tableRead .badTarget
  | some t =>
    if indexExists t i = false then p.refuse corr .tableRead .badTarget
    else
      match t, LaneId.ofCode i with
      | .classes, _ =>
        match p.tables.classStaged[i]? with
        | none => p.refuse corr .tableRead .badTarget
        | some s => (p.readStagedClass i).done corr .tableRead (.table (s.content .classEntry))
      | .settings, some l =>
        (p.readStagedLane l).done corr .tableRead
          (.table ((p.tables.settingsStaged.lanes.get l).content .laneEntry))
      | .settings, none =>
        p.readStagedSite.done corr .tableRead (.table (p.tables.settingsStaged.site.content .siteEntry))

/-- TABLE_READ. -/
def execTableRead (corr : U16) (table : Coded TableId) (index : Byte) (s : State) : Host.Outcome State Fault Refusal :=
  s.request corr .tableRead (·.tableRead corr table index)

/-! ## TABLE_DISCARD (R130) -/

/-- A read of an active class entry. -/
def Part.readActiveClass (p : Part) (i : Nat) : Part :=
  match p.tables.classActive[i]? with
  | none => p
  | some s =>
    (p.modTables fun t => { t with classActive := t.classActive.setIfInBounds i s.checked }).noteParity s
      (.classEntry .active i)

/-- A read of an active lane entry: a failure raises SETTINGS_PARITY where the lane has adopted the image (R138). -/
def Part.readActiveLane (p : Part) (l : LaneId) : Part :=
  let s := p.tables.settingsActive.lanes.get l
  let q := (p.modTables fun t => { t with settingsActive :=
    { t.settingsActive with lanes := t.settingsActive.lanes.set l s.checked } }).noteParity s
      (.settingsEntry .active l.toNat)
  if (!s.damaged && !s.parityOk) && (p.lane l).adoptedActive then q.laneRaise l .settingsParity else q

/-- A read of the active site entry: a failure raises SETTINGS_PARITY on both lanes where it is in force (R138). -/
def Part.readActiveSite (p : Part) : Part :=
  let s := p.tables.settingsActive.site
  let q := (p.modTables fun t => { t with settingsActive := { t.settingsActive with site := s.checked } }).noteParity s
    (.settingsEntry .active 2)
  if (!s.damaged && !s.parityOk) && p.tables.settingsPrevious.isNone then
    (q.laneRaise .l0 .settingsParity).laneRaise .l1 .settingsParity
  else q

/-- An active entry copied into the staged image: fresh, or the default of its kind in place of a damaged one. -/
def Slot.copy {α : Type} (s : Slot α) (dflt : α) : Slot α := .fresh (if s.good then s.val else dflt)

def Part.discardClasses (p : Part) (corr : U16) : Part :=
  let q := (List.range 48).foldl Part.readActiveClass p
  let r := q.modTables fun t => { t with classStaged := t.classActive.map fun s => s.copy none }
  r.done corr .tableDiscard (.discarded (q.tables.classActive.toList.countP fun s => !s.good))

def Part.discardSettings (p : Part) (corr : U16) : Part :=
  let a := p.tables.settingsActive
  let staged : SettingsImage :=
    { lanes := ⟨a.lanes.l0.copy .default_, a.lanes.l1.copy .default_⟩, site := a.site.copy .default_, crc := a.crc }
  let n := [a.lanes.l0.good, a.lanes.l1.good, a.site.good].countP (fun b => !b)
  let q := ((p.readActiveLane .l0).readActiveLane .l1).readActiveSite
  (q.modTables fun t => { t with settingsStaged := staged }).done corr .tableDiscard (.discarded n)

/-- R130, TABLE_DISCARD. -/
def Part.tableDiscard (p : Part) (corr : U16) (table : Coded TableId) : Part :=
  match tableTarget table with
  | none => p.refuse corr .tableDiscard .badTarget
  | some t =>
    if p.committing t then p.refuse corr .tableDiscard .busy
    else
      match t with
      | .classes => p.discardClasses corr
      | .settings => p.discardSettings corr

/-- TABLE_DISCARD. -/
def execTableDiscard (corr : U16) (table : Coded TableId) (s : State) : Host.Outcome State Fault Refusal :=
  s.request corr .tableDiscard (·.tableDiscard corr table)

/-! ## TABLE_COMMIT (R131) and the swap (R132, R133) -/

/-- Reads every entry of a staged image, in index order (R131, log 31). -/
def Part.readStaged (p : Part) (t : TableId) : Part :=
  match t with
  | .classes => (List.range 48).foldl Part.readStagedClass p
  | .settings => ((p.readStagedLane .l0).readStagedLane .l1).readStagedSite

/-- The staged image matches the CRC-32 and holds no damaged entry (R131). -/
def TableStore.stagedMatches (s : TableStore) (t : TableId) (crc : Nat) : Bool :=
  match t with
  | .classes =>
    (s.classStaged.toList.all fun x => x.good) && classImageCrc (s.classStaged.toList.map (·.val)) == crc
  | .settings =>
    s.settingsStaged.lanes.l0.good && s.settingsStaged.lanes.l1.good && s.settingsStaged.site.good &&
      crc32 s.settingsStaged.bytes == crc

/-- The first record operation of a commit (R132). -/
def firstCommitOp : TableId → TableOp
  | .classes => .classRecord 0
  | .settings => .settingsImage

/-- R131. -/
def Part.tableCommit (p : Part) (corr : U16) (table : Coded TableId) (crc : U32) : Part :=
  match tableTarget table with
  | none => p.refuse corr .tableCommit .badTarget
  | some t =>
    if p.store.fault then p.refuse corr .tableCommit .storeFault
    else if p.store.hold = .held then p.refuse corr .tableCommit .storeHeld
    else if p.tables.commit.isSome then p.refuse corr .tableCommit .busy
    else if t = .settings ∧ p.tables.settingsPrevious.isSome = true then p.refuse corr .tableCommit .commitPending
    else
      let q := p.readStaged t
      if q.tables.stagedMatches t crc.toNat then
        (q.modTables fun x => { x with commit := some ⟨t, corr, crc.toNat⟩ }).queueTable (firstCommitOp t)
      else q.refuse corr .tableCommit .crcMismatch

/-- TABLE_COMMIT. -/
def execTableCommit (corr : U16) (table : Coded TableId) (crc : U32) (s : State) : Host.Outcome State Fault Refusal :=
  s.request corr .tableCommit (·.tableCommit corr table crc)

/-- A lane that holds no visit adopts at the swap (R133, R134). -/
def Part.adoptIdle (p : Part) (l : LaneId) : Part := if (p.visit l).isNone then p.adopt l else p

/-- The swap of a completed settings commit (R133); lane 0 before lane 1 (log 23). -/
def Part.swapSettings (p : Part) (crc : Nat) : Part :=
  let s := p.tables.settingsStaged
  let new : SettingsImage := { lanes := ⟨.fresh s.lanes.l0.val, .fresh s.lanes.l1.val⟩, site := .fresh s.site.val, crc := crc }
  let q := p.modTables fun t => { t with settingsPrevious := some t.settingsActive, settingsActive := new }
  let r := (q.modLane .l0 fun x => { x with adoptedActive := false }).modLane .l1 fun x => { x with adoptedActive := false }
  (r.adoptIdle .l0).adoptIdle .l1

/-- The swap of a completed class commit (R133). -/
def Part.swapClasses (p : Part) (crc : Nat) : Part :=
  p.modTables fun t => { t with classActive := t.classStaged.map fun s => .fresh s.val, classCrc := crc }

/-- The last record of a commit has been verified (R132). -/
def Part.completeCommit (p : Part) : Part :=
  match p.tables.commit with
  | none => p
  | some c =>
    let old := match c.table with
      | .classes => p.tables.classCrc
      | .settings => p.tables.settingsActive.crc
    let p1 := (p.modTables fun t => { t with commit := none }).handTrail none (.tableCommit c.table c.crc old)
    let p2 := match c.table with
      | .classes => p1.swapClasses c.crc
      | .settings => p1.swapSettings c.crc
    p2.done c.corr .tableCommit (.committed c.crc)

/-! ## The register (R137) -/

/-- The slot of the register at an index; an unlisted slot is empty with right parity. -/
def TableStore.regSlot (t : TableStore) (i : Nat) : Slot (Option RegEntry) :=
  ((t.register.find? fun x => x.1 = i).map (·.2)).getD (.fresh none)

/-- The register with a slot written afresh, its list in index order and without plainly empty slots. -/
def writeRegister (r : List (Nat × Slot (Option RegEntry))) (i : Nat) (e : Option RegEntry) :
    List (Nat × Slot (Option RegEntry)) :=
  r.filter (fun x => decide (x.1 < i)) ++ (if e.isSome then [(i, .fresh e)] else []) ++
    r.filter (fun x => decide (i < x.1))

/-- A read of a register slot with its parity check (R129). -/
def Part.readRegister (p : Part) (i : Nat) : Part :=
  let s := p.tables.regSlot i
  let mark := fun (x : Nat × Slot (Option RegEntry)) => if x.1 = i then (i, x.2.checked) else x
  (p.modTables fun t => { t with register := t.register.map mark }).noteParity s (.registerSlot i)

/-- The DUPLICATE row of R137 reads every slot at another index, in index order (log 28). An unlisted slot is empty, with
right parity. -/
def Part.readOtherSlots (p : Part) (i : Nat) : Part :=
  let others := p.tables.register.filter fun x => decide (x.1 ≠ i)
  (others.foldl (fun q x => q.noteParity x.2 (.registerSlot x.1)) p).modTables fun t =>
    { t with register := t.register.map fun x => if x.1 = i then x else (x.1, x.2.checked) }

/-- An occupied slot at another index, not damaged, holds the tag id (R137). -/
def TableStore.holdsTag (t : TableStore) (tag : TagId) (i : Nat) : Bool :=
  t.register.any fun x => decide (x.1 ≠ i ∧ x.2.damaged = false ∧ (x.2.val.map (·.tag)) = some tag)

/-- The change is in progress: its record is ready for the table image writer (R137, R168). -/
def Part.startRegChange (p : Part) (c : RegChange) : Part :=
  (p.modTables fun t => { t with regChange := some c }).queueTable .registerRecord

/-- R137, REGISTER_PUT. -/
def Part.registerPut (p : Part) (corr : U16) (index : U16) (entry : List Byte) : Part :=
  let i := index.toNat
  if 1023 < i then p.refuse corr .registerPut .badTarget
  else
    match parseRegEntry entry with
    | none => p.refuse corr .registerPut .badValue
    | some none => p.refuse corr .registerPut .badValue
    | some (some r) =>
      if p.store.fault then p.refuse corr .registerPut .storeFault
      else if p.store.hold = .held then p.refuse corr .registerPut .storeHeld
      else if p.tables.regChange.isSome then p.refuse corr .registerPut .busy
      else
        let q := p.readOtherSlots i
        if q.tables.holdsTag r.tag i then q.refuse corr .registerPut .duplicate
        else q.startRegChange ⟨corr, true, i, some r⟩

/-- REGISTER_PUT. -/
def execRegisterPut (corr : U16) (index : U16) (entry : List Byte) (s : State) : Host.Outcome State Fault Refusal :=
  s.request corr .registerPut (·.registerPut corr index entry)

/-- R137, REGISTER_REMOVE: whether the slot is empty and not damaged is read from it, with its parity check. -/
def Part.registerRemove (p : Part) (corr : U16) (index : U16) : Part :=
  let i := index.toNat
  if 1023 < i then p.refuse corr .registerRemove .badTarget
  else if p.store.fault then p.refuse corr .registerRemove .storeFault
  else if p.store.hold = .held then p.refuse corr .registerRemove .storeHeld
  else if p.tables.regChange.isSome then p.refuse corr .registerRemove .busy
  else
    let q := p.readRegister i
    let s := q.tables.regSlot i
    if s.val.isNone ∧ s.damaged = false then q.refuse corr .registerRemove .notFound
    else q.startRegChange ⟨corr, false, i, none⟩

/-- REGISTER_REMOVE. -/
def execRegisterRemove (corr : U16) (index : U16) (s : State) : Host.Outcome State Fault Refusal :=
  s.request corr .registerRemove (·.registerRemove corr index)

/-- A register change completes at its verified write (R137). -/
def Part.completeRegChange (p : Part) : Part :=
  match p.tables.regChange with
  | none => p
  | some c =>
    let q := p.modTables fun t => { t with register := writeRegister t.register c.index c.entry, regChange := none }
    q.done c.corr (if c.put then .registerPut else .registerRemove)

/-- What REGISTER_GET answers for a slot. -/
def regContent (s : Slot (Option RegEntry)) : RegContent :=
  if s.good then
    match s.val with
    | none => .empty
    | some r => .entry r
  else .damaged

/-- R137, REGISTER_GET. -/
def Part.registerGet (p : Part) (corr : U16) (index : U16) : Part :=
  let i := index.toNat
  if 1023 < i then p.refuse corr .registerGet .badTarget
  else (p.readRegister i).done corr .registerGet (.register (regContent (p.tables.regSlot i)))

/-- REGISTER_GET. -/
def execRegisterGet (corr : U16) (index : U16) (s : State) : Host.Outcome State Fault Refusal :=
  s.request corr .registerGet (·.registerGet corr index)

end Sys2Proof.Machine
end

