-- ==== Sys2Proof/Machine/Store.lean ====
section
/-! DEFINITION. The record memory controller (09) with the ticket writer (06), the trail writer (08 8.7), the mirror
writer (05 5.5) and readout: PORT_GRANT, the ends of record operations, RECORD_WRITE_FAILED, the store hold, and the
requests TICKET_FETCH, TICKET_ACK, TRAIL_FETCH, TRAIL_ACK, STORE_HOLD, STORE_RELEASE and HOLD_READ. -/

namespace Sys2Proof.Machine

/-- The highest serial and the highest trail sequence (R119, R162). -/
def serialLimit : Nat := 4294967295

/-- Tickets written and not acknowledged (R117). -/
def TicketUnit.unread (t : TicketUnit) : Nat := t.nextSerial - t.oldestUnread

/-! ## Where an operation goes (R166) -/

/-- The claimant of a write, none for a read. -/
def OpKind.claimant : OpKind → Option Claimant
  | .trailRecord => some .trailWriter
  | .trailMark => some .trailWriter
  | .ticketRecord => some .ticketWriter
  | .ticketMark => some .ticketWriter
  | .mirror _ => some .mirrorWriter
  | .table _ => some .tableWriter
  | .ticketFetch _ => none
  | .trailFetch _ => none
  | .holdRead _ _ => none

/-- The region and the slot of a table image write. -/
def Part.tablePlace (p : Part) : TableOp → Region × SlotKind × Nat
  | .classRecord i => (.classes, .classRecord, i)
  | .settingsImage => (.settings, .settings, 0)
  | .registerRecord => (.register, .register, (p.tables.regChange.map (·.index)).getD 0)
  | .image d => (.calibration, .calibration, d.val)
  | .calWrite d => (.calibration, .calibration, d.val)

/-- The region and the slot of a record operation; the read marks are slots 0 and 1 of the control region. A hold read
has none. -/
def Part.place (p : Part) : OpKind → Region × SlotKind × Nat
  | .trailRecord => (.trail, .trail, ringSlot .trail p.audit.trail.nextSeq)
  | .trailMark => (.control, .trailMark, 1)
  | .ticketRecord => (.tickets, .ticket, ringSlot .ticket p.tickets.nextSerial)
  | .ticketMark => (.control, .ticketMark, 0)
  | .mirror i => (.mirror, .mirror, i)
  | .table o => p.tablePlace o
  | .ticketFetch _ => (.tickets, .ticket, ringSlot .ticket p.tickets.oldestUnread)
  | .trailFetch _ => (.trail, .trail, ringSlot .trail p.audit.trail.oldest)
  | .holdRead _ _ => (.control, .ticketMark, 0)

/-- The address of a record operation (R166). -/
def Part.opAddress (p : Part) (k : OpKind) : Nat := (p.place k).2.1.address (p.place k).2.2

/-- Begins a record operation on the port. -/
def Part.beginOp (p : Part) (k : OpKind) (bytes : List Byte) : Part :=
  let o : Op := { kind := k, address := p.opAddress k, bytes := bytes }
  p.modStore fun x => { x with op := some o }

/-- The operation in progress has ended. -/
def Part.freePort (p : Part) : Part := p.modStore fun x => { x with op := none }

/-! ## The records as their writers form them at the grant (R116, R162, R108, R132, R137, R146) -/

def Part.trailRecordBytes (p : Part) : List Byte :=
  match p.audit.trail.staging with
  | [] => []
  | r :: _ => trailBytes p.audit.trail.nextSeq r

/-- The bytes of the staging head. An exit axle count handed over after the grant enters the staged record alone (R114,
log 42). -/
def Part.ticketRecordBytes (p : Part) : List Byte :=
  match p.tickets.staging with
  | [] => []
  | t :: _ => ticketBytes p.tickets.nextSerial t.ticket

/-- The record of a class commit (R132): the staged entry with the CRC-32 of the image. -/
def Part.classRecord (p : Part) (i : Nat) : List Byte :=
  classRecordBytes i (p.tables.classStaged[i]?.bind (·.val)) ((p.tables.commit.map (·.crc)).getD 0)

def Part.settingsRecord (p : Part) : List Byte :=
  settingsRecordBytes p.tables.settingsStaged ((p.tables.commit.map (·.crc)).getD 0)

def Part.registerRecord (p : Part) : List Byte :=
  match p.tables.regChange with
  | none => []
  | some c => regRecordBytes c.index c.entry

/-- The image that the calibration write in progress makes of a deck (R154, R156). -/
def Part.writeImage (p : Part) (d : DeckId) : Option CalImage :=
  p.audit.calWrite.bind fun w => p.newImage d w.change w.newCount ((p.deck d).marker.getD 0)

def Part.tableBytes (p : Part) : TableOp → List Byte
  | .classRecord i => p.classRecord i
  | .settingsImage => p.settingsRecord
  | .registerRecord => p.registerRecord
  | .image d => ((p.image d).map CalImage.bytes).getD []
  | .calWrite d => ((p.writeImage d).map CalImage.bytes).getD []

/-! ## The port arbiter (R168) -/

/-- A trail write that is ready (R162). -/
def Part.trailClaim (p : Part) : Option OpKind :=
  let t := p.audit.trail
  if t.markWaiting then some .trailMark
  else if t.staging ≠ [] ∧ t.nextSeq ≤ serialLimit then some .trailRecord else none

/-- A ticket write that is ready (R116, R119). -/
def Part.ticketClaim (p : Part) : Option OpKind :=
  let t := p.tickets
  if t.markWaiting then some .ticketMark
  else if t.staging ≠ [] ∧ t.unread < 2048 ∧ t.nextSerial ≤ serialLimit then some .ticketRecord else none

/-- The mirror write that is ready (R108). -/
def Part.mirrorClaim (p : Part) : Option OpKind := p.pairing.dirty.head?.map OpKind.mirror

/-- The oldest table image operation that may be served: a deck's mark is not while a calibration write is in progress
there (R146). -/
def Part.tableClaim (p : Part) : Option OpKind :=
  let mayServe := fun (o : TableOp) =>
    match o with
    | .image d => decide ((p.audit.calWrite.map (·.deck)) ≠ some d)
    | _ => true
  (p.store.tableQueue.find? mayServe).map OpKind.table

/-- The oldest fetch that waits. -/
def Part.readoutClaim (p : Part) : Option OpKind :=
  p.store.readout.head?.map fun r =>
    match r with
    | .ticket corr => .ticketFetch corr
    | .trail corr => .trailFetch corr

/-- The waiting claimant that stands highest; in store fault readout alone (R168). -/
def Part.topClaim (p : Part) : Option OpKind :=
  if p.store.fault then p.readoutClaim
  else p.trailClaim <|> p.ticketClaim <|> p.mirrorClaim <|> p.tableClaim <|> p.readoutClaim

/-- Forms the record of a ready mirror write and removes its index from the dirty queue (R108). -/
def Part.grantMirror (p : Part) (i : Nat) : Part :=
  (p.modPairing fun x => { x with dirty := x.dirty.erase i }).beginOp (.mirror i) (mirrorBytes i (p.slot i))

/-- The reads, with their parity check, of the staged entries that a record of a commit carries (R129, R132). The other
records carry no entry of the class or settings table, and none that the register holds: a register change writes its new
entry (R137). -/
def Part.readForRecord (p : Part) : TableOp → Part
  | .classRecord i => p.readStagedClass i
  | .settingsImage => p.readStaged .settings
  | .registerRecord => p
  | .image _ => p
  | .calWrite _ => p

/-- Forms the record of a table image operation, which leaves its queue; the image of a calibration write clears the
deck's mark as well (R146). The staged entries of a commit's record are read with their parity check; what an entry found
failing or marked damaged puts into its record is log 24. -/
def Part.grantTable (p : Part) (o : TableOp) : Part :=
  let q := (p.readForRecord o).modStore fun x => { x with tableQueue :=
    match o with
    | .calWrite d => (x.tableQueue.erase o).erase (.image d)
    | _ => x.tableQueue.erase o }
  q.beginOp (.table o) (p.tableBytes o)

/-- A fetch leaves readout; with nothing left to fetch it is answered NOT_FOUND without a read (R121, R163). -/
def Part.grantFetch (p : Part) (k : OpKind) (corr : U16) (r : Req) (waiting : Nat) : Part :=
  let q := p.modStore fun x => { x with readout := x.readout.tail }
  if waiting = 0 then q.refuse corr r .notFound else q.beginOp k []

/-- The claimant is granted its record operation. -/
def Part.grantClaim (p : Part) (k : OpKind) : Part :=
  match k with
  | .trailRecord => p.beginOp k p.trailRecordBytes
  | .trailMark => p.beginOp k (markBytes .trailMark (p.audit.trail.oldest + 1))
  | .ticketRecord => p.beginOp k p.ticketRecordBytes
  | .ticketMark => p.beginOp k (markBytes .ticketMark (p.tickets.oldestUnread + 1))
  | .mirror i => p.grantMirror i
  | .table o => p.grantTable o
  | .ticketFetch corr => p.grantFetch k corr .ticketFetch p.tickets.unread
  | .trailFetch corr => p.grantFetch k corr .trailFetch p.audit.trail.unacknowledged
  | .holdRead _ _ => p

/-- The port is free, startup has finished, and no hold is requested or in force. -/
def Part.portOpen (p : Part) : Bool :=
  decide (p.phase = .running) && p.store.op.isNone && decide (p.store.hold = .none)

/-- The arbiter grants the highest waiting claimant (R168). -/
def Part.grant (p : Part) : Part :=
  if p.portOpen then
    match p.topClaim with
    | none => p
    | some k => p.grantClaim k
  else p

/-- PORT_GRANT. -/
def execPortGrant (s : State) : Host.Outcome State Fault Refusal := s.run Part.grant

/-! ## The store hold (R171-R174) -/

/-- A requested hold is granted when the port is free (R171). -/
def Part.grantHold (p : Part) : Part :=
  match p.store.hold, p.store.op with
  | .requested corr, none =>
    let q := p.checkSite
    let t := q.start (1000 * q.site.holdLimit)
    let q1 := q.modStore fun x => { x with hold := .held, ending := .no, holdTimer := t, holdReadCount := 0 }
    (q1.done corr .storeHold).notify (.holdGranted q.site.holdLimit)
  | _, _ => p

/-- STORE_HOLD_GRANT: the grant at the end of the operation that was in progress (R171). -/
def execStoreHoldGrant (s : State) : Host.Outcome State Fault Refusal := s.run Part.grantHold

/-- R171: the hold is granted at once if the port is free. -/
def Part.storeHold (p : Part) (corr : U16) : Part :=
  match p.store.hold with
  | .none => (p.modStore fun x => { x with hold := .requested corr }).grantHold
  | .requested _ => p.refuse corr .storeHold .wrongState
  | .held => p.refuse corr .storeHold .wrongState

/-- STORE_HOLD. -/
def execStoreHold (corr : U16) (s : State) : Host.Outcome State Fault Refusal := s.request corr .storeHold (·.storeHold corr)

/-- The first of the hold's reads begins when the port is free and the hold is not ending (R173). -/
def Part.beginRead (p : Part) : Part :=
  match p.store.holdReads with
  | [] => p
  | r :: rs =>
    if p.store.op.isNone ∧ p.store.ending = .no then
      let o : Op := { kind := .holdRead r.corr r.length, address := r.address, bytes := [] }
      p.modStore fun x => { x with holdReads := rs, op := some o }
    else p

/-- A hold is in force and is not ending. -/
def Part.holdOpen (p : Part) : Bool := decide (p.store.hold = .held ∧ p.store.ending = .no)

/-- R173. -/
def Part.holdRead (p : Part) (corr : U16) (address : U32) (length : U16) : Part :=
  let a := address.toNat
  let n := length.toNat
  if memSize ≤ a then p.refuse corr .holdRead .badTarget
  else if n = 0 ∨ 256 < n ∨ memSize < a + n then p.refuse corr .holdRead .badValue
  else if p.holdOpen = false then p.refuse corr .holdRead .noHold
  else (p.modStore fun x => { x with holdReads := x.holdReads ++ [⟨corr, a, n⟩] }).beginRead

/-- HOLD_READ. -/
def execHoldRead (corr : U16) (address : U32) (length : U16) (s : State) : Host.Outcome State Fault Refusal :=
  s.request corr .holdRead (·.holdRead corr address length)

/-- Reads taken and not begun are refused NO_HOLD (R174). -/
def Part.refuseReads (p : Part) : Part :=
  let q := p.store.holdReads.foldl (fun q r => q.refuse r.corr .holdRead .noHold) p
  q.modStore fun x => { x with holdReads := [] }

/-- The end of the hold (R172): the arbiter grants the waiting claimants in the same step. -/
def Part.endHold (p : Part) : Part :=
  (p.modStore fun x => { x with hold := .none, ending := .no, holdTimer := .stopped }).grant

/-- The end that waited for the read being performed, or did not have to wait (R174). -/
def Part.settleHold (p : Part) : Part :=
  match p.store.ending with
  | .no => p.beginRead
  | .released corrs => (corrs.foldl (fun q c => q.done c .storeRelease) p).endHold
  | .lapsed => (p.notify (.holdLapsed p.store.holdReadCount)).endHold

/-- The hold is to end: at once, or when the read being performed has been answered (R174). The reads not begun are refused
in the step of the release or the expiry, before that answer (log 11). -/
def Part.beginEnding (p : Part) (e : HoldEnding) : Part :=
  let q := (p.modStore fun x => { x with ending := e, holdTimer := .stopped }).refuseReads
  if q.store.op.isNone then q.settleHold else q

/-- R174, STORE_RELEASE. -/
def Part.storeRelease (p : Part) (corr : U16) : Part :=
  match p.store.hold, p.store.ending with
  | .held, .no => p.beginEnding (.released [corr])
  | .held, .released cs => p.modStore fun x => { x with ending := .released (cs ++ [corr]) }
  | _, _ => p.refuse corr .storeRelease .noHold

/-- STORE_RELEASE. -/
def execStoreRelease (corr : U16) (s : State) : Host.Outcome State Fault Refusal :=
  s.request corr .storeRelease (·.storeRelease corr)

/-- HOLD_TIMER_EXPIRY (R174): the hold lapses. -/
def execHoldTimerExpiry (s : State) : Host.Outcome State Fault Refusal :=
  s.run fun p => p.expire p.store.holdTimer fun q => q.beginEnding .lapsed

/-! ## Fetches and acknowledgements (R121-R123, R163, R164) -/

/-- R121, when the request is taken. -/
def Part.ticketFetch (p : Part) (corr : U16) : Part :=
  if p.tickets.unread = 0 then p.refuse corr .ticketFetch .notFound
  else p.modStore fun x => { x with readout := x.readout ++ [.ticket corr] }

/-- TICKET_FETCH. -/
def execTicketFetch (corr : U16) (s : State) : Host.Outcome State Fault Refusal :=
  s.request corr .ticketFetch (·.ticketFetch corr)

/-- R163, when the request is taken. -/
def Part.trailFetch (p : Part) (corr : U16) : Part :=
  if p.audit.trail.unacknowledged = 0 then p.refuse corr .trailFetch .notFound
  else p.modStore fun x => { x with readout := x.readout ++ [.trail corr] }

/-- TRAIL_FETCH. -/
def execTrailFetch (corr : U16) (s : State) : Host.Outcome State Fault Refusal :=
  s.request corr .trailFetch (·.trailFetch corr)

/-- R123, when the request is taken. -/
def Part.ticketAck (p : Part) (corr : U16) (serial : U32) : Part :=
  if p.store.fault then p.refuse corr .ticketAck .storeFault
  else if p.tickets.ack.isSome then p.refuse corr .ticketAck .busy
  else if p.tickets.unread = 0 ∨ serial.toNat ≠ p.tickets.oldestUnread then p.refuse corr .ticketAck .outOfOrder
  else p.modTickets fun t => { t with ack := some corr, markWaiting := true }

/-- TICKET_ACK. -/
def execTicketAck (corr : U16) (serial : U32) (s : State) : Host.Outcome State Fault Refusal :=
  s.request corr .ticketAck (·.ticketAck corr serial)

/-- R164, when the request is taken. -/
def Part.trailAck (p : Part) (corr : U16) (sequence : U32) : Part :=
  let t := p.audit.trail
  if p.store.fault then p.refuse corr .trailAck .storeFault
  else if t.ack.isSome then p.refuse corr .trailAck .busy
  else if t.unacknowledged = 0 ∨ sequence.toNat ≠ t.oldest then p.refuse corr .trailAck .outOfOrder
  else p.modTrail fun t => { t with ack := some corr, markWaiting := true }

/-- TRAIL_ACK. -/
def execTrailAck (corr : U16) (sequence : U32) (s : State) : Host.Outcome State Fault Refusal :=
  s.request corr .trailAck (·.trailAck corr sequence)

/-! ## The ends of record operations (R169) -/

/-- A verified write ends: the bytes stand in the slot, the port is free, and the owner takes its effect. `owns` gives
the effect for the operations whose end this is; at any other moment the event cannot come (log 1). -/
def State.written (s : State) (owns : OpKind → Option (Part → Part)) : Host.Outcome State Fault Refusal :=
  match s.store.op with
  | none => s.run id
  | some o =>
    match owns o.kind with
    | none => s.run id
    | some f => .next { (s.act fun p => (f p.freePort).finish) with mem := memWrite s.mem o.address o.bytes }

/-- A read ends: its owner takes the memory as it stands. -/
def State.readDone (s : State) (owns : Op → Option (List Host.Cell → Part → Part)) : Host.Outcome State Fault Refusal :=
  match s.store.op with
  | none => s.run id
  | some o =>
    match owns o with
    | none => s.run id
    | some f => s.run fun p => f s.mem p.freePort

/-- R162: the head leaves the queue and the sequence advances; a calibration write that waits on it goes on. -/
def Part.trailWritten (p : Part) : Part :=
  match p.audit.trail.staging with
  | [] => p
  | r :: rest => (p.modTrail fun t => { t with staging := rest, nextSeq := t.nextSeq + 1 }).advanceCalWrite r

/-- TRAIL_RECORD_WRITTEN. -/
def execTrailRecordWritten (s : State) : Host.Outcome State Fault Refusal :=
  s.written fun k =>
    match k with
    | .trailRecord => some Part.trailWritten
    | _ => none

/-- R164: the position advances, which may clear TRAIL_FULL, and the acknowledgement is answered. -/
def Part.trailMarkWritten (p : Part) : Part :=
  let t := p.audit.trail
  let t' : Trail := { t with oldest := t.oldest + 1, ack := none, markWaiting := false }
  let q := p.modTrail fun _ => t'
  let q1 := if t.free = 0 ∧ t'.free ≠ 0 then q.bothBlocks fun b => { b with trailFull := false } else q
  match t.ack with
  | none => q1
  | some corr => q1.done corr .trailAck (.trailAck t'.oldest t'.unacknowledged)

/-- TRAIL_READ_MARK_WRITTEN. -/
def execTrailReadMarkWritten (s : State) : Host.Outcome State Fault Refusal :=
  s.written fun k =>
    match k with
    | .trailMark => some Part.trailMarkWritten
    | _ => none

/-- A lane whose visit waits for a staging place (R64). -/
def Part.storeWaits (p : Part) (l : LaneId) : Bool := (p.visit l).any (·.storeWait)

/-- The report of a freed staging place to both lanes (R64, R115). Which of two waiting lanes is taken first is open
(log 8). -/
def Part.placeFreed (p : Part) : Part :=
  if p.storeWaits .l0 && p.storeWaits .l1 then
    let q : Part := { p with fresh := p.fresh + 1 }
    if Config.laneOneFirst p.fresh then (q.storeRetry .l1).storeRetry .l0 else (q.storeRetry .l0).storeRetry .l1
  else (p.storeRetry .l0).storeRetry .l1

/-- The unread count at which STORE_NEAR_FULL is reported (R120). -/
def nearFull : Nat := 2032

/-- R117. -/
def Part.ticketWritten (p : Part) : Part :=
  match p.tickets.staging with
  | [] => p
  | t :: rest =>
    let serial := p.tickets.nextSerial
    let p1 := p.modTickets fun x => { x with staging := rest, nextSerial := serial + 1 }
    let p2 := if 8 ≤ p.tickets.staging.length then p1.bothBlocks fun b => { b with storeBusy := false } else p1
    let p3 := p2.placeFreed
    let p4 := if p1.tickets.unread = nearFull then p3.bothBlocks fun b => { b with storeNearFull := true } else p3
    p4.notify (.ticketStored serial t.ticket.kind t.ticket.vehicle p1.tickets.unread)

/-- TICKET_WRITTEN. -/
def execTicketWritten (s : State) : Host.Outcome State Fault Refusal :=
  s.written fun k =>
    match k with
    | .ticketRecord => some Part.ticketWritten
    | _ => none

/-- R123, at the verified mark. -/
def Part.ticketMarkWritten (p : Part) : Part :=
  let q := p.modTickets fun t => { t with oldestUnread := t.oldestUnread + 1, ack := none, markWaiting := false }
  let n := q.tickets.unread
  let q1 := if n + 1 = nearFull then q.bothBlocks fun b => { b with storeNearFull := false } else q
  match p.tickets.ack with
  | none => q1
  | some corr => q1.done corr .ticketAck (.ticketAck q.tickets.oldestUnread n)

/-- TICKET_READ_MARK_WRITTEN. -/
def execTicketReadMarkWritten (s : State) : Host.Outcome State Fault Refusal :=
  s.written fun k =>
    match k with
    | .ticketMark => some Part.ticketMarkWritten
    | _ => none

/-- MIRROR_RECORD_WRITTEN (R108). -/
def execMirrorRecordWritten (s : State) : Host.Outcome State Fault Refusal :=
  s.written fun k =>
    match k with
    | .mirror _ => some id
    | _ => none

/-- R132, R168: the next class record becomes ready, or the commit completes with the last. -/
def Part.classWritten (i : Nat) (p : Part) : Part :=
  if i < 47 then p.queueTable (.classRecord (i + 1)) else p.completeCommit

/-- CLASS_RECORD_WRITTEN. -/
def execClassRecordWritten (s : State) : Host.Outcome State Fault Refusal :=
  s.written fun k =>
    match k with
    | .table (.classRecord i) => some (Part.classWritten i)
    | _ => none

/-- SETTINGS_IMAGE_WRITTEN (R132). -/
def execSettingsImageWritten (s : State) : Host.Outcome State Fault Refusal :=
  s.written fun k =>
    match k with
    | .table .settingsImage => some Part.completeCommit
    | _ => none

/-- REGISTER_RECORD_WRITTEN (R137). -/
def execRegisterRecordWritten (s : State) : Host.Outcome State Fault Refusal :=
  s.written fun k =>
    match k with
    | .table .registerRecord => some Part.completeRegChange
    | _ => none

/-- A calibration image is verified; the one of a calibration write completes it (R146, R154, R156). The CRC-32 is the
one in the bytes written. -/
def Part.imageWritten (o : TableOp) (bytes : List Byte) (p : Part) : Part :=
  match o with
  | .calWrite _ => p.completeCalWrite (field bytes 506 4)
  | _ => p

/-- CALIBRATION_IMAGE_WRITTEN. -/
def execCalibrationImageWritten (s : State) : Host.Outcome State Fault Refusal :=
  let bytes := (s.store.op.map (·.bytes)).getD []
  s.written fun k =>
    match k with
    | .table (.image d) => some (Part.imageWritten (.image d) bytes)
    | .table (.calWrite d) => some (Part.imageWritten (.calWrite d) bytes)
    | _ => none

/-- The record of the oldest unread serial, none where its slot is damaged (R122, R194). -/
def ticketAt (m : List Host.Cell) (serial : Nat) : Option Ticket := do
  let bs ← readSlot m .ticket (ringSlot .ticket serial)
  let x ← readTicket bs
  if x.1 = serial then some x.2 else none

/-- R121: the fetch is answered from the slot read. -/
def Part.answerTicket (corr : U16) (m : List Host.Cell) (p : Part) : Part :=
  let n := p.tickets.oldestUnread
  p.done corr .ticketFetch (.ticket n (ticketAt m n) p.tickets.unread n)

/-- TICKET_FETCH_READ. -/
def execTicketFetchRead (s : State) : Host.Outcome State Fault Refusal :=
  s.readDone fun o =>
    match o.kind with
    | .ticketFetch corr => some (Part.answerTicket corr)
    | _ => none

/-- The record of the oldest unacknowledged sequence, none where its slot is damaged (R163, R194). -/
def trailAt (m : List Host.Cell) (sequence : Nat) : Option TrailRecord := do
  let bs ← readSlot m .trail (ringSlot .trail sequence)
  let x ← readTrail bs
  if x.1 = sequence then some x.2 else none

/-- R163: the fetch is answered from the slot read. -/
def Part.answerTrail (corr : U16) (m : List Host.Cell) (p : Part) : Part :=
  let n := p.audit.trail.oldest
  p.done corr .trailFetch (.trail n (trailAt m n) p.audit.trail.unacknowledged n)

/-- TRAIL_FETCH_READ. -/
def execTrailFetchRead (s : State) : Host.Outcome State Fault Refusal :=
  s.readDone fun o =>
    match o.kind with
    | .trailFetch corr => some (Part.answerTrail corr)
    | _ => none

/-- R173, R174: the bytes are answered as they stand, and the next read begins or the hold ends. -/
def Part.answerRead (corr : U16) (address length : Nat) (m : List Host.Cell) (p : Part) : Part :=
  let q := p.done corr .holdRead (.bytes (memBytes m address length))
  (q.modStore fun x => { x with holdReadCount := x.holdReadCount + 1 }).settleHold

/-- HOLD_READ_DONE. -/
def execHoldReadDone (s : State) : Host.Outcome State Fault Refusal :=
  s.readDone fun o =>
    match o.kind with
    | .holdRead corr length => some (Part.answerRead corr o.address length)
    | _ => none

/-! ## Store fault (R170) -/

/-- The acknowledgements in progress end REFUSED STORE_FAULT (R123, R164). -/
def Part.failAcks (p : Part) : Part :=
  let p1 := match p.tickets.ack with
    | none => p
    | some corr => (p.modTickets fun t => { t with ack := none, markWaiting := false }).refuse corr .ticketAck .storeFault
  match p1.audit.trail.ack with
  | none => p1
  | some corr => (p1.modTrail fun t => { t with ack := none, markWaiting := false }).refuse corr .trailAck .storeFault

/-- The commit and the register change in progress end REFUSED STORE_FAULT, and their operations leave the table image
writer (R135, R137). -/
def Part.failTables (p : Part) : Part :=
  let keep := fun (o : TableOp) =>
    match o with
    | .image _ => true
    | .calWrite _ => true
    | _ => false
  let p1 := p.modStore fun x => { x with tableQueue := x.tableQueue.filter keep }
  let p2 := match p1.tables.commit with
    | none => p1
    | some c => (p1.modTables fun t => { t with commit := none }).refuse c.corr .tableCommit .storeFault
  match p2.tables.regChange with
  | none => p2
  | some c =>
    (p2.modTables fun t => { t with regChange := none }).refuse c.corr
      (if c.put then .registerPut else .registerRemove) .storeFault

/-- The work of the failed write itself stays: the slot stays dirty, the image write mark stays set (R109, R170). Its grant
took the slot from the dirty queue, and the mark from the table image writer's; the slot goes back to the head of its queue,
and the mark is set as one set in this step, at the end of its own (log 50). -/
def Part.keepFailed (p : Part) : OpKind → Part
  | .mirror i =>
    if i ∈ p.pairing.dirty then p else p.modPairing fun x => { x with dirty := i :: x.dirty }
  | .table (.image d) => p.markImage d
  | _ => p

/-- The record memory enters store fault at a failed write (R170). The work in progress ends in the order of R170's table,
and so stand the responses of its requests (log 48). -/
def Part.enterStoreFault (p : Part) (k : OpKind) (c : Claimant) : Part :=
  let at_ := p.place k
  let p1 := (p.modStore fun x => { x with fault := true }).keepFailed k
  let p2 := (p1.failAcks.failTables).failCalWrite
  let p3 := p2.bothBlocks fun b => { b with storeFault := true }
  p3.notify (.storeState at_.1 at_.2.2 c)

/-- What stands in a slot whose write failed its retry, or was cut off (log 6). -/
def slotBytes (fresh n : Nat) : List Byte := (List.range n).map (Config.slotByte fresh)

/-- RECORD_WRITE_FAILED (R169, R170). -/
def execRecordWriteFailed (s : State) : Host.Outcome State Fault Refusal :=
  match s.store.op with
  | none => s.run id
  | some o =>
    match o.kind.claimant with
    | none => s.run id
    | some c =>
      let effect := fun (p : Part) =>
        (({ p with fresh := p.fresh + 1 } : Part).freePort.enterStoreFault o.kind c).finish
      .next { s.act effect with mem := memWrite s.mem o.address (slotBytes s.fresh o.bytes.length) }

end Sys2Proof.Machine
end

