-- ==== Sys2Proof/Machine/Startup.lean ====
section
/-! DEFINITION. Resets and startup (09 9.6, 9.7; 05 5.6; 07 7.8): POWER_ON, LINE_RESET, LINE_RESET_RELEASE and
STARTUP. -/

namespace Sys2Proof.Machine

/-! ## Resets (R175, R180, R192) -/

/-- A lane end from the start of a reset, with the levels of its pins (log 4). -/
def EndState.clear (x : EndState) : EndState := .afterReset x.beamRaw x.barrier.up x.barrier.down

/-- A lane from the start of a reset, with the levels of its pins (log 4). -/
def Lane.clear (x : Lane) : Lane := .afterReset x.stopInput ⟨x.ends.a.clear, x.ends.b.clear⟩

/-- The site clock through a reset that keeps it; the running count starts again (R189, R192). -/
def Clock.restart (c : Clock) : Clock := { c with running := 0, boundaryDue := false }

/-- The site clock and the running count at a power-on (R189). -/
def Clock.lost : Clock := { running := 0, sec := 0, ms := 0, valid := false, boundaryDue := false }

/-- Every block takes its reset values; the pins keep their levels (R175). -/
def Part.clear (p : Part) (phase : Phase) (cause : ResetCause) (clock : Clock) : Part :=
  { Part.reset with
    phase := phase, cause := cause, clock := clock, calEn := p.calEn, fresh := p.fresh + 1
    lanes := ⟨p.lanes.l0.clear, p.lanes.l1.clear⟩ }

/-- The bytes that a write cut off by a reset leaves in its slot (R167, R175, log 6): free bytes that do not make a
valid record. -/
def tornBytes (k : SlotKind) (fresh n : Nat) : List Byte :=
  let bs := slotBytes fresh n
  if slotValid k bs then 0 :: bs.tail else bs

/-- The memory after a record operation was cut off: a write leaves its slot as it was or torn, never whole (R117, R123,
R167, R175, log 6). -/
def State.cutMemory (s : State) : List Host.Cell :=
  match s.store.op with
  | none => s.mem
  | some o =>
    if o.kind.claimant.isNone then s.mem
    else
      match Config.cutOff s.fresh with
      | 0 => s.mem
      | _ => memWrite s.mem o.address (tornBytes (s.place o.kind).2.1 s.fresh o.bytes.length)

/-- A reset begins. -/
def State.resetTo (s : State) (phase : Phase) (cause : ResetCause) (clock : Clock) :
    Host.Outcome State Fault Refusal :=
  .next { (s.act fun p => (p.clear phase cause clock).finish) with mem := s.cutMemory }

/-- POWER_ON: the clock is lost and startup begins (log 30). -/
def execPowerOn (s : State) : Host.Outcome State Fault Refusal := s.resetTo .startup .power .lost

/-- LINE_RESET: the line is asserted. -/
def execLineReset (s : State) : Host.Outcome State Fault Refusal := s.resetTo .resetting .line s.clock.restart

/-- LINE_RESET_RELEASE: startup begins, and the running count starts at 0. -/
def execLineResetRelease (s : State) : Host.Outcome State Fault Refusal :=
  s.run fun p => if p.phase = .resetting then { p with phase := .startup, clock := p.clock.restart } else p

/-! ## The scans of the ticket store and of the audit trail (R177, R124) -/

/-- The records of the region's valid slots that stand in the slot of their number. -/
def scanSlots {α : Type} (m : List Host.Cell) (k : SlotKind) (read : List Byte → Option (Nat × α)) : List (Nat × α) :=
  (List.range k.slots).filterMap fun i =>
    ((readSlot m k i).bind read).bind fun x => if ringSlot k x.1 = i then some x else none

/-- The number that the slot of number `n` carries, none where the slot is invalid. -/
def slotNumber (found : List Nat) (k : SlotKind) (n : Nat) : Option Nat := found.find? fun x => ringSlot k x = ringSlot k n

/-- The run back from the highest number (R177): `low` is the lowest number that has joined, `n` the next expected. -/
def runBack (at_ : Nat → Option Nat) : Nat → Nat → Nat → Nat
  | 0, _, low => low
  | fuel + 1, n, low =>
    if n = 0 then low
    else
      match at_ n with
      | none => runBack at_ fuel (n - 1) low
      | some x => if x = n then runBack at_ fuel (n - 1) n else low

/-- The next number and the oldest one not acknowledged, from the numbers found and the read mark (R124, R177). -/
def positions (found : List Nat) (k : SlotKind) (mark : Option Nat) : Nat × Nat :=
  let high := found.foldl max 0
  if high = 0 then (1, 1)
  else
    let low := runBack (slotNumber found k) (k.slots - 1) (high - 1) high
    match mark with
    | none => (high + 1, low)
    | some x => if low ≤ x ∧ x ≤ high + 1 then (high + 1, x) else (high + 1, low)

/-- The serial or sequence that a read mark carries, none where the mark is invalid. -/
def storedMark (m : List Host.Cell) (k : SlotKind) : Option Nat := (readSlot m k 0).map readMark

/-- The change counts that a trail record carries for its deck (R176 stage 2). -/
def TrailRecord.changeCount (r : TrailRecord) : Option Nat :=
  match r.body with
  | .calChange _ _ n => some n
  | .zeroSet _ _ n => some n
  | .auditClose _ _ _ _ _ a n _ => some (max a n)
  | _ => none

/-- The highest change count that the trail carries for a deck, or absent (R178). -/
def highestCount (rs : List TrailRecord) (d : DeckId) : Option Nat :=
  ((rs.filter fun r => decide (r.deck = some d)).filterMap TrailRecord.changeCount).max?

/-! ## The pending-tare list (R110) -/

/-- Steps 1 to 3 of R110 for one slot: what it holds, and whether its content was changed. -/
def settleMirror : Option (Option PendingEntry) → Option PendingEntry × Bool
  | none => (none, true)
  | some none => (none, false)
  | some (some e) =>
    match e.state with
    | .reserved => (none, true)
    | .opened _ => (some e, false)
    | .claimed g _ => (some { e with state := .opened g }, true)

/-- Step 4 of R110: another slot holds an entry for the vehicle with a higher creation number, or with the same one at
a lower index (log 35). -/
def superseded (slots : List (Option PendingEntry)) (i : Nat) (e : PendingEntry) : Bool :=
  slots.zipIdx.any fun s =>
    match s.1 with
    | none => false
    | some f => decide (s.2 ≠ i ∧ f.vehicle = e.vehicle ∧
        (e.creation < f.creation ∨ (e.creation = f.creation ∧ s.2 < i)))

/-- Step 5 of R110: a written ticket carries the entry's vehicle id, gross lane and gross time. -/
def consumed (tickets : List Ticket) (e : PendingEntry) : Bool :=
  match e.state.side with
  | none => false
  | some g => tickets.any fun t => decide (t.vehicle = e.vehicle ∧ t.side.lane = g.lane ∧ t.side.time = g.time)

/-- Empties the slots whose entry `drop` takes; the slots emptied are changed. -/
def dropSlots (drop : Nat → PendingEntry → Bool) (slots : List (Option PendingEntry × Bool)) :
    List (Option PendingEntry × Bool) :=
  slots.zipIdx.map fun s =>
    match s.1.1 with
    | none => s.1
    | some e => if drop s.2 e then (none, true) else s.1

/-- The restored list: each slot's content, and whether restoration changed it (R110, steps 1 to 5). -/
def restoredSlots (m : List Host.Cell) (tickets : List Ticket) : List (Option PendingEntry × Bool) :=
  let read := (List.range 64).map fun i => settleMirror ((readSlot m .mirror i).bind (readMirror i))
  dropSlots (fun _ e => consumed tickets e) (dropSlots (superseded (read.map (·.1))) read)

/-- The mirror loss count (R110, step 1). -/
def mirrorLosses (m : List Host.Cell) : Nat :=
  (List.range 64).countP fun i => ((readSlot m .mirror i).bind (readMirror i)).isNone

/-- Stage 3 of startup (R110, R111). -/
def Part.restorePending (p : Part) (m : List Host.Cell) (tickets : List Ticket) : Part :=
  let slots := restoredSlots m tickets
  let high := (slots.filterMap fun s => s.1.map (·.creation)).foldl max 0
  let held : Vector (Option PendingEntry) 64 := Vector.ofFn fun i => (slots[i.val]?).bind (·.1)
  let q := p.modPairing fun x =>
    { x with slots := held, nextCreation := high + 1, mirrorLoss := mirrorLosses m }
  let changed := (slots.zipIdx.filter fun s => s.1.2).map (·.2)
  (changed.foldl Part.markDirty q).renumber

/-! ## The calibration images (R178) -/

/-- What a deck's image, and the highest change count in the trail, restore. -/
def Deck.restore (x : Deck) (image : Option CalImage) (high : Option Nat) : Deck :=
  match image with
  | none =>
    let c : DeckCauses := { DeckCauses.empty with imageInvalid := true }
    { x with cal := none, counter := high.getD 0, causes := c, service := .fault, persisted := ⟨.fault, c⟩,
             marker := none }
  | some i =>
    let ahead := decide (i.counter < high.getD 0)
    let causes := if ahead then i.persisted.causes.add .imageInvalid else i.persisted.causes
    let service : ServiceState :=
      if ahead then (if i.marker.isSome then .suspended else .fault)
      else if 1 ≤ i.marker.getD 0 then .suspended else i.persisted.state
    let y : Deck := { x with cal := some ⟨i.entry, true, false⟩, counter := if ahead then high.getD 0 else i.counter,
                             causes := causes, service := service, marker := none }
    { y with persisted := y.persistedValue }.zeroFromCal

/-- The image differs from what was restored from it (R178). -/
def CalImage.behind (i : CalImage) (x : Deck) : Bool :=
  decide (x.persisted ≠ i.persisted) || decide (x.counter ≠ i.counter) || i.marker.isSome

/-- The image of a deck as record memory holds it. -/
def storedImage (m : List Host.Cell) (d : DeckId) : Option CalImage :=
  (readSlot m .calibration d.val).bind (readCalImage d)

/-- Stage 4 of startup for one deck. -/
def Part.restoreDeck (m : List Host.Cell) (trail : List TrailRecord) (p : Part) (d : DeckId) : Part :=
  let image := storedImage m d
  let q := p.modDeck d fun x => x.restore image (highestCount trail d)
  match image with
  | none => q
  | some i => if i.behind (q.deck d) then q.markImage d else q

/-- The numbers of images found invalid and of decks given IMAGE_INVALID by the trail (R179). -/
def imageCounts (m : List Host.Cell) (trail : List TrailRecord) : Nat × Nat :=
  (allDecks.countP fun d => (storedImage m d).isNone,
   allDecks.countP fun d => (storedImage m d).any fun i => decide (i.counter < (highestCount trail d).getD 0))

/-! ## The tables (R135, R140, R141) -/

/-- A class record of the class image, with the bytes of its entry that its image's CRC-32 covers. -/
structure StoredClass where
  entry : Option ClassEntry
  crc : Nat
  bytes : List Byte
  deriving DecidableEq, Repr, Inhabited

/-- The class record of slot `i`, none where it is not valid or carries another index than its slot's (log 14). A cleared
entry counts in its cleared form (R129). -/
def storedClass (m : List Host.Cell) (i : Nat) : Option StoredClass :=
  (readSlot m .classRecord i).bind fun bs => (readClassRecord bs).bind fun r =>
    if r.1 = i then some ⟨r.2.1, r.2.2, if r.2.1.isNone then classEntryBytes none else classEntryField bs⟩ else none

/-- The class entries of the class image, none where the image is not valid (R135). The CRC-32 is judged over the valid
entries as they are stored and the cleared ones in their cleared form (R129, R194). -/
def storedClasses (m : List Host.Cell) : Option (List (Option ClassEntry) × Nat) :=
  let rs := (List.range 48).filterMap (storedClass m)
  let crc := (rs.head?.map (·.crc)).getD 0
  if rs.length = 48 ∧ (rs.all fun r => r.crc == crc) = true ∧ crc32 (rs.flatMap (·.bytes)) = crc then
    some (rs.map (·.entry), crc)
  else none

/-- The class table takes the stored image, or 48 cleared entries (R140). -/
def TableStore.loadClasses (t : TableStore) (m : List Host.Cell) : TableStore :=
  match storedClasses m with
  | none => t
  | some (cs, crc) =>
    let image : Vector (Slot (Option ClassEntry)) 48 := Vector.ofFn fun i => .fresh ((cs[i.val]?).join)
    { t with classStaged := image, classActive := image, classCrc := crc }

/-- The settings table takes the stored image, or the default one (R140). -/
def TableStore.loadSettings (t : TableStore) (image : Option SettingsImage) : TableStore :=
  match image with
  | none => t
  | some i => { t with settingsStaged := i, settingsActive := i }

/-- The register's entries; of two that hold one tag id the lowest-numbered is loaded (R141). -/
def storedRegister (m : List Host.Cell) : List (Nat × Slot (Option RegEntry)) :=
  let read := (List.range 1024).filterMap fun i =>
    ((readSlot m .register i).bind (readRegRecord i)).join.map fun r => (i, r)
  (read.filter fun x => !read.any fun y => decide (y.1 < x.1 ∧ y.2.tag = x.2.tag)).map fun x => (x.1, .fresh (some x.2))

/-- Stage 5 of startup. -/
def Part.loadTables (p : Part) (m : List Host.Cell) : Part :=
  let image := (readSlot m .settings 0).bind readSettingsRecord
  let q := p.modTables fun t => { (t.loadClasses m).loadSettings image with register := storedRegister m }
  (q.modLane .l0 fun x => { x with adoptedValid := image.isSome }).modLane .l1 fun x =>
    { x with adoptedValid := image.isSome }

/-! ## The last writes, and the end of startup (R179, R34) -/

/-- One of startup's writes: verified, or failing its retry, which brings store fault (R169, R179). Nothing more is
written in store fault. -/
def bootWrite (k : SlotKind) (slot : Nat) (bytes : List Byte) (fails : Bool) (b : Part × List Host.Cell) :
    Part × List Host.Cell :=
  if b.1.store.fault then b
  else if fails then
    (({ b.1 with fresh := b.1.fresh + 1 } : Part).modStore fun x => { x with fault := true },
     memWrite b.2 (k.address slot) (slotBytes b.1.fresh bytes.length))
  else (b.1, memWrite b.2 (k.address slot) bytes)

/-- The RESTART record (R179). -/
def Part.restartRecord (p : Part) (c : StartupCounts) : TrailRecord :=
  ⟨none, p.siteTime, p.clock.valid, .restart p.cause c.invalid c.byTrail c.mirrorLoss⟩

/-- The third write (R179): with the trail full, or its numbers exhausted, the record is not written and the gap count
starts at 1, also in store fault. A record that store fault keeps from being written is dropped: it does not join the
trail staging queue, which stays empty, so that the free count stays as it was (log 15). -/
def bootRestart (c : StartupCounts) (fails : Bool) (b : Part × List Host.Cell) : Part × List Host.Cell :=
  let t := b.1.audit.trail
  if t.free = 0 ∨ serialLimit < t.nextSeq then (b.1.modTrail fun x => { x with gap := 1 }, b.2)
  else
    let r := bootWrite .trail (ringSlot .trail t.nextSeq) (trailBytes t.nextSeq (b.1.restartRecord c)) fails b
    if r.1.store.fault then r else (r.1.modTrail fun x => { x with nextSeq := x.nextSeq + 1 }, r.2)

/-- A read mark is written when the restored number differs from the stored one (R179). -/
def bootMark (k : SlotKind) (n : Nat) (fails : Bool) (b : Part × List Host.Cell) : Part × List Host.Cell :=
  if storedMark b.2 k = some n then b else bootWrite k 0 (markBytes k n) fails b

/-- R34, steps 1 to 3, for a lane end. -/
def EndState.begin_ (x : EndState) : EndState := { x with beamLevel := x.beamRaw, beamLatch := x.beamRaw }

/-- A lane completes its start (R34). -/
def Part.startLane (p : Part) (l : LaneId) : Part :=
  let fault := l.decks.any fun d => decide ((p.deck d).service = .fault)
  let q := p.modLane l fun x =>
    { x with ends := ⟨x.ends.a.begin_, x.ends.b.begin_⟩, stopLatch := x.stopInput
             causes := { x.causes with deckFault := fault, laneStop := x.stopInput } }
  if (q.lane l).causes = .empty then q else q.enterLaneState l .fault

/-- A deck's receiver starts when its entry is usable (R23). -/
def Part.startDeck (p : Part) (d : DeckId) : Part :=
  match (p.deck d).entry with
  | none => p
  | some c =>
    let t := p.start c.timeout
    p.modDeck d fun x => { x with sampleTimer := t }

/-- The reports at the end of startup (R45, R120, R160, R179). -/
def Part.startBlocks (p : Part) : Part :=
  let near := decide (nearFull ≤ p.tickets.unread)
  let full := decide (p.audit.trail.free = 0)
  p.bothBlocks fun b => { b with storeNearFull := near, trailFull := full, storeFault := p.store.fault }

/-- Startup finishes (R179). The STARTUP notice takes number 0, before the lanes' own notices (log 27), lane 0 completes
its start before lane 1 (log 40), and a minute boundary passed during startup runs no scan: the first after startup does
(R111). From now on claims are granted (R168), each by a PORT_GRANT of its own (log 49). -/
def Part.finishStartup (p : Part) (c : StartupCounts) : Part :=
  let p0 : Part := { p with phase := .running, clock := { p.clock with boundaryDue := false } }
  let p1 := p0.notify (.startup p.cause p.clock.valid p.store.fault c)
  let p2 := allDecks.foldl Part.startDeck p1
  ((p2.startLane .l0).startLane .l1).startBlocks

/-- Stages 1 to 5 of startup (R176). -/
def Part.restore (p : Part) (m : List Host.Cell) : Part :=
  let ts := scanSlots m .ticket readTicket
  let rs := scanSlots m .trail readTrail
  let tp := positions (ts.map (·.1)) .ticket (storedMark m .ticketMark)
  let rp := positions (rs.map (·.1)) .trail (storedMark m .trailMark)
  let p1 := p.modTickets fun t => { t with nextSerial := tp.1, oldestUnread := tp.2 }
  let p2 := p1.modTrail fun t => { t with nextSeq := rp.1, oldest := rp.2 }
  let p3 := p2.restorePending m (ts.map (·.2))
  (allDecks.foldl (Part.restoreDeck m (rs.map (·.2))) p3).loadTables m

/-- What startup counts in its record and its notice (R179). -/
def startupCounts (m : List Host.Cell) : StartupCounts :=
  let n := imageCounts m ((scanSlots m .trail readTrail).map (·.2))
  ⟨n.1, n.2, mirrorLosses m⟩

/-- Startup, with its last writes (R176, R179). -/
def boot (failedWrite : Option (Fin 3)) (p : Part) (m : List Host.Cell) : Part × List Host.Cell :=
  let c := startupCounts m
  let q := p.restore m
  let b1 := bootMark .ticketMark q.tickets.oldestUnread (failedWrite == some 0) (q, m)
  let b2 := bootMark .trailMark q.audit.trail.oldest (failedWrite == some 1) b1
  let b3 := bootRestart c (failedWrite == some 2) b2
  ((b3.1.finishStartup c).finish, b3.2)

/-- STARTUP: startup, which began when the reset ended, finishes. It is one whole step with all of its last writes: a reset
taken before it finds none of them made or torn, and the memory as it was when startup began (log 51). -/
def execStartup (failedWrite : Option (Fin 3)) (s : State) : Host.Outcome State Fault Refusal :=
  if s.phase = .startup then
    let b := boot failedWrite s.toPart s.mem
    .next { s.act (fun _ => b.1) with mem := b.2 }
  else s.run id

end Sys2Proof.Machine
end

