-- ==== Sys2Proof/Machine/Visits.lean ====
section
/-! DEFINITION. Tag reads and the timers of a visit: TAG_FRAME, IDENTITY_TIMEOUT, CONSIGN_TIMEOUT, QUIET_TIMER_EXPIRY,
SETTLE_COMPLETION, DWELL_TIMER_EXPIRY and CLEAR_TIMER_EXPIRY (03). -/

namespace Sys2Proof.Machine

/-- The lookup by tag of a visit that a tag read started (R50). -/
def Part.lookupTag (p : Part) (l : LaneId) (e : LaneEnd) (tag : TagId) : Part :=
  let r := Part.searchRegister (fun x => decide (x.tag = tag)) p.tables.register p
  let q := r.1
  match r.2, q.visit l with
  | some (i, x), some v =>
    match x.status with
    | .active => q.setIdentity l (.ofEntry i x)
    | .barred => (q.setVisit l { v with vehicle := some x.vehicle }).endAtOnce l .barred
  | none, some v =>
    let t := q.start (1000 * (q.settings l).identityTimeout)
    (q.notify (.tagUnknown l v.count e tag)).modLane l fun x => { x with waitTimer := t }
  | _, none => q

/-- A tag read that starts a visit (R48-R50). -/
def Part.startByTag (p : Part) (l : LaneId) (e : LaneEnd) (tag : TagId) : Part :=
  (p.startVisit l e (.inl tag)).lookupTag l e tag

/-- The rows of R48. The lane's settings are read when it is found OPEN with no visit and no block (log 16). -/
def Part.offerTag (p : Part) (l : LaneId) (e : LaneEnd) (tag : TagId) : Part :=
  let ignore := fun (q : Part) (r : IgnoreReason) => q.notify (.tagIgnored (readerOf l e) tag r)
  if (p.visit l).isSome then ignore p .laneBusy
  else if (p.lane l).state ≠ .opened then ignore p .notOpen
  else if (p.lane l).blocks ≠ .empty then ignore p .blocked
  else
    let q := p.checkLane l
    if (q.lane l).state ≠ .opened then ignore q .notOpen
    else if (q.settings l).admitting.admits e = false then ignore q .endClosed
    else q.startByTag l e tag

/-- R47: a repeat of the reader's last read within 5 000 ms. -/
def suppressed (last : Option LastRead) (tag : TagId) (ms : Nat) : Bool :=
  match last with
  | none => false
  | some r => decide (r.tag = tag ∧ ms - r.ms < 5000)

/-- A frame on the tag port (R46, R47). -/
def Part.tagFrame (p : Part) (wire : List Byte) : Part :=
  match parseTag wire with
  | none => p
  | some (l, e, tag) =>
    let ms := p.now / 10
    if p.phase ≠ .running then p
    else if suppressed (p.laneEnd l e).lastRead tag ms then p
    else (p.modEnd l e fun x => { x with lastRead := some ⟨tag, ms⟩ }).offerTag l e tag

/-- TAG_FRAME. -/
def execTagFrame (wait : Nat) (wire : List Byte) (s : State) : Host.Outcome State Fault Refusal :=
  s.run fun p => (p.elapse wait).tagFrame wire

/-- IDENTITY_TIMEOUT (R51). -/
def execIdentityTimeout (lane : LaneId) (s : State) : Host.Outcome State Fault Refusal :=
  s.run fun p =>
    if p.visitState lane = some .identify then
      p.expire (p.lane lane).waitTimer (·.endAtOnce lane .identityTimeout)
    else p

/-- CONSIGN_TIMEOUT (R56). -/
def execConsignTimeout (lane : LaneId) (s : State) : Host.Outcome State Fault Refusal :=
  s.run fun p =>
    if p.visitState lane = some .consignWait then
      p.expire (p.lane lane).waitTimer (·.endAtOnce lane .noConsignment)
    else p

/-- QUIET_TIMER_EXPIRY (R59). -/
def execQuietTimerExpiry (lane : LaneId) (s : State) : Host.Outcome State Fault Refusal :=
  s.run fun p => p.expire (p.lane lane).quietTimer fun q =>
    (q.modLane lane fun x => { x with quietTimer := .expired }).tryEnterSettling lane

/-- SETTLE_COMPLETION (R62). -/
def execSettleCompletion (lane : LaneId) (s : State) : Host.Outcome State Fault Refusal :=
  s.run fun p => p.expire (p.lane lane).settleTimer fun q =>
    (q.modLane lane fun x => { x with settleTimer := .expired }).settleComplete lane

/-- R68. -/
def Part.dwellExpiry (p : Part) (l : LaneId) : Part :=
  match p.visit l with
  | none => p
  | some v =>
    match v.state with
    | .identify => p
    | .consignWait => p.abortVisit l .dwellLimit
    | .entering => p.abortVisit l .dwellLimit
    | .settling => p.abortVisit l .dwellLimit
    | _ => (p.setVisit l { v with overstaySent := true }).notify (.overstay l v.count v.vehicle v.state)

/-- DWELL_TIMER_EXPIRY. -/
def execDwellTimerExpiry (lane : LaneId) (s : State) : Host.Outcome State Fault Refusal :=
  s.run fun p => p.expire (p.lane lane).dwellTimer fun q =>
    (q.modLane lane fun x => { x with dwellTimer := .expired }).dwellExpiry lane

/-- CLEAR_TIMER_EXPIRY (R67). -/
def execClearTimerExpiry (lane : LaneId) (s : State) : Host.Outcome State Fault Refusal :=
  s.run fun p => p.expire (p.lane lane).clearTimer fun q =>
    (q.modLane lane fun x => { x with clearTimer := .expired }).tryClose lane

end Sys2Proof.Machine
end

