-- ==== Sys2Proof/Machine/YardLink.lean ====
section
/-! DEFINITION. The yard link interface's own commands (10): STATUS, TIME_SET, RESTART, UNKNOWN_REQUEST,
YARD_FRAME_DROP, FRAME_SENT; and the time base's MINUTE_BOUNDARY and SITE_CLOCK_WRAP. -/

namespace Sys2Proof.Machine

/-! ## STATUS (R187, R188) -/

def Part.laneStatus (p : Part) (l : LaneId) : LaneStatus :=
  let x := p.lane l
  { state := x.state, causes := x.causes, blocks := x.blocks,
    beamLatches := ⟨x.ends.a.beamLatch, x.ends.b.beamLatch⟩,
    positions := ⟨x.ends.a.barrier.position, x.ends.b.barrier.position⟩,
    failures := ⟨x.ends.a.barrier.failed, x.ends.b.barrier.failed⟩,
    imageValid := x.adoptedValid, imageCrc := (p.adopted l).crc, adoptedActive := x.adoptedActive }

def Visit.status (v : Visit) : VisitStatus :=
  { count := v.count, state := v.state, kind := v.kind, entry := v.entry, vehicle := v.vehicle,
    exitOverrun := v.exitOverrun, overstaySent := v.overstaySent, storeWait := v.storeWait,
    heldReleased := v.heldReleased }

def Deck.report (x : Deck) : DeckStatus :=
  { service := x.service, causes := x.causes, status := x.status, displayed := x.published.map (·.displayed),
    counter := x.counter, usable := x.usable }

def Session.status (s : Session) : SessionStatus :=
  { deck := s.deck, reason := s.reason, active := s.atOpen.isSome, writes := s.writes, steps := s.steps.length,
    firstCounted := s.firstCounted, inFlight := s.inFlight }

def HoldState.name : HoldState → HoldName
  | .none => .none
  | .requested _ => .requested
  | .held => .held

/-- The groups of STATUS that startup has to restore first (R188). -/
def Part.fullStatus (p : Part) : FullStatus :=
  let t := p.tickets
  let r := p.audit.trail
  { lanes := ⟨p.laneStatus .l0, p.laneStatus .l1⟩,
    visits := ⟨(p.visit .l0).map Visit.status, (p.visit .l1).map Visit.status⟩,
    decks := allDecks.map fun d => (p.deck d).report,
    hold := p.store.hold.name, unread := t.unread, nextSerial := t.nextSerial, oldestUnread := t.oldestUnread,
    stagedTickets := t.staging.length, ticketAck := t.ack.isSome, trailFree := r.free,
    unacknowledged := r.unacknowledged, nextSeq := r.nextSeq, oldestSeq := r.oldest, stagedTrail := r.staging.length,
    trailGap := r.gap, pendingHeld := p.pairing.held, dirtySlots := p.dirtyCount,
    consignments := p.pairing.consignments.length, session := p.audit.session.map Session.status,
    classCrc := p.tables.classCrc, settingsCrc := p.tables.settingsActive.crc,
    previousCrc := p.tables.settingsPrevious.map (·.crc), commit := p.tables.commit.map (·.table),
    monitor := p.monitor.selection }

/-- The part group of STATUS; the STATUS itself counts among the outstanding requests (log 36). -/
def Part.partStatus (p : Part) : PartStatus :=
  { startup := decide (p.phase = .startup), cause := p.cause, time := p.siteTime, valid := p.clock.valid,
    lost := p.link.lost, nextNotice := p.link.nextNotice, drops := p.link.drops,
    outstanding := p.link.outstanding.length, restartPending := p.link.restart.isSome }

/-- The outputs of a lane (R33, R188). -/
def Part.laneOutputs (p : Part) (l : LaneId) : LaneOutputs :=
  { signals := ⟨p.signal l .a, p.signal l .b⟩, barriers := ⟨p.wanted l .a, p.wanted l .b⟩ }

def Part.statusReport (p : Part) : StatusReport :=
  let startup := decide (p.phase = .startup)
  { part := p.partStatus, lanes := ⟨(p.lane .l0).state, (p.lane .l1).state⟩, storeFault := p.store.fault,
    starting := if startup then some ⟨p.laneOutputs .l0, p.laneOutputs .l1⟩ else none
    full := if startup then none else some p.fullStatus }

/-- R188; the notices-lost flag is cleared when the response has been formed (R187). -/
def Part.status (p : Part) (corr : U16) : Part :=
  (p.modLink fun k => { k with lost := false }).done corr .status (.status p.statusReport)

/-- STATUS. -/
def execStatus (corr : U16) (s : State) : Host.Outcome State Fault Refusal := s.request corr .status (·.status corr)

/-! ## TIME_SET (R190) -/

/-- R190: a boundary that the old time had reached or was about to reach does not occur (log 3). -/
def Part.timeSet (p : Part) (corr : U16) (seconds : U32) (millis : U16) : Part :=
  if 999 < millis.toNat then p.refuse corr .timeSet .badValue
  else
    let clock : Clock :=
      { p.clock with sec := seconds.toNat, ms := millis.toNat, valid := true, boundaryDue := false }
    ({ p with clock := clock } : Part).done corr .timeSet

/-- TIME_SET. -/
def execTimeSet (corr : U16) (seconds : U32) (millis : U16) (s : State) : Host.Outcome State Fault Refusal :=
  s.request corr .timeSet (·.timeSet corr seconds millis)

/-! ## RESTART (R191) -/

/-- R191; a FORCE that is no flag is refused BAD_VALUE before the rows are judged (R193). -/
def Part.restartRequest (p : Part) (corr : U16) (force : Coded Bool) : Part :=
  match force with
  | .undefined _ => p.refuse corr .restart .badValue
  | .known f =>
    if f = false ∧ ((p.visit .l0).isSome ∨ (p.visit .l1).isSome) then p.refuse corr .restart .wrongState
    else (p.modLink fun k => { k with restart := some corr }).done corr .restart

/-- RESTART. -/
def execRestart (corr : U16) (force : Coded Bool) (s : State) : Host.Outcome State Fault Refusal :=
  s.request corr .restart (·.restartRequest corr force)

/-! ## Frames that reach no block (R181, R182) -/

/-- The immediate refusal of a frame that names no request (R182). A REQUEST frame with an empty body has no request
code, and the one that its response carries is free (log 46). -/
def Part.refuseUnknown (p : Part) (corr : U16) (body : List Byte) (x : Reason) : Part :=
  match body with
  | [] => ({ p with fresh := p.fresh + 1 } : Part).respondNow corr (Config.emptyBodyCode p.fresh).toNat x false
  | code :: _ => p.respondNow corr code.toNat x false

/-- The rows of R182 for a frame whose code names no request, or whose body does not fit it. A body that fits is another
command (log 1). -/
def Part.unknownRequest (p : Part) (corr : U16) (body : List Byte) : Part :=
  let isStatus := decide (body.head?.map (·.toNat) = some Req.status.code)
  if namesNone body = false then p
  else if p.phase = .resetting then p.countDrop
  else if 16 ≤ p.link.responses.length then p.countDrop
  else if p.phase = .startup ∧ isStatus = false then p.refuseUnknown corr body .starting
  else if p.link.restart.isSome ∧ isStatus = false then p.refuseUnknown corr body .busy
  else p.refuseUnknown corr body .badValue

/-- UNKNOWN_REQUEST. -/
def execUnknownRequest (corr : U16) (code : Option Byte) (arguments : List Byte) (s : State) :
    Host.Outcome State Fault Refusal :=
  s.run (·.unknownRequest corr (code.toList ++ arguments))

/-- YARD_FRAME_DROP (R181). -/
def execYardFrameDrop (wire : List Byte) (s : State) : Host.Outcome State Fault Refusal :=
  s.run fun p => if p.phase = .resetting ∨ yardFrameBad wire = true then p.countDrop else p

/-! ## The transmitter (R184, R185, R191) -/

/-- The frame sent is the DONE of the pending RESTART (R191). -/
def Link.sendsRestart (k : Link) : Bool :=
  match k.tx, k.restart with
  | some (.response r), some corr => decide (r.immediate = false ∧ r.corr = corr ∧ r.code = Req.restart.code)
  | _, _ => false

/-- The frame has been sent in full: the outstanding entry of an owner's response is freed (R184). -/
def Link.sent (k : Link) : Link :=
  match k.tx with
  | some (.response r) =>
    if r.immediate then { k with tx := none }
    else { k with tx := none, outstanding := k.outstanding.filter fun o => decide (o.corr ≠ r.corr) }
  | _ => { k with tx := none }

/-- FRAME_SENT: the transmitter begins the next waiting frame, or the commanded reset begins. -/
def execFrameSent (s : State) : Host.Outcome State Fault Refusal :=
  if s.link.sendsRestart then s.resetTo .startup .command s.clock.restart
  else s.run fun p => p.modLink Link.sent

/-! ## The time base (R189) -/

/-- Tenths of a millisecond until the site-second count rises to `sec`. -/
def Clock.until (c : Clock) (sec : Nat) : Nat := 10 * (1000 * (sec - c.sec) - c.ms) - c.running % 10

/-- The next multiple of 60 above the site-second count. -/
def Clock.nextMinute (c : Clock) : Nat := 60 * (c.sec / 60) + 60

/-- The moment of the minute boundary: the one that is due, or the next one (log 2, log 3). -/
def Clock.toBoundary (c : Clock) : Clock :=
  { (if c.boundaryDue then c else c.elapse (c.until c.nextMinute)) with boundaryDue := false }

/-- A minute boundary can come: the clock is valid, and one is due or comes before the count wraps. -/
def Clock.mayBound (c : Clock) : Bool := c.valid && (c.boundaryDue || decide (c.nextMinute < secLimit))

/-- The pairing unit's two scans (R58, R104), with the read of the site entry that they need (R138). The expiry scan of
the pending-tare list runs before that of the consignment list (log 40). -/
def Part.scans (p : Part) : Part :=
  let q := p.checkSite
  (q.expireScan q.site.pendingAge).expireConsignments q.site.consignAge

/-- R189; until startup has finished the scans do not run (R126). -/
def Part.minuteBoundary (p : Part) : Part :=
  if p.clock.mayBound then
    let q : Part := { p with clock := p.clock.toBoundary }
    if q.phase = .running then q.scans else q
  else p

/-- MINUTE_BOUNDARY. -/
def execMinuteBoundary (s : State) : Host.Outcome State Fault Refusal := s.run Part.minuteBoundary

/-- SITE_CLOCK_WRAP (R189). -/
def execSiteClockWrap (s : State) : Host.Outcome State Fault Refusal := s.run fun p => p.elapse (p.clock.until secLimit)

end Sys2Proof.Machine
end

