-- ==== Sys2Proof/Machine/Dispatch.lean ====
section
/-! DEFINITION. The meaning of every command: one arm per constructor of Instr, in the order of
spec/opcode_table.json. -/

namespace Sys2Proof.Machine

def exec (i : Instr) (s : State) : Host.Outcome State Fault Refusal :=
  match i with
  | .sampleFrame link wire => Sys2Proof.Machine.execSampleFrame link wire s
  | .sampleTimeoutExpiry deck => Sys2Proof.Machine.execSampleTimeoutExpiry deck s
  | .clearanceTimerExpiry deck => Sys2Proof.Machine.execClearanceTimerExpiry deck s
  | .tagFrame wait wire => Sys2Proof.Machine.execTagFrame wait wire s
  | .treadleEdge lane atEnd line wait taken => Sys2Proof.Machine.execTreadleEdge lane atEnd line wait taken s
  | .windowExpiry lane atEnd => Sys2Proof.Machine.execWindowExpiry lane atEnd s
  | .beamLevelChange lane atEnd blocked => Sys2Proof.Machine.execBeamLevelChange lane atEnd blocked s
  | .beamDebounceExpiry lane atEnd => Sys2Proof.Machine.execBeamDebounceExpiry lane atEnd s
  | .barrierSwitchChange lane atEnd up down => Sys2Proof.Machine.execBarrierSwitchChange lane atEnd up down s
  | .supervisionTimerExpiry lane atEnd => Sys2Proof.Machine.execSupervisionTimerExpiry lane atEnd s
  | .laneStopEdge lane active => Sys2Proof.Machine.execLaneStopEdge lane active s
  | .identityTimeout lane => Sys2Proof.Machine.execIdentityTimeout lane s
  | .consignTimeout lane => Sys2Proof.Machine.execConsignTimeout lane s
  | .quietTimerExpiry lane => Sys2Proof.Machine.execQuietTimerExpiry lane s
  | .settleCompletion lane => Sys2Proof.Machine.execSettleCompletion lane s
  | .dwellTimerExpiry lane => Sys2Proof.Machine.execDwellTimerExpiry lane s
  | .clearTimerExpiry lane => Sys2Proof.Machine.execClearTimerExpiry lane s
  | .minuteBoundary => Sys2Proof.Machine.execMinuteBoundary s
  | .siteClockWrap => Sys2Proof.Machine.execSiteClockWrap s
  | .auditWaitExpiry => Sys2Proof.Machine.execAuditWaitExpiry s
  | .stepTimerExpiry => Sys2Proof.Machine.execStepTimerExpiry s
  | .holdTimerExpiry => Sys2Proof.Machine.execHoldTimerExpiry s
  | .portGrant => Sys2Proof.Machine.execPortGrant s
  | .storeHoldGrant => Sys2Proof.Machine.execStoreHoldGrant s
  | .trailRecordWritten => Sys2Proof.Machine.execTrailRecordWritten s
  | .trailReadMarkWritten => Sys2Proof.Machine.execTrailReadMarkWritten s
  | .ticketWritten => Sys2Proof.Machine.execTicketWritten s
  | .ticketReadMarkWritten => Sys2Proof.Machine.execTicketReadMarkWritten s
  | .mirrorRecordWritten => Sys2Proof.Machine.execMirrorRecordWritten s
  | .classRecordWritten => Sys2Proof.Machine.execClassRecordWritten s
  | .settingsImageWritten => Sys2Proof.Machine.execSettingsImageWritten s
  | .registerRecordWritten => Sys2Proof.Machine.execRegisterRecordWritten s
  | .calibrationImageWritten => Sys2Proof.Machine.execCalibrationImageWritten s
  | .ticketFetchRead => Sys2Proof.Machine.execTicketFetchRead s
  | .trailFetchRead => Sys2Proof.Machine.execTrailFetchRead s
  | .holdReadDone => Sys2Proof.Machine.execHoldReadDone s
  | .recordWriteFailed => Sys2Proof.Machine.execRecordWriteFailed s
  | .yardFrameDrop wire => Sys2Proof.Machine.execYardFrameDrop wire s
  | .frameSent => Sys2Proof.Machine.execFrameSent s
  | .status corr => Sys2Proof.Machine.execStatus corr s
  | .timeSet corr seconds millis => Sys2Proof.Machine.execTimeSet corr seconds millis s
  | .restart corr force => Sys2Proof.Machine.execRestart corr force s
  | .laneOpen corr lane => Sys2Proof.Machine.execLaneOpen corr lane s
  | .laneClose corr lane => Sys2Proof.Machine.execLaneClose corr lane s
  | .admitVehicle corr lane atEnd vehicle => Sys2Proof.Machine.execAdmit corr lane atEnd vehicle s
  | .consign corr vehicle consignment => Sys2Proof.Machine.execConsign corr vehicle consignment s
  | .release corr lane => Sys2Proof.Machine.execRelease corr lane s
  | .visitAbort corr lane => Sys2Proof.Machine.execVisitAbort corr lane s
  | .cancelPending corr vehicle => Sys2Proof.Machine.execCancelPending corr vehicle s
  | .pendingRead corr index => Sys2Proof.Machine.execPendingRead corr index s
  | .ticketFetch corr => Sys2Proof.Machine.execTicketFetch corr s
  | .ticketAck corr serial => Sys2Proof.Machine.execTicketAck corr serial s
  | .trailFetch corr => Sys2Proof.Machine.execTrailFetch corr s
  | .trailAck corr sequence => Sys2Proof.Machine.execTrailAck corr sequence s
  | .tableWrite corr table index entry => Sys2Proof.Machine.execTableWrite corr table index entry s
  | .tableRead corr table index => Sys2Proof.Machine.execTableRead corr table index s
  | .tableCommit corr table crc => Sys2Proof.Machine.execTableCommit corr table crc s
  | .tableDiscard corr table => Sys2Proof.Machine.execTableDiscard corr table s
  | .registerPut corr index entry => Sys2Proof.Machine.execRegisterPut corr index entry s
  | .registerRemove corr index => Sys2Proof.Machine.execRegisterRemove corr index s
  | .registerGet corr index => Sys2Proof.Machine.execRegisterGet corr index s
  | .auditOpen corr deck reason => Sys2Proof.Machine.execAuditOpen corr deck reason s
  | .auditStep corr kind reference cell => Sys2Proof.Machine.execAuditStep corr kind reference cell s
  | .calWrite corr deck entry calEn => Sys2Proof.Machine.execCalWrite corr deck entry calEn s
  | .zeroSet corr deck => Sys2Proof.Machine.execZeroSet corr deck s
  | .auditClose corr => Sys2Proof.Machine.execAuditClose corr s
  | .auditAbort corr => Sys2Proof.Machine.execAuditAbort corr s
  | .storeHold corr => Sys2Proof.Machine.execStoreHold corr s
  | .storeRelease corr => Sys2Proof.Machine.execStoreRelease corr s
  | .holdRead corr address length => Sys2Proof.Machine.execHoldRead corr address length s
  | .monitorSet corr selection => Sys2Proof.Machine.execMonitorSet corr selection s
  | .powerOn => Sys2Proof.Machine.execPowerOn s
  | .lineReset => Sys2Proof.Machine.execLineReset s
  | .lineResetRelease => Sys2Proof.Machine.execLineResetRelease s
  | .startup failedWrite => Sys2Proof.Machine.execStartup failedWrite s
  | .unknownRequest corr code arguments => Sys2Proof.Machine.execUnknownRequest corr code arguments s
  | .treadleLatchTaken lane atEnd line => Sys2Proof.Machine.execTreadleLatchTaken lane atEnd line s

end Sys2Proof.Machine
end

