-- ==== Sys2Proof/Machine/Step.lean ====
section
/-! DEFINITION. One step of the machine: the command at the front of the queue; on an empty queue, the first event that
is due by the running count, or a tenth of a millisecond (log 2, log 19). -/

namespace Sys2Proof.Machine

/-- A running timer whose deadline has come. -/
def Timer.due (t : Timer) (now : Nat) : Bool :=
  match t with
  | .running d => decide (d ≤ now)
  | _ => false

/-- A held edge whose axle window has run out (R75). -/
def Decoder.due (d : Decoder) (now : Nat) : Bool :=
  match d with
  | .idle => false
  | .hold _ _ expiry => decide (expiry ≤ now)

/-- An event and whether it is due. -/
abbrev DueEvent := Bool × Instr

def Part.deckEvents (p : Part) (d : DeckId) : List DueEvent :=
  let x := p.deck d
  [(x.sampleTimer.due p.now, .sampleTimeoutExpiry d), (x.clearance.due p.now, .clearanceTimerExpiry d)]

def Part.endEvents (p : Part) (l : LaneId) (e : LaneEnd) : List DueEvent :=
  let x := p.laneEnd l e
  [(x.decoder.due p.now, .windowExpiry l e), (x.debounce.due p.now, .beamDebounceExpiry l e),
   (x.barrier.timer.due p.now, .supervisionTimerExpiry l e)]

/-- The wait timer is one for the identity or for the consignment, by the visit's state (03 3.1). -/
def Part.waitEvent (p : Part) (l : LaneId) : Instr :=
  if p.visitState l = some .consignWait then .consignTimeout l else .identityTimeout l

def Part.laneEvents (p : Part) (l : LaneId) : List DueEvent :=
  let x := p.lane l
  p.endEvents l .a ++ p.endEvents l .b ++
    [(x.waitTimer.due p.now, p.waitEvent l), (x.quietTimer.due p.now, .quietTimerExpiry l),
     (x.settleTimer.due p.now, .settleCompletion l), (x.dwellTimer.due p.now, .dwellTimerExpiry l),
     (x.clearTimer.due p.now, .clearTimerExpiry l)]

/-- Every event of the running count and of the site clock, in the order in which the model takes those that are due at
once (log 2). -/
def Part.events (p : Part) : List DueEvent :=
  (p.clock.boundaryDue, .minuteBoundary) :: (allDecks.flatMap p.deckEvents ++ p.laneEvents .l0 ++ p.laneEvents .l1 ++
    [(p.audit.waitTimer.due p.now, .auditWaitExpiry), (p.audit.stepTimer.due p.now, .stepTimerExpiry),
     (p.store.holdTimer.due p.now, .holdTimerExpiry)])

/-- The event that is due. -/
def Part.dueEvent (p : Part) : Option Instr := (p.events.find? (·.1)).map (·.2)

/-- What happens when no command waits (log 19). -/
def idle (s : State) : Host.Outcome State Fault Refusal :=
  match s.toPart.dueEvent with
  | some i => exec i s
  | none => .next (s.act (·.elapse 1))

/-- One step. -/
def step (s : State) : Host.Outcome State Fault Refusal :=
  match s.pending with
  | [] => idle s
  | c :: rest => exec c { s with pending := rest }

/-- The command that a word spells, put at the front of the queue; no word spells one (Decode.lean). -/
def State.withFetchWord (s : State) (nbits w : Nat) : State :=
  match decodeTableWord nbits w with
  | none => s
  | some c => { s with pending := c :: s.pending }

end Sys2Proof.Machine
end

