-- ==== Sys2Proof/WellFormed.lean ====
section
/-! DEFINITION. When a command's operands are ones that the hardware could present: frames start at their delimiter,
entries and vehicle fields have the sizes of their layouts (11.1, 11.4), undefined codes are undefined (R193), and an
unknown request is unknown (R182). A
command that is not well-formed still has a meaning in exec; well-formedness is what the encodings bound. -/

namespace Sys2Proof

/-- A frame as it stood on its link: it starts with the delimiter (11.2). -/
def isFrame : List Byte → Bool
  | [] => false
  | b :: _ => b == Machine.delimiter

/-- An undefined code is none of the codes that its encoding defines (11.4; a flag is 0 or 1). The manual gives a lane
end no codes. -/
def Coded.wf {α : Type} (codes : List Nat) : Coded α → Bool
  | .known _ => true
  | .undefined c => !codes.contains c.toNat

def Instr.wf : Instr → Bool
  | .sampleFrame _ wire => isFrame wire
  | .sampleTimeoutExpiry _ => true
  | .clearanceTimerExpiry _ => true
  | .tagFrame _ wire => isFrame wire
  | .treadleEdge _ _ _ _ _ => true
  | .windowExpiry _ _ => true
  | .beamLevelChange _ _ _ => true
  | .beamDebounceExpiry _ _ => true
  | .barrierSwitchChange _ _ _ _ => true
  | .supervisionTimerExpiry _ _ => true
  | .laneStopEdge _ _ => true
  | .identityTimeout _ => true
  | .consignTimeout _ => true
  | .quietTimerExpiry _ => true
  | .settleCompletion _ => true
  | .dwellTimerExpiry _ => true
  | .clearTimerExpiry _ => true
  | .minuteBoundary => true
  | .siteClockWrap => true
  | .auditWaitExpiry => true
  | .stepTimerExpiry => true
  | .holdTimerExpiry => true
  | .portGrant => true
  | .storeHoldGrant => true
  | .trailRecordWritten => true
  | .trailReadMarkWritten => true
  | .ticketWritten => true
  | .ticketReadMarkWritten => true
  | .mirrorRecordWritten => true
  | .classRecordWritten => true
  | .settingsImageWritten => true
  | .registerRecordWritten => true
  | .calibrationImageWritten => true
  | .ticketFetchRead => true
  | .trailFetchRead => true
  | .holdReadDone => true
  | .recordWriteFailed => true
  | .yardFrameDrop wire => isFrame wire
  | .frameSent => true
  | .status _ => true
  | .timeSet _ _ _ => true
  | .restart _ force => force.wf [0, 1]
  | .laneOpen _ _ => true
  | .laneClose _ _ => true
  | .admitVehicle _ _ _ vehicle => decide (vehicle.length = 12)
  | .consign _ vehicle _ => decide (vehicle.length = 12)
  | .release _ _ => true
  | .visitAbort _ _ => true
  | .cancelPending _ vehicle => decide (vehicle.length = 12)
  | .pendingRead _ _ => true
  | .ticketFetch _ => true
  | .ticketAck _ _ => true
  | .trailFetch _ => true
  | .trailAck _ _ => true
  | .tableWrite _ table _ entry => table.wf [1, 2] && decide (entry.length = 32)
  | .tableRead _ table _ => table.wf [1, 2]
  | .tableCommit _ table _ => table.wf [1, 2]
  | .tableDiscard _ table => table.wf [1, 2]
  | .registerPut _ _ entry => decide (entry.length = 32)
  | .registerRemove _ _ => true
  | .registerGet _ _ => true
  | .auditOpen _ _ reason => reason.wf [1, 2, 3]
  | .auditStep _ kind _ _ => kind.wf [1, 2, 3, 4]
  | .calWrite _ _ entry _ => decide (entry.length = 111)
  | .zeroSet _ _ => true
  | .auditClose _ => true
  | .auditAbort _ => true
  | .storeHold _ => true
  | .storeRelease _ => true
  | .holdRead _ _ _ => true
  | .monitorSet _ _ => true
  | .powerOn => true
  | .lineReset => true
  | .lineResetRelease => true
  | .startup _ => true
  | .unknownRequest _ code arguments =>
    Machine.namesNone (code.toList ++ arguments) && (code.isSome || arguments.isEmpty)
  | .treadleLatchTaken _ _ _ => true

end Sys2Proof
end

