-- ==== Sys2Proof/Safety.lean ====
section
/-! DEFINITION. The terms in which claims about the machine are made: when a request is taken, what the end of a step may
change, and the invariants. No definition of the model uses them. -/

namespace Sys2Proof.Machine

/-- The machine completes its step: it neither stops with a fault nor refuses. -/
def State.completes (s : State) : Prop := ∃ t, step s = .next t

/-! ## Requests (R181-R183) -/

/-- The request that a command is, with its correlation number. -/
def requestOf : Instr → Option (U16 × Req)
  | .status c => some (c, .status)
  | .timeSet c _ _ => some (c, .timeSet)
  | .restart c _ => some (c, .restart)
  | .laneOpen c _ => some (c, .laneOpen)
  | .laneClose c _ => some (c, .laneClose)
  | .admitVehicle c _ _ _ => some (c, .admitVehicle)
  | .consign c _ _ => some (c, .consign)
  | .release c _ => some (c, .release)
  | .visitAbort c _ => some (c, .visitAbort)
  | .cancelPending c _ => some (c, .cancelPending)
  | .pendingRead c _ => some (c, .pendingRead)
  | .ticketFetch c => some (c, .ticketFetch)
  | .ticketAck c _ => some (c, .ticketAck)
  | .trailFetch c => some (c, .trailFetch)
  | .trailAck c _ => some (c, .trailAck)
  | .tableWrite c _ _ _ => some (c, .tableWrite)
  | .tableRead c _ _ => some (c, .tableRead)
  | .tableCommit c _ _ => some (c, .tableCommit)
  | .tableDiscard c _ => some (c, .tableDiscard)
  | .registerPut c _ _ => some (c, .registerPut)
  | .registerRemove c _ => some (c, .registerRemove)
  | .registerGet c _ => some (c, .registerGet)
  | .auditOpen c _ _ => some (c, .auditOpen)
  | .auditStep c _ _ _ => some (c, .auditStep)
  | .calWrite c _ _ _ => some (c, .calWrite)
  | .zeroSet c _ => some (c, .zeroSet)
  | .auditClose c => some (c, .auditClose)
  | .auditAbort c => some (c, .auditAbort)
  | .storeHold c => some (c, .storeHold)
  | .storeRelease c => some (c, .storeRelease)
  | .holdRead c _ _ => some (c, .holdRead)
  | .monitorSet c _ => some (c, .monitorSet)
  | _ => none

/-- The last row of R182 holds for a request with this correlation number: it takes an outstanding entry and is
dispatched to its owner. -/
def Part.takes (p : Part) (corr : U16) : Prop :=
  p.phase = .running ∧ p.link.responses.length < 16 ∧ p.link.restart = none ∧ p.link.outstanding.length < 8 ∧
    ∀ o ∈ p.link.outstanding, o.corr ≠ corr

/-- The part once the request has its outstanding entry, with its owning block (R182, R183); `target` is the lane or the
deck that the request names, if its owner is one. -/
def Part.admitted (p : Part) (corr : U16) (r : Req) (target : Byte := 0) : Part :=
  { p with link := { p.link with outstanding := p.link.outstanding ++ [⟨corr, r, p.ownerOf r target⟩] } }

/-! ## Parity (log 16) -/

/-- A table entry that a read finds good, or that has been found bad before: its read changes nothing (R129). -/
def Slot.settled {α : Type} (s : Slot α) : Prop := s.damaged = true ∨ s.parityOk = true

/-- The settings entries that the lanes and the site use change nothing when they are read. -/
def Part.settingsSettled (p : Part) : Prop :=
  ((p.adopted .l0).lanes.get .l0).settled ∧ ((p.adopted .l1).lanes.get .l1).settled ∧ p.siteImage.site.settled

/-- Nothing changes when the entries of a settings image are read. -/
def SettingsImage.settled (i : SettingsImage) : Prop := i.lanes.l0.settled ∧ i.lanes.l1.settled ∧ i.site.settled

def SettingsImage.parityRight (i : SettingsImage) : Prop :=
  i.lanes.l0.parityOk = true ∧ i.lanes.l1.parityOk = true ∧ i.site.parityOk = true

/-- Every parity in the part is right: no event that the manual lists makes a parity fail (log 16). -/
def Part.parityRight (p : Part) : Prop :=
  (∀ d : DeckId, ∀ c, (p.deck d).cal = some c → c.parityOk = true) ∧
    (∀ s ∈ p.tables.classStaged.toList, s.parityOk = true) ∧ (∀ s ∈ p.tables.classActive.toList, s.parityOk = true) ∧
    p.tables.settingsStaged.parityRight ∧ p.tables.settingsActive.parityRight ∧
    (∀ i, p.tables.settingsPrevious = some i → i.parityRight) ∧ ∀ x ∈ p.tables.register, x.2.parityOk = true

/-! ## The end of a step -/

/-- Every frame that waits or is being sent, in the order in which the frames will leave (R185). -/
def Link.waiting (k : Link) : List OutFrame :=
  k.tx.toList ++ (k.responses.map .response ++ (k.urgent.map .notice ++ (k.routine.map .notice ++
    k.monitorSlot.toList.map .monitor)))

/-- A lane end with its barrier driven as the lane of `p` wants (R30-R33). -/
def Part.driven (p : Part) (l : LaneId) (e : LaneEnd) : EndState :=
  let x := p.laneEnd l e
  { x with barrier := x.barrier.drive (p.wanted l e) x.beamLevel (p.moveLimit l) }

/-- Neither barrier of the lane has a failure recorded (R32). -/
def Part.barriersWell (p : Part) (l : LaneId) : Bool :=
  !(p.laneEnd l .a).barrier.failed && !(p.laneEnd l .b).barrier.failed

/-- BARRIER leaves the cause set of a lane that has no failure recorded (R32); a lane in FAULT that then has no cause and
holds no visit enters CLOSED, CLOSE_REQUESTED is removed, and a LANE_STATE notice is queued (R37, R41, R44). -/
def Part.barrierLeaves (p : Part) (l : LaneId) : Part :=
  let x := p.lane l
  let causes := { x.causes with barrier := false }
  if x.causes.barrier = true ∧ p.barriersWell l = true then
    if causes = .empty ∧ x.state = .fault ∧ x.visit.isNone = true then
      (p.modLane l fun y => { y with
        causes := .empty, state := .closed, blocks := { y.blocks with closeRequested := false } }).notify
          (.laneState l .closed .empty)
    else p.modLane l fun y => { y with causes := causes }
  else p

/-- What the end of a step makes of the part `p`, and no more: the barriers' driven commands and their timers follow
(R30-R33), BARRIER leaves the cause set of a lane without a recorded failure, lane 0 before lane 1 (R32, R37, log 40), and
the transmitter may take the first waiting frame (R185). All else is as in `p`. -/
structure Part.Closes (p q : Part) : Prop where
  /-- Everything but the lanes and the link is unchanged, and no mark is in the making (log 47). -/
  rest : q = { p with lanes := q.lanes, link := q.link, store := { p.store with marking := [] } }
  /-- Of a lane only its state, cause set, block set and ends can differ. -/
  lane : ∀ l, q.lane l = { p.lane l with
    state := (q.lane l).state, causes := (q.lane l).causes, blocks := (q.lane l).blocks, ends := (q.lane l).ends }
  /-- Of a lane end only the barrier's drive can differ: it follows what the lane of `p` wants (R30-R33). -/
  ends : ∀ l e, q.laneEnd l e = p.driven l e
  /-- A lane's state, cause set and block set are those that BARRIER leaves behind. -/
  state : ∀ l, let r := ((p.barrierLeaves .l0).barrierLeaves .l1).lane l
    (q.lane l).state = r.state ∧ (q.lane l).causes = r.causes ∧ (q.lane l).blocks = r.blocks
  /-- Outstanding requests, the pending RESTART and the drop count are unchanged. -/
  requests : q.link.outstanding = p.link.outstanding ∧ q.link.restart = p.link.restart ∧ q.link.drops = p.link.drops
  /-- What waits to be sent is what waited, with the notices of lanes that leave FAULT so. -/
  frames : let k := ((p.barrierLeaves .l0).barrierLeaves .l1).link
    q.link.waiting = k.waiting ∧ q.link.nextNotice = k.nextNotice ∧ q.link.lost = k.lost

/-- The command answers a next state: `p`, closed, with the memory and the queue as they were. -/
def endsAs (c : Instr) (s : State) (p : Part) : Prop :=
  ∃ t, exec c s = .next t ∧ t.mem = s.mem ∧ t.pending = s.pending ∧ p.Closes t.toPart

/-- The command answers a next state: `p`, closed, with `bytes` written to the memory from `a` on. -/
def writesAs (c : Instr) (s : State) (a : Nat) (bytes : List Byte) (p : Part) : Prop :=
  ∃ t, exec c s = .next t ∧ t.pending = s.pending ∧ p.Closes t.toPart ∧
    (∀ x, a ≤ x → x < a + bytes.length → x < memSize → memRead t.mem x = bytes.getD (x - a) unwritten) ∧
    ∀ x, x < a ∨ a + bytes.length ≤ x → memRead t.mem x = memRead s.mem x

/-! ## Invariants -/

/-- The memory is in its canonical form. -/
def State.memoryCanonical (s : State) : Prop := Memory.wf s.mem

/-- No barrier is driven LOWER onto a blocked beam, unless it already stands DOWN (R30). -/
def Part.lowersSafely (p : Part) : Prop :=
  ∀ l e, (p.laneEnd l e).barrier.driven = .lower → (p.laneEnd l e).beamLevel = true →
    (p.laneEnd l e).barrier.position = .down

/-! ## What single statements speak of -/

/-- The commands that end a write of the record memory, or a reset or startup that reaches it. -/
def reachesMemory : Instr → Bool
  | .trailRecordWritten | .trailReadMarkWritten | .ticketWritten | .ticketReadMarkWritten | .mirrorRecordWritten
  | .classRecordWritten | .settingsImageWritten | .registerRecordWritten | .calibrationImageWritten
  | .recordWriteFailed | .powerOn | .lineReset | .frameSent | .startup _ => true
  | _ => false

/-- The part before a request frame is judged: CAL_WRITE carries the level of CAL_EN. -/
def beforeRequest (c : Instr) (p : Part) : Part :=
  match c with
  | .calWrite _ _ _ calEn => { p with calEn := calEn }
  | _ => p

/-- The bytes of the record operation in progress, if it is a write. -/
def State.cutWrite (s : State) (a : Nat) : Prop :=
  ∃ o, s.store.op = some o ∧ o.kind.claimant ≠ none ∧ o.address ≤ a ∧ a < o.address + o.bytes.length

/-- R45, R74, R95: a lane, `x` before, from the start of a reset until startup finishes. Nothing is held or recorded, no
timer runs, both barriers are at STOP, and the pins keep their levels (log 4); the debounced levels and the blocked latches
are CLEAR until startup takes them (log 17). -/
def Lane.wiped (x y : Lane) : Prop :=
  y = x.clear ∧ y.state = .closed ∧ y.causes = .empty ∧ y.blocks = .empty ∧ y.stopLatch = false ∧
    y.stopInput = x.stopInput ∧ y.visit = none ∧ y.nextVisit = 0 ∧
    (∀ t ∈ [y.waitTimer, y.dwellTimer, y.quietTimer, y.settleTimer, y.clearTimer], t = .stopped) ∧ y.axles = [] ∧
    y.overflow = 0 ∧ y.withdrawn = [] ∧ y.axleInvalid = false ∧ y.exitAxles = 0 ∧
    ∀ e : LaneEnd, y.ends.get e =
      { latch1 := none, latch2 := none, decoder := .idle, beamRaw := (x.ends.get e).beamRaw, beamLevel := false
        beamLatch := false, debounce := .stopped, lastRead := none
        barrier := ⟨(x.ends.get e).barrier.up, (x.ends.get e).barrier.down, .stop, .stopped, false⟩ }

/-- R175, R180, R192: what every kind of reset leaves; the pins keep their levels (log 4), and the record memory its
contents, but for the slot of a write cut off. -/
def leavesReset (s t : State) (phase : Phase) (cause : ResetCause) (clock : Clock) : Prop :=
  t.phase = phase ∧ t.cause = cause ∧ t.clock = clock ∧ t.store = Store.afterReset ∧ t.tickets = TicketUnit.afterReset ∧
    t.audit = AuditUnit.afterReset ∧ t.tables = TableStore.afterReset ∧ t.pairing = Pairing.afterReset ∧
    t.monitor = ⟨none, 0⟩ ∧ t.link = Link.afterReset ∧ (∀ d : DeckId, t.toPart.deck d = Deck.afterReset) ∧
    t.calEn = s.calEn ∧ (∀ l, (s.toPart.lane l).wiped (t.toPart.lane l) ∧ ∀ e, t.toPart.signal l e = .red) ∧
    t.pending = s.pending ∧ ∀ a, ¬ s.cutWrite a → memRead t.mem a = memRead s.mem a

/-- A lane unchanged, but for a TRAIL_FULL report that a record handed to the trail may bring it (R160). -/
def sameButTrailFull (x y : Lane) : Prop := y = { x with blocks := { x.blocks with trailFull := y.blocks.trailFull } }

/-- What handing a record to the trail makes of it (R161), with the time as the part's clock stands. -/
def Part.handed (p : Part) (deck : Option DeckId) (body : TrailBody) : Trail :=
  p.audit.trail.hand ⟨deck, p.siteTime, p.clock.valid, body⟩ ⟨none, p.siteTime, p.clock.valid, .gap p.audit.trail.gap⟩

/-- The link once these notices have been handed over, in this order, with the time as the part's clock stands (R186). -/
def Part.told (p : Part) (bs : List NoticeBody) : Link := (bs.foldl Part.notify p).link

/-- A deck in TRADE without a step in flight, on an OPEN or CLOSED lane that holds no visit and has no cause. -/
def Part.tradesIdle (p : Part) (d : DeckId) : Prop :=
  (p.deck d).service = .trade ∧ p.inFlightOn d = none ∧ p.visit (laneOf d) = none ∧
    (p.lane (laneOf d)).causes = .empty ∧ ((p.lane (laneOf d)).state = .closed ∨ (p.lane (laneOf d)).state = .opened)

/-- R142-R145, R35, R36: `q` is `p` after a cause has brought the deck, `x` in `p`, from TRADE to FAULT with these causes:
its windows restart, its persisted state is judged, the change is handed to the trail, and its lane enters FAULT. -/
def Part.faultsDeck (p q : Part) (d : DeckId) (x : Deck) (causes : DeckCauses) : Prop :=
  let y := ({ x with causes := causes, service := .fault } : Deck).restart
  q.deck d = { y with persisted := y.persistedValue } ∧ (∀ e, e ≠ d → q.deck e = p.deck e) ∧
    (q.lane (laneOf d)).state = .fault ∧ (q.lane (laneOf d)).causes = { LaneCauses.empty with deckFault := true } ∧
    sameButTrailFull (p.lane (laneOf d).other) (q.lane (laneOf d).other) ∧
    q.audit = { p.audit with trail := p.handed (some d) (.service .trade .fault causes) } ∧ q.clock = p.clock ∧
    q.pairing = p.pairing ∧ q.tickets = p.tickets ∧ q.tables = p.tables

/-- R101: what an aborted visit leaves of its pending entry: a RESERVED one is removed, a CLAIMED one is OPEN again, and
its slot is dirty. The other slots are as they were. -/
def Part.releases (p q : Part) (v : Visit) : Prop :=
  (∀ j, v.pendingIndex ≠ some j → q.slot j = p.slot j) ∧
    ∀ i e, v.pendingIndex = some i → p.slot i = some e →
      (e.state = .reserved → q.slot i = none ∧ i ∈ q.pairing.dirty) ∧
      ∀ g l, e.state = .claimed g l → q.slot i = some { e with state := .opened g } ∧ i ∈ q.pairing.dirty

/-- The close step of a visit that ends on this OPEN lane brings nothing more (R72): no settings to adopt, no
CLOSE_REQUESTED, and no session that waits for the lane. -/
def Part.closesPlainly (p : Part) (l : LaneId) : Prop :=
  (p.lane l).state = .opened ∧ (p.lane l).adoptedActive = true ∧ (p.lane l).blocks.closeRequested = false ∧
    ∀ x, p.audit.session = some x → laneOf x.deck ≠ l

/-- R72, R114: a staging queue once the exit axle count of a visit has been entered in the ticket that it issued. -/
def exitEntered (l : LaneId) (count : Byte) (n : Nat) (ts : List StagedTicket) : List StagedTicket :=
  ts.map fun t => if t.tag = some (l, count) then { t with ticket := { t.ticket with exitAxles := some n } } else t

/-- R136: a search of this part of the register finds no entry, and passes over no slot that fails its check. -/
def searchPasses (hit : RegEntry → Prop) (slots : List (Nat × Slot (Option RegEntry))) : Prop :=
  ∀ x ∈ slots, x.2.damaged = true ∨ x.2.parityOk = true ∧ ∀ r, x.2.val = some r → ¬ hit r

/-- R67: the clear timer of a visit that enters EXITING or CLEARING now. -/
def Part.clearsFrom (p : Part) (l : LaneId) : Timer :=
  if (p.laneEnd l .a).beamLevel || (p.laneEnd l .b).beamLevel then .stopped else .running (p.clock.running + 20000)

/-- R61, R64, R26: a lane whose visit in SETTLING restarts its settle timer: the blocked latch of a CLEAR beam clears. -/
def Lane.resettles (x : Lane) (v : Visit) (t : Timer) : Lane :=
  { x with settleTimer := t, visit := some { v with storeWait := false }
           ends := ⟨{ x.ends.a with beamLatch := x.ends.a.beamLatch && x.ends.a.beamLevel },
             { x.ends.b with beamLatch := x.ends.b.beamLatch && x.ends.b.beamLevel }⟩ }

/-- R69, R67: a lane whose visit is aborted into CLEARING. -/
def Lane.aborts (x : Lane) (v : Visit) (reason : AbortReason) (clear : Timer) : Lane :=
  { x with visit := some { v with state := .clearing, abort := some reason, storeWait := false }
           quietTimer := .stopped, settleTimer := .stopped, clearTimer := clear }

/-- R177: a valid slot of this ring region carries the number `n`, which belongs to its position. -/
def holdsNumber {α : Type} (m : List Host.Cell) (k : SlotKind) (read : List Byte → Option (Nat × α)) (n : Nat) : Prop :=
  ∃ bs x, readSlot m k (ringSlot k n) = some bs ∧ read bs = some (n, x)

/-- R124, R177: what the scan of a ring region restores, with this read mark: the next number, one above the highest, and
the oldest one not acknowledged. The run back from the highest number takes in the numbers whose slot holds them and from
which every slot up to the highest holds its number or is invalid, at most as many as the region has slots; the mark counts
where it lies from the lowest of these up to the next number, and else the lowest does. -/
def scanned {α : Type} (m : List Host.Cell) (k : SlotKind) (read : List Byte → Option (Nat × α)) (mark : Option Nat)
    (next oldest : Nat) : Prop :=
  let holds := holdsNumber m k read
  let invalid := fun (n : Nat) => ∀ j, ringSlot k j = ringSlot k n → ¬ holds j
  ((∀ n, ¬ holds n) → next = 1 ∧ oldest = 1) ∧
  ∀ high, holds high → (∀ n, holds n → n ≤ high) →
    let joins := fun (n : Nat) => holds n ∧ high - n < k.slots ∧ ∀ j, n < j → j < high → holds j ∨ invalid j
    next = high + 1 ∧ ∀ low, joins low → (∀ n, joins n → low ≤ n) →
      (∀ x, mark = some x → low ≤ x → x ≤ high + 1 → oldest = x) ∧
      ((∀ x, mark = some x → x < low ∨ high + 1 < x) → oldest = low)

/-- R124, R177: the numbers that startup restores for the ticket store. -/
def State.restoredTickets (s : State) : Nat × Nat :=
  positions ((scanSlots s.mem .ticket readTicket).map (·.1)) .ticket (storedMark s.mem .ticketMark)

/-- R177: the numbers that startup restores for the trail, before its RESTART record. -/
def State.restoredTrail (s : State) : Nat × Nat :=
  positions ((scanSlots s.mem .trail readTrail).map (·.1)) .trail (storedMark s.mem .trailMark)

/-- R160, R179: the trail as startup leaves it. The RESTART record takes the next sequence number, unless a write has
failed; with the trail full, or its numbers exhausted, it is not written and the gap count starts at 1 (log 15). -/
def State.restoresTrail (s t : State) : Prop :=
  let r := s.restoredTrail
  let full := 1024 ≤ r.1 - r.2 ∨ 4294967295 < r.1
  t.audit.trail.oldest = r.2 ∧ t.audit.trail.staging = [] ∧
    (full → t.audit.trail.nextSeq = r.1 ∧ t.audit.trail.gap = 1) ∧
    (¬ full → t.audit.trail.nextSeq = (if t.store.fault then r.1 else r.1 + 1) ∧ t.audit.trail.gap = 0)

/-- R15, R23, R146, R178: the decks as startup restores them, each from its stored image and the highest change count that
the trail carries for it (ImageRestoreRows), with a receiver running where the deck has an entry; and the image write
marks, in deck order, of the valid images that the restored standing, counter or session marker differs from. -/
def State.restoresDecks (s t : State) : Prop :=
  let high := highestCount ((scanSlots s.mem .trail readTrail).map (·.2))
  let x := fun (d : DeckId) => Deck.afterReset.restore (storedImage s.mem d) (high d)
  let timer := fun (d : DeckId) => match storedImage s.mem d with
    | none => Timer.stopped
    | some i => .running (s.clock.running + 10 * i.entry.timeout)
  let behind := fun (d : DeckId) => match storedImage s.mem d with
    | none => false
    | some i => decide ((x d).persisted ≠ i.persisted ∨ (x d).counter ≠ i.counter ∨ i.marker ≠ none)
  (∀ d : DeckId, t.toPart.deck d = { (x d) with sampleTimer := timer d }) ∧
    t.store.tableQueue = (allDecks.filter behind).map .image

/-- R179: the last writes of startup, each where it is needed: the two read marks where the stored ones differ from the
numbers restored, and the RESTART record where the trail has room and a number for it. -/
def State.lastWrites (s : State) : List (Option (Nat × List Byte)) :=
  let c := startupCounts s.mem
  let r := s.restoredTrail
  let mark := fun (k : SlotKind) (n : Nat) =>
    if storedMark s.mem k = some n then none else some (k.address 0, markBytes k n)
  [mark .ticketMark s.restoredTickets.2, mark .trailMark r.2,
    if 1024 ≤ r.1 - r.2 ∨ 4294967295 < r.1 then none
    else some (SlotKind.trail.address ((r.1 - 1) % 1024), trailBytes r.1
      ⟨none, ⟨s.clock.sec, s.clock.ms⟩, s.clock.valid, .restart s.cause c.invalid c.byTrail c.mirrorLoss⟩)]

/-- R169, R179: the record memory as startup leaves it. The writes before one that fails its retry stand; what stands in
the slot of that one is open (log 6), and none after it is made. -/
def State.restoresMemory (failed : Option (Fin 3)) (s t : State) : Prop :=
  let fails := fun (i : Nat) => failed.map (·.val) = some i ∧ (s.lastWrites[i]?).join ≠ none
  let made := fun (i : Nat) => ∀ j, j < i → ¬ fails j
  (t.store.fault = true ↔ ∃ i, fails i) ∧
  (∀ i a bytes, s.lastWrites[i]? = some (some (a, bytes)) → made i → ¬ fails i →
    memBytes t.mem a bytes.length = bytes) ∧
  ∀ x, (∀ i a bytes, s.lastWrites[i]? = some (some (a, bytes)) → made i → x < a ∨ a + bytes.length ≤ x) →
    memRead t.mem x = memRead s.mem x

/-- R96: the entries `held` in their slots once the next creation number would have passed 4 294 967 295. They are numbered
from 1 in their order, an entry's number being one above the number of entries before it (entries of one number keep one
number, log 44), the next creation number is one above the last, and every occupied slot is dirty. -/
def Part.renumbers (q : Part) (held : Nat → Option PendingEntry) : Prop :=
  let before := fun (n : Nat) => (List.range 64).countP fun j => (held j).any fun f => decide (f.creation < n)
  (∀ j, j < 64 → q.slot j = (held j).map fun e => { e with creation := 1 + before e.creation }) ∧
    (∀ j, j < 64 → held j ≠ none → j ∈ q.pairing.dirty) ∧
    q.pairing.nextCreation = 1 + (List.range 64).countP fun j => (held j).isSome

/-- R110: the pending-tare list as startup restores it from the mirror. An invalid slot, a RESERVED entry, an entry that
another of its vehicle supersedes (of equal numbers the lower slot stays, log 35) and one that a written ticket has consumed
are taken as FREE; a CLAIMED entry is OPEN; and the slots that then differ from their mirror records are dirty, in slot
order. Where the highest number kept is 4 294 967 295 the entries kept are renumbered (R96). -/
def State.restoresPending (s t : State) : Prop :=
  let mirror := fun (i : Nat) => (readSlot s.mem .mirror i).bind (readMirror i)
  let held := fun (i : Nat) => (mirror i).join.bind fun e =>
    match e.state with
    | .reserved => none
    | .opened _ => some e
    | .claimed g _ => some { e with state := .opened g }
  let superseded := fun (i : Nat) (e : PendingEntry) => ∃ j f, j < 64 ∧ j ≠ i ∧ held j = some f ∧ f.vehicle = e.vehicle ∧
    (e.creation < f.creation ∨ e.creation = f.creation ∧ j < i)
  let consumed := fun (e : PendingEntry) => ∃ k ∈ (scanSlots s.mem .ticket readTicket).map (·.2), ∃ g,
    e.state = .opened g ∧ k.vehicle = e.vehicle ∧ k.side.lane = g.lane ∧ k.side.time = g.time
  ∃ kept : Nat → Option PendingEntry,
    (∀ i, i < 64 → (held i = none → kept i = none) ∧ ∀ e, held i = some e →
      ((superseded i e ∨ consumed e) → kept i = none) ∧ (¬ superseded i e → ¬ consumed e → kept i = some e)) ∧
    ((∀ i e, i < 64 → kept i = some e → e.creation < 4294967295) →
      (∀ i, i < 64 → t.toPart.slot i = kept i) ∧
      t.pairing.dirty = (List.range 64).filter (fun i => decide (mirror i ≠ some (kept i))) ∧
      (∀ i e, i < 64 → kept i = some e → e.creation < t.pairing.nextCreation) ∧
      (t.pairing.nextCreation = 1 ∨ ∃ i e, i < 64 ∧ kept i = some e ∧ t.pairing.nextCreation = e.creation + 1)) ∧
    (∀ i e, i < 64 → kept i = some e → 4294967295 ≤ e.creation → t.toPart.renumbers kept ∧
      ∀ j, j < 64 → mirror j ≠ some (kept j) → j ∈ t.pairing.dirty) ∧
    t.pairing.mirrorLoss = (List.range 64).countP (fun i => (mirror i).isNone) ∧ t.pairing.consignments = []

/-- R135, R140, R141: the tables as startup loads them. The class image is valid when its 48 records are valid and carry
the CRC-32 of their entries; a settings image that is not valid leaves the default one, and lanes that are not marked
valid; of two register slots with one tag the lower is loaded. -/
def State.restoresTables (s t : State) : Prop :=
  let image := fun (rs : List StoredClass) (crc : Nat) => (List.range 48).map (storedClass s.mem) = rs.map some ∧
    (∀ r ∈ rs, r.crc = crc) ∧ crc32 (rs.flatMap (·.bytes)) = crc
  let settings := (readSlot s.mem .settings 0).bind readSettingsRecord
  let register := fun (i : Nat) => ((readSlot s.mem .register i).bind (readRegRecord i)).join
  (∀ rs crc, image rs crc →
    t.tables.classActive.toList = rs.map (fun r => .fresh r.entry) ∧ t.tables.classCrc = crc) ∧
    ((∀ rs crc, ¬ image rs crc) →
      t.tables.classActive = Vector.replicate 48 (.fresh none) ∧ t.tables.classCrc = clearedClassCrc) ∧
    t.tables.classStaged = t.tables.classActive ∧ t.tables.settingsActive = settings.getD .default_ ∧
    t.tables.settingsStaged = t.tables.settingsActive ∧ t.tables.settingsPrevious = none ∧ t.tables.commit = none ∧
    t.tables.regChange = none ∧
    (∀ l, (t.toPart.lane l).adoptedActive = true ∧ (t.toPart.lane l).adoptedValid = settings.isSome) ∧
    ∀ i, i < 1024 → (register i = none → t.tables.regSlot i = .fresh none) ∧ ∀ r, register i = some r →
      ((∃ j e, j < i ∧ register j = some e ∧ e.tag = r.tag) → t.tables.regSlot i = .fresh none) ∧
      ((∀ j e, j < i → register j = some e → e.tag ≠ r.tag) → t.tables.regSlot i = .fresh (some r))

/-! ## Table entries (R128, R129) -/

/-- A field of an entry, least significant byte first, with the range that the manual gives it. -/
structure FieldRange where
  offset : Nat
  size : Nat
  low : Nat
  high : Nat
  deriving DecidableEq, Repr

/-- 07 7.2, in the layout of 11.3: a lane entry's kind, admitting ends, treadle spacing, axle window, speed band, group gap,
quiet and settle time, dwell limit, identity and consign timeout, move limit, debounce, overload action, preset tare use,
minimum gross and empty band. -/
def laneFields : List FieldRange :=
  [⟨0, 1, 1, 1⟩, ⟨1, 1, 1, 3⟩, ⟨2, 2, 500, 2000⟩, ⟨4, 2, 50, 2000⟩, ⟨6, 1, 10, 50⟩, ⟨7, 1, 50, 200⟩, ⟨8, 2, 1200, 3000⟩,
   ⟨10, 1, 1, 10⟩, ⟨11, 2, 500, 10000⟩, ⟨13, 2, 30, 900⟩, ⟨15, 2, 10, 300⟩, ⟨17, 2, 10, 600⟩, ⟨19, 1, 2, 20⟩,
   ⟨20, 2, 10, 500⟩, ⟨22, 1, 0, 1⟩, ⟨23, 1, 0, 1⟩, ⟨24, 2, 200, 5000⟩, ⟨26, 1, 1, 20⟩]

/-- 07 7.2, in the layout of 11.3: a site entry's kind, pending and consignment age limits, audit wait limit, hold limit and
preset tare maximum age. -/
def siteFields : List FieldRange :=
  [⟨0, 1, 2, 2⟩, ⟨1, 1, 1, 72⟩, ⟨2, 1, 10, 240⟩, ⟨3, 1, 1, 30⟩, ⟨4, 1, 1, 120⟩, ⟨5, 2, 1, 365⟩]

/-- Every field of the entry lies in its range. -/
def inRanges (fs : List FieldRange) (entry : List Byte) : Prop :=
  ∀ f ∈ fs, f.low ≤ field entry f.offset f.size ∧ field entry f.offset f.size ≤ f.high

/-- R129: a read of this entry finds a failure: its parity is wrong, and it was not marked damaged before. -/
def Slot.fails {α : Type} (s : Slot α) : Bool := !s.damaged && !s.parityOk

/-- R129: the PARITY notices of one read of the entries of an image, in their order (log 31). -/
def parityNotices (entry : Nat → ParityAt) (fails : List Bool) : List NoticeBody :=
  (fails.zipIdx.filter (·.1)).map fun x => .parity (entry x.2)

/-! ## Identity and classification (R53-R56) -/

/-- Lane `l` of `q` holds the visit `v` in ENTERING, and is else as in `p`: the dwell timer and the quiet timer run from
now (R53, R59). -/
def Part.entersWith (p q : Part) (l : LaneId) (v : Visit) : Prop :=
  q.lane l = { p.lane l with
    visit := some { v with state := .entering, storeWait := false }, waitTimer := .stopped, settleTimer := .stopped
    dwellTimer := .running (p.clock.running + 10000 * (p.settings l).dwellLimit)
    quietTimer := .running (p.clock.running + 10000 * (p.settings l).quietTime) }

/-- Lane `l` of `q` holds the visit `v` in CONSIGN_WAIT, and is else as in `p` (R53, R56). -/
def Part.awaitsWith (p q : Part) (l : LaneId) (v : Visit) : Prop :=
  q.lane l = { p.lane l with
    visit := some { v with state := .consignWait }
    waitTimer := .running (p.clock.running + 10000 * (p.settings l).consignTimeout)
    dwellTimer := .running (p.clock.running + 10000 * (p.settings l).dwellLimit) }

/-- R56: the consignment step of the visit `v` of vehicle `id`: a listed consignment is handed over and leaves the list. -/
def Part.consigned (p q : Part) (l : LaneId) (v : Visit) (id : VehicleId) : Prop :=
  (p.pairing.findConsignment id = none →
    p.awaitsWith q l v ∧ q.pairing.consignments = p.pairing.consignments) ∧
  ∀ c, p.pairing.findConsignment id = some c →
    p.entersWith q l { v with consignment := some c.consignment } ∧
      q.pairing.consignments = p.pairing.consignments.filter fun x => decide (x.vehicle ≠ id)

/-- R53-R56, R69, R72, R96, R98, R100: `q` is `p` after the visit `v` of lane `l`, without a pending entry, has taken the
identity `id`, by the rows of R54; the notice of a visit that ends at once is the only one. -/
def Part.identified (p q : Part) (l : LaneId) (v : Visit) (id : Identity) : Prop :=
  let known : Visit := { v with
    vehicle := some id.vehicle, regIndex := id.regIndex, permits := id.permits, preset := id.preset }
  let held := ∃ w, p.visit l.other = some w ∧ w.vehicle = some id.vehicle ∧ w.state ≠ .identify
  let day := p.clock.sec / 86400
  let presetOk := (p.settings l).presetUse = .whenFull ∧ p.clock.valid = true ∧
    ∃ t, id.preset = some t ∧ t.date ≤ day ∧ day ≤ t.date + p.site.presetAge
  let ended := fun (reason : AbortReason) => p.closesPlainly l →
    q.lane l = (p.lane l).emptySlot ∧ q.pairing = p.pairing ∧
      q.tickets = { p.tickets with staging := exitEntered l v.count (p.lane l).exitAxles p.tickets.staging } ∧
      q.link = (p.notify (.visitAborted l v.count (some id.vehicle) v.kind reason)).link ∧
      q.lane l.other = p.lane l.other ∧ q.decks = p.decks ∧ q.audit = p.audit ∧ q.tables = p.tables ∧ q.store = p.store
  let goesOn := q.link = p.link ∧ q.lane l.other = p.lane l.other ∧ q.decks = p.decks ∧ q.tickets = p.tickets ∧
    q.audit = p.audit ∧ q.tables = p.tables ∧ q.store = p.store ∧ q.clock = p.clock
  (held → ended .duplicateVisit) ∧
  (¬ held →
    (∀ i e, p.pairing.find id.vehicle = some (i, e) →
      (∀ g, e.state = .opened g → goesOn ∧
        p.entersWith q l { known with kind := some .tare, pendingIndex := some i } ∧
        q.slot i = some { e with state := .claimed g l } ∧ (∀ j, j ≠ i → q.slot j = p.slot j) ∧
        i ∈ q.pairing.dirty ∧ q.pairing.consignments = p.pairing.consignments ∧
        q.pairing.nextCreation = p.pairing.nextCreation) ∧
      ((∀ g, e.state ≠ .opened g) → ended .pendingFull)) ∧
    (p.pairing.find id.vehicle = none →
      (∀ i, p.pairing.freeSlot = some i → goesOn ∧
        p.consigned q l { known with kind := some .gross, pendingIndex := some i } id.vehicle ∧ i ∈ q.pairing.dirty ∧
        let held := fun (j : Nat) =>
          if j = i then some ⟨id.vehicle, id.regIndex, .reserved, p.pairing.nextCreation⟩ else p.slot j
        (p.pairing.nextCreation < 4294967295 → (∀ j, q.slot j = held j) ∧
          q.pairing.nextCreation = p.pairing.nextCreation + 1) ∧
        (p.pairing.nextCreation = 4294967295 → q.renumbers held)) ∧
      (p.pairing.freeSlot = none →
        (presetOk → goesOn ∧ p.consigned q l { known with kind := some .grossPreset } id.vehicle ∧
          q.pairing.slots = p.pairing.slots ∧ q.pairing.dirty = p.pairing.dirty) ∧
        (¬ presetOk → ended .pendingFull))))

/-- R104: the OPEN entries that a scan now finds overdue, each with its slot and its gross side, in the list's order. -/
def Part.overdueEntries (p : Part) : List (Nat × PendingEntry × GrossSide) :=
  p.pairing.order.filterMap fun i => (p.slot i).bind fun e =>
    match e.state with
    | .opened g => if g.time.toMs + p.site.pendingAge * 3600000 < p.siteTime.toMs then some (i, e, g) else none
    | _ => none

/-! ## Frames on the serial links (11.2) -/

/-- A frame with its delimiter and its CRC-16, escaped. -/
def onWire (body : List Byte) : List Byte := delimiter :: escapeBytes (body ++ leBytes 2 (crc16 body))

/-- A sample frame: each cell with its raw count and the code of its status. -/
def sampleWire (node deck seq : Byte) (cells : List (BitVec 24 × Byte)) : List Byte :=
  onWire (node :: deck :: seq :: BitVec.ofNat 8 cells.length :: cells.flatMap fun c => leBytes 3 c.1.toNat ++ [c.2])

/-- A tag frame. -/
def tagWire (reader : Nat) (tag : TagId) : List Byte := onWire (BitVec.ofNat 8 reader :: leBytes 6 tag.toNat)

/-- A REQUEST frame of the yard link. -/
def requestWire (corr : U16) (body : List Byte) : List Byte :=
  onWire (leBytes 2 (body.length + 8) ++ 1 :: (leBytes 2 corr.toNat ++ body))

/-- R2, R5, R7-R13, R19: deck `d` after a valid sample frame with every cell in use GOOD, but for the tracking of its
zero. -/
def Part.sampled (p : Part) (d : DeckId) (c : CalEntry) (f : Sample) : Deck :=
  let used := (f.cells.take c.cells.length).map (·.2)
  let n := missing (p.deck d).lastSeq f.seq
  let w := if 3 < n then { (p.deck d).restart with clearance := .stopped } else p.deck d
  let x : Deck := { w with lastSeq := some f.seq, gapCount := min 65535 ((p.deck d).gapCount + n)
                           sampleTimer := .running (p.clock.running + 10 * c.timeout) }
  let y : Deck := if x.remembered.take c.cells.length = used then x else x.restart
  ({ y with
    remembered := used ++ List.replicate (8 - c.cells.length) .good, badCells := false
    clearance := if y.clearance.isRunning = false ∧ (y.causes.linkLoss = true ∨ y.causes.cellFault = true) then
      .running (p.clock.running + 20000) else y.clearance } : Deck).take c
        (List.zipWith (fun k v => cellGrams k v.1) c.cells f.cells).sum

end Sys2Proof.Machine
end

