-- ==== Sys2Proof/Certificates/Slice0/Obligations.lean ====
section
/-! DEFINITION. The statements for the provers. `endsAs c s q` says that the command answers a next state, which is `q`
with the outputs following and the transmitter served (Part.Closes), the memory and the queue unchanged. -/

open Sys2Proof Sys2Proof.Machine

/-! ## The machine -/

/-- A step takes the command at the front of the queue, and runs it on the state with the queue's rest. -/
def Obligations.StepTakesFront : Prop :=
  ∀ (c : Instr) (rest : List Instr) (s : State), s.pending = c :: rest → step s = exec c { s with pending := rest }

/-- The model's choice (log 2, log 19): on an empty queue the first event that is due is taken, else 0.1 ms passes. -/
def Obligations.IdleStep : Prop :=
  ∀ s : State, s.pending = [] →
    (s.toPart.dueEvent = none → step s = .next { s with clock := s.clock.elapse 1 }) ∧
    ∀ i, s.toPart.dueEvent = some i → step s = exec i s

/-- No command stops the machine, no command touches the queue, every byte of the record memory stays as it was but for
the ends of writes, resets and startup, and no command leaves an image write mark in the making (the model's own field,
log 47). -/
def Obligations.NoCommandStops : Prop :=
  ∀ (c : Instr) (s : State), ∃ t, exec c s = .next t ∧ t.pending = s.pending ∧ t.store.marking = [] ∧
    (reachesMemory c = false → ∀ a, memRead t.mem a = memRead s.mem a)

/-- Every step keeps the memory in its canonical form. -/
def Obligations.MemoryStaysCanonical : Prop :=
  ∀ s t : State, s.memoryCanonical → step s = .next t → t.memoryCanonical

/-- Every step keeps every barrier from being driven LOWER onto a blocked beam, unless it stands DOWN (R30). -/
def Obligations.LoweringStaysSafe : Prop :=
  ∀ s t : State, s.toPart.lowersSafely → step s = .next t → t.toPart.lowersSafely

/-- Every step keeps every parity right (log 16: no command makes a parity fail). -/
def Obligations.ParityStaysRight : Prop :=
  ∀ s t : State, s.toPart.parityRight → step s = .next t → t.toPart.parityRight

/-- The three invariants hold at reset, and no image write mark is in the making (log 47). -/
def Obligations.InvariantsHoldAtReset : Prop :=
  State.reset.memoryCanonical ∧ State.reset.toPart.lowersSafely ∧ State.reset.toPart.parityRight ∧
    State.reset.store.marking = []

/-- The end of a step: where the settings in use are settled, Part.finish does what Part.Closes allows and no more; with
every parity right they are settled. And where they are not (R129, R138): a lane's entry in force that fails its check when
it is read is marked damaged and reported, and SETTINGS_PARITY faults the lane, here one without a visit or a cause, which
from then on works with the default entry, as BEAM_LEVEL_CHANGE does in that same step; the site entry in force faults
both lanes (lane 0 first, log 40). -/
def Obligations.FinishCloses : Prop :=
  (∀ p : Part, p.settingsSettled → p.Closes p.finish) ∧ (∀ p : Part, p.parityRight → p.settingsSettled) ∧
  let faults := fun (p : Part) (l : LaneId) =>
    (p.modLane l fun y => { y with
      state := .fault, causes := { LaneCauses.empty with settingsParity := true } }).notify
        (.laneState l .fault { LaneCauses.empty with settingsParity := true })
  let idle := fun (p : Part) (l : LaneId) =>
    (p.lane l).causes = .empty ∧ p.visit l = none ∧ ((p.lane l).state = .closed ∨ (p.lane l).state = .opened)
  (∀ (p : Part) (l : LaneId), idle p l →
    let x := (p.adopted l).lanes.get l
    x.damaged = false → x.parityOk = false →
    let q := faults ((p.modAdopted l fun i => { i with lanes := i.lanes.set l { x with damaged := true } }).notify
      (.parity (.settingsEntry (p.adoptedName l) l.toNat))) l
    p.checkLane l = q ∧ q.settings l = .default_ ∧
    ∀ (e : LaneEnd) (blocked : Bool) (s : State), s.toPart = p → p.phase = .running →
      (p.laneEnd l e).beamRaw ≠ blocked → (p.laneEnd l e).beamLevel ≠ blocked → q.settingsSettled →
      endsAs (.beamLevelChange l e blocked) s (q.modEnd l e fun y => { y with
        beamRaw := blocked, debounce := .running (p.clock.running + 10 * LaneEntry.default_.debounce) })) ∧
  ∀ p : Part, idle p .l0 → idle p .l1 → p.siteImage.site.damaged = false → p.siteImage.site.parityOk = false →
    let mark := fun (i : SettingsImage) => { i with site := { i.site with damaged := true } }
    let tables := match p.tables.settingsPrevious with
      | some i => { p.tables with settingsPrevious := some (mark i) }
      | none => { p.tables with settingsActive := mark p.tables.settingsActive }
    let name := if p.tables.settingsPrevious.isSome then ImageName.previous else .active
    p.checkSite = faults (faults (({ p with tables := tables } : Part).notify (.parity (.settingsEntry name 2))) .l0) .l1 ∧
      p.checkSite.site = .default_

/-- R27: the position that the two switches give, and when a barrier is at the position of its driven command. -/
def Obligations.BarrierPosition : Prop :=
  ∀ b : Barrier,
    (b.up = true → b.down = false → b.position = .up) ∧ (b.up = false → b.down = true → b.position = .down) ∧
    (b.up = false → b.down = false → b.position = .between) ∧ (b.up = true → b.down = true → b.position = .conflict) ∧
    (b.at b.driven = true ↔ (b.driven = .raise ∧ b.position = .up) ∨ (b.driven = .lower ∧ b.position = .down))

/-- R30: the driven command follows the wanted one, but a lowering is deferred to STOP while the beam is BLOCKED and the
position is not DOWN, the wanted command staying LOWER; and with a set stop latch both barriers are wanted STOP. -/
def Obligations.LoweringIsDeferred : Prop :=
  ∀ (p : Part) (l : LaneId) (e : LaneEnd),
    let b := (p.laneEnd l e).barrier
    let d := (p.driven l e).barrier.driven
    let deferred := p.wanted l e = .lower ∧ (p.laneEnd l e).beamLevel = true ∧ b.position ≠ .down
    (deferred → d = .stop) ∧ (¬ deferred → d = p.wanted l e) ∧
    ((p.lane l).stopLatch = true → p.wanted l e = .stop ∧ d = .stop)

/-- R33: what each end of a running lane shows and wants while its stop latch is clear, and what a latched lane does. -/
def Obligations.LaneOutputsFollowState : Prop :=
  ∀ (x : Lane) (ends : Admitting) (e : LaneEnd),
    (x.stopLatch = true → x.outputs .running ends e = (.red, .stop)) ∧
    (x.stopLatch = false →
      (x.visit = none → x.state ≠ .opened → x.outputs .running ends e = (.red, .lower)) ∧
      (x.visit = none → x.state = .opened →
        x.outputs .running ends e = (if x.admits = true ∧ ends.admits e = true then .green else .red, .lower)) ∧
      ∀ v, x.visit = some v →
        (v.state = .clearing → x.outputs .running ends e = (.red, if v.entry = e then .raise else .lower)) ∧
        (x.state = .opened → v.state = .entering →
          x.outputs .running ends e = if v.entry = e then (.green, .raise) else (.red, .lower)) ∧
        (x.state = .opened → v.state = .exiting →
          x.outputs .running ends e = if v.entry = e then (.red, .lower) else (.green, .raise)) ∧
        (x.state = .opened → v.state ≠ .clearing → v.state ≠ .entering → v.state ≠ .exiting →
          x.outputs .running ends e = (.red, .lower)))

/-! ## The yard link -/

/-- The rows of R182 that answer or drop a request before any block sees it. -/
def Obligations.RequestsAnsweredAtOnce : Prop :=
  ∀ (c : Instr) (corr : U16) (r : Req) (s : State), requestOf c = some (corr, r) → s.toPart.settingsSettled →
    let p := beforeRequest c s.toPart
    (s.phase = .resetting → endsAs c s p.countDrop) ∧
    (16 ≤ s.link.responses.length → endsAs c s p.countDrop) ∧
    (s.link.responses.length < 16 →
      (s.phase = .startup → r ≠ .status → endsAs c s (p.respondNow corr r.code .starting false)) ∧
      (s.phase = .running → s.link.restart.isSome = true → r ≠ .status →
        endsAs c s (p.respondNow corr r.code .busy false)) ∧
      (s.phase = .running → s.link.restart = none → (∃ o ∈ s.link.outstanding, o.corr = corr) →
        endsAs c s (p.respondNow corr r.code .badValue true)) ∧
      (s.phase = .running → s.link.restart = none → (∀ o ∈ s.link.outstanding, o.corr ≠ corr) →
        8 ≤ s.link.outstanding.length → endsAs c s (p.respondNow corr r.code .busy false)))

/-- R181, R182, R193: the frames that are not dropped are the REQUEST frames in the layout of 11.2, of at most 512 bytes,
whatever bytes follow them. A frame that is malformed, fails its CRC-16 or is not a REQUEST is dropped and counted; one
whose code names no request, or whose body does not fit it, is refused at once, STARTING, BUSY or BAD_VALUE, or dropped
with the response queue full. That a frame with an empty body meets these rows as a request other than STATUS, with some
code in its refusal, is the model's choice (log 46). -/
def Obligations.BadYardFrames : Prop :=
  (∀ wire : List Byte, yardFrameBad wire = false ↔ ∃ (corr : U16) (body rest : List Byte),
    body.length + 8 ≤ 512 ∧ wire = requestWire corr body ++ rest) ∧
  ∀ s : State, s.toPart.settingsSettled →
    (∀ wire, s.phase ≠ .resetting → yardFrameBad wire = true → endsAs (.yardFrameDrop wire) s
      { s.toPart with link := { s.link with drops := min 65535 (s.link.drops + 1) } }) ∧
    ∀ corr code arguments, (Instr.unknownRequest corr code arguments).wf = true →
      let c := Instr.unknownRequest corr code arguments
      let answers := fun (x : Reason) =>
        (∀ b, code = some b → endsAs c s (s.toPart.respondNow corr b.toNat x false)) ∧
        (code = none → ∃ b : Byte,
          endsAs c s (({ s.toPart with fresh := s.fresh + 1 } : Part).respondNow corr b.toNat x false))
      (s.phase = .resetting ∨ 16 ≤ s.link.responses.length → endsAs c s s.toPart.countDrop) ∧
      (s.link.responses.length < 16 →
        (s.phase = .startup → code ≠ some 1 → answers .starting) ∧
        (s.phase = .startup → code = some 1 → answers .badValue) ∧
        (s.phase = .running → s.link.restart.isSome = true → code ≠ some 1 → answers .busy) ∧
        (s.phase = .running → s.link.restart.isSome = true → code = some 1 → answers .badValue) ∧
        (s.phase = .running → s.link.restart = none → answers .badValue))

/-- R184, R185: which frame the free transmitter takes; and a response sent in full frees its outstanding entry, while
any other frame frees nothing. -/
def Obligations.TransmitterServes : Prop :=
  (∀ k : Link, k.tx = none →
    (∀ r rs, k.responses = r :: rs → k.kick = { k with responses := rs, tx := some (.response r) }) ∧
    (k.responses = [] → ∀ n ns, k.urgent = n :: ns → k.kick = { k with urgent := ns, tx := some (.notice n) }) ∧
    (k.responses = [] → k.urgent = [] → ∀ n ns, k.routine = n :: ns →
      k.kick = { k with routine := ns, tx := some (.notice n) }) ∧
    (k.responses = [] → k.urgent = [] → k.routine = [] → ∀ m, k.monitorSlot = some m →
      k.kick = { k with monitorSlot := none, tx := some (.monitor m) }) ∧
    (k.responses = [] → k.urgent = [] → k.routine = [] → k.monitorSlot = none → k.kick = k)) ∧
  ∀ (s : State) (f : OutFrame), s.toPart.settingsSettled → s.link.tx = some f → s.link.sendsRestart = false →
    endsAs .frameSent s { s.toPart with link := { s.link with
      tx := none
      outstanding := match f with
        | .response r => if r.immediate then s.link.outstanding else s.link.outstanding.filter fun o => o.corr ≠ r.corr
        | _ => s.link.outstanding } }

/-- R186: what becomes of a notice handed to the interface. -/
def Obligations.NoticeQueueRows : Prop :=
  ∀ (p : Part) (b : NoticeBody),
    let n : Notice := { number := p.link.nextNotice, time := p.siteTime, valid := p.clock.valid, body := b }
    let k : Link := { p.link with nextNotice := p.link.nextNotice + 1 }
    let held := p.link.urgent.length + p.link.routine.length
    (held < 32 → b.urgent = false → p.notify b = { p with link := { k with routine := k.routine ++ [n] } }) ∧
    (held < 32 → b.urgent = true → p.notify b = { p with link := { k with urgent := k.urgent ++ [n] } }) ∧
    (32 ≤ held → b.urgent = false → p.notify b = { p with link := { k with lost := true } }) ∧
    (32 ≤ held → b.urgent = true → k.routine ≠ [] → p.notify b =
      { p with link := { k with routine := k.routine.dropLast, urgent := k.urgent ++ [n], lost := true } }) ∧
    (32 ≤ held → b.urgent = true → k.routine = [] → p.notify b = { p with link := { k with lost := true } })

/-- R187, R188: STATUS is answered DONE with the part's state in every state of the part, startup included and while a
RESTART is pending, and clears the notices-lost flag that it reports. During startup it gives each lane's outputs of the
row "reset in progress" (RED, STOP); else every group, with what each lane has adopted (R129). That the STATUS counts
among the outstanding requests is the model's choice (log 36). -/
def Obligations.StatusReportsState : Prop :=
  ∀ (corr : U16) (s : State), s.toPart.settingsSettled → s.phase ≠ .resetting → s.link.responses.length < 16 →
    s.link.outstanding.length < 8 → (∀ o ∈ s.link.outstanding, o.corr ≠ corr) →
    let p := s.toPart.admitted corr .status
    let visit := fun (l : LaneId) => (s.toPart.visit l).map fun v => ({
      count := v.count, state := v.state, kind := v.kind, entry := v.entry, vehicle := v.vehicle
      exitOverrun := v.exitOverrun, overstaySent := v.overstaySent, storeWait := v.storeWait
      heldReleased := v.heldReleased } : VisitStatus)
    let lane := fun (l : LaneId) =>
      let a := s.toPart.laneEnd l .a
      let b := s.toPart.laneEnd l .b
      ({ state := (s.toPart.lane l).state, causes := (s.toPart.lane l).causes, blocks := (s.toPart.lane l).blocks
         beamLatches := ⟨a.beamLatch, b.beamLatch⟩, positions := ⟨a.barrier.position, b.barrier.position⟩
         failures := ⟨a.barrier.failed, b.barrier.failed⟩, imageValid := (s.toPart.lane l).adoptedValid
         imageCrc := (s.toPart.adopted l).crc, adoptedActive := (s.toPart.lane l).adoptedActive } : LaneStatus)
    let deck := fun (d : DeckId) =>
      let x := s.toPart.deck d
      ({ service := x.service, causes := x.causes, status := x.status, displayed := x.published.map (·.displayed)
         counter := x.counter, usable := x.usable } : DeckStatus)
    ∃ r : StatusReport, endsAs (.status corr) s
        ({ p with link := { p.link with lost := false } }.done corr .status (.status r)) ∧
      r.part = { startup := decide (s.phase = .startup), cause := s.cause, time := ⟨s.clock.sec, s.clock.ms⟩,
                 valid := s.clock.valid, lost := s.link.lost, nextNotice := s.link.nextNotice, drops := s.link.drops,
                 outstanding := s.link.outstanding.length + 1, restartPending := s.link.restart.isSome } ∧
      r.lanes = ⟨(s.toPart.lane .l0).state, (s.toPart.lane .l1).state⟩ ∧ r.storeFault = s.store.fault ∧
      (s.phase = .startup → r.full = none ∧
        r.starting = some ⟨⟨⟨.red, .red⟩, ⟨.stop, .stop⟩⟩, ⟨⟨.red, .red⟩, ⟨.stop, .stop⟩⟩⟩) ∧
      (s.phase = .running → r.starting = none ∧ r.full = some {
        lanes := ⟨lane .l0, lane .l1⟩, visits := ⟨visit .l0, visit .l1⟩
        decks := [deck 0, deck 1, deck 2, deck 3, deck 4, deck 5], hold := s.store.hold.name
        unread := s.tickets.nextSerial - s.tickets.oldestUnread, nextSerial := s.tickets.nextSerial
        oldestUnread := s.tickets.oldestUnread, stagedTickets := s.tickets.staging.length
        ticketAck := s.tickets.ack.isSome, trailFree := s.audit.trail.free
        unacknowledged := s.audit.trail.nextSeq - s.audit.trail.oldest, nextSeq := s.audit.trail.nextSeq
        oldestSeq := s.audit.trail.oldest, stagedTrail := s.audit.trail.staging.length, trailGap := s.audit.trail.gap
        pendingHeld := s.pairing.held
        dirtySlots := (List.range 64).countP fun i =>
          decide (i ∈ s.pairing.dirty) || decide (s.store.op.map (·.kind) = some (.mirror i))
        consignments := s.pairing.consignments.length
        session := s.audit.session.map fun x => {
          deck := x.deck, reason := x.reason, active := x.atOpen.isSome, writes := x.writes, steps := x.steps.length
          firstCounted := x.firstCounted, inFlight := x.inFlight }
        classCrc := s.tables.classCrc, settingsCrc := s.tables.settingsActive.crc
        previousCrc := s.tables.settingsPrevious.map (·.crc), commit := s.tables.commit.map (·.table)
        monitor := s.monitor.selection })

/-- R190, R191, R193: TIME_SET sets the site clock and its valid flag, and leaves the running count; RESTART is pending,
refused while a lane holds a visit and FORCE is not given, and refused BAD_VALUE with a FORCE that is no flag. -/
def Obligations.TimeSetAndRestart : Prop :=
  ∀ (corr : U16) (s : State), s.toPart.settingsSettled → s.toPart.takes corr →
    let p := s.toPart.admitted corr .timeSet
    let r := s.toPart.admitted corr .restart
    (∀ (sec : U32) (ms : U16), (ms.toNat ≤ 999 → endsAs (.timeSet corr sec ms) s
        ({ p with clock := { running := s.clock.running, sec := sec.toNat, ms := ms.toNat, valid := true,
                             boundaryDue := false } }.done corr .timeSet)) ∧
      (999 < ms.toNat → endsAs (.timeSet corr sec ms) s (p.refuse corr .timeSet .badValue))) ∧
    (∀ force, ((force = true ∨ s.toPart.visit .l0 = none ∧ s.toPart.visit .l1 = none) →
        endsAs (.restart corr (.known force)) s
          ({ r with link := { r.link with restart := some corr } }.done corr .restart)) ∧
      (force = false → (s.toPart.visit .l0).isSome ∨ (s.toPart.visit .l1).isSome →
        endsAs (.restart corr (.known force)) s (r.refuse corr .restart .wrongState))) ∧
    ∀ code, endsAs (.restart corr (.undefined code)) s (r.refuse corr .restart .badValue)

/-! ## Resets and startup -/

/-- R175, R180, R189, R192: each kind of reset, from every state. A commanded reset begins when the DONE of the RESTART
has been sent in full (R191). Startup begins at the release of the RESET line. The registers that the manual leaves open
until startup takes them hold the values of log 17, and the pins keep their levels, as the model chooses (log 4); that a
power-on begins startup at once (log 30), that a reset clears the mark of a due boundary (log 3), and that a release of a
line that is not asserted changes nothing (log 1) are its choices too. -/
def Obligations.ResetsClearEverything : Prop :=
  ∀ s : State,
    (∃ t, exec .powerOn s = .next t ∧
      leavesReset s t .startup .power { running := 0, sec := 0, ms := 0, valid := false, boundaryDue := false }) ∧
    (∃ t, exec .lineReset s = .next t ∧
      leavesReset s t .resetting .line { s.clock with running := 0, boundaryDue := false }) ∧
    (s.link.sendsRestart = true → ∃ t, exec .frameSent s = .next t ∧
      leavesReset s t .startup .command { s.clock with running := 0, boundaryDue := false }) ∧
    (s.toPart.settingsSettled → s.phase = .resetting → endsAs .lineResetRelease s
      { s.toPart with phase := .startup, clock := { s.clock with running := 0, boundaryDue := false } }) ∧
    (s.toPart.settingsSettled → s.phase ≠ .resetting → endsAs .lineResetRelease s s.toPart)

/-- R15, R23, R34, R45, R96, R110, R120, R124, R135, R140, R141, R146, R160, R176-R179: startup finishes, with no write
failing or with any one of its last three (log 15), with the ticket serials and trail numbers of the scans (`scanned`), the
decks, the pending-tare list, renumbered where its next number would pass the last one, the tables and the trail that it
restores, the bytes that it writes to the record memory, and the reports to the lanes. The part stands as a reset left it
(ResetsClearEverything). That the STARTUP notice comes before the lanes' own, that the transmitter has begun it at the end
of the step, how a write fails and that a RESTART record then lost is dropped, which of two mirror entries with one number
stays, how entries of one number are renumbered, that no claim is granted within the step and that all of startup is one
step are the model's choices (log 27, log 10, log 15, log 6, log 35, log 44, log 49, log 51). -/
def Obligations.StartupFinishes : Prop :=
  ∀ (failed : Option (Fin 3)) (s : State), s.phase = .startup → s.tables = TableStore.afterReset →
    s.store = Store.afterReset → s.tickets = TicketUnit.afterReset → s.audit = AuditUnit.afterReset →
    s.link = Link.afterReset → s.pairing = Pairing.afterReset → (∀ d : DeckId, s.toPart.deck d = Deck.afterReset) →
    (∀ l, s.toPart.lane l = (s.toPart.lane l).clear) →
    ∃ t, exec (.startup failed) s = .next t ∧ t.pending = s.pending ∧ t.phase = .running ∧ t.cause = s.cause ∧
      (failed = none → t.store.fault = false) ∧ t.tickets.nextSerial = s.restoredTickets.1 ∧
      t.tickets.oldestUnread = s.restoredTickets.2 ∧ t.tickets.staging = [] ∧
      scanned s.mem .ticket readTicket (storedMark s.mem .ticketMark) t.tickets.nextSerial t.tickets.oldestUnread ∧
      scanned s.mem .trail readTrail (storedMark s.mem .trailMark) s.restoredTrail.1 s.restoredTrail.2 ∧
      (∃ n : Notice, t.link.tx = some (.notice n) ∧ n.number = 0 ∧
        n.body = .startup s.cause s.clock.valid t.store.fault (startupCounts s.mem)) ∧
      (∀ d : DeckId, (t.toPart.deck d).service =
        (Deck.afterReset.restore (storedImage s.mem d)
          (highestCount ((scanSlots s.mem .trail readTrail).map (·.2)) d)).service) ∧
      s.restoresDecks t ∧ s.restoresPending t ∧ s.restoresTables t ∧ s.restoresTrail t ∧ s.restoresMemory failed t ∧
      ∀ l, (t.toPart.lane l).visit = none ∧ (t.toPart.lane l).stopLatch = (s.toPart.lane l).stopInput ∧
        (t.toPart.lane l).blocks.storeFault = t.store.fault ∧
        (t.toPart.lane l).blocks = { Blocks.empty with
          storeNearFull := decide (2032 ≤ t.tickets.nextSerial - t.tickets.oldestUnread), storeFault := t.store.fault
          trailFull := decide (1024 ≤ t.audit.trail.nextSeq - t.audit.trail.oldest) } ∧
        ((t.toPart.lane l).state = .fault ↔
          (s.toPart.lane l).stopInput = true ∨ ∃ d ∈ l.decks, (t.toPart.deck d).service = .fault) ∧
        ((t.toPart.lane l).state ≠ .fault → (t.toPart.lane l).state = .closed) ∧
        ∀ e, (t.toPart.laneEnd l e).beamLevel = (s.toPart.laneEnd l e).beamRaw ∧
          (t.toPart.laneEnd l e).beamLatch = (s.toPart.laneEnd l e).beamRaw

/-- R178: the three rows for a deck's image, by its change counter and the highest one in the trail. -/
def Obligations.ImageRestoreRows : Prop :=
  ∀ (x : Deck) (high : Option Nat),
    (let y := x.restore none high
     y.cal = none ∧ y.counter = high.getD 0 ∧ y.service = .fault ∧
       y.causes = ⟨false, false, false, false, true⟩ ∧ y.marker = none) ∧
    ∀ i : CalImage,
      let y := x.restore (some i) high
      y.cal = some ⟨i.entry, true, false⟩ ∧ y.zd = some (1000 * i.entry.zcal) ∧ y.marker = none ∧
      (high.getD 0 ≤ i.counter → y.counter = i.counter ∧ y.causes = i.persisted.causes ∧
        y.service = if 1 ≤ i.marker.getD 0 then .suspended else i.persisted.state) ∧
      (i.counter < high.getD 0 → y.counter = high.getD 0 ∧
        y.causes = { i.persisted.causes with imageInvalid := true } ∧
        y.service = if i.marker.isSome then .suspended else .fault)

/-! ## Deck channels -/

/-- R9, R11, R12, R13: what a good sample makes of the windows, the published values and the weight status; rounding goes
to the nearest whole number, halves away from zero (00_scope.md, Masses). -/
def Obligations.SamplePublishes : Prop :=
  (∀ num den : Int, 0 < den →
    let r := roundHalfAway num den
    2 * |num - r * den| ≤ den ∧ (2 * |num - r * den| = den → |num| ≤ |r * den|)) ∧
  ∀ (x : Deck) (c : CalEntry) (raw : Int), x.cal = some ⟨c, true, false⟩ → x.badCells = false →
    let y := x.take c raw
    let f := roundHalfAway y.filter.sum y.filter.length
    let net := f - x.zd.getD 0
    y.filter = (x.filter ++ [raw]).drop (x.filter.length + 1 - c.filterDepth) ∧
    y.stability = (x.stability ++ [f]).drop (x.stability.length + 1 - 8) ∧
    (∃ w, y.published = some w ∧ w.filtered = f ∧ w.net = net ∧
      w.displayed = c.e * roundHalfAway net (1000 * c.e) ∧ w.expanded = 100 * c.e * roundHalfAway net (100 * c.e) ∧
      (c.capacity + 9 * c.e < w.displayed → y.status = .over) ∧
      (w.displayed ≤ c.capacity + 9 * c.e → y.stability.length = 8 → spread y.stability ≤ c.motionBand * c.e * 1000 →
        y.status = .stable) ∧
      (w.displayed ≤ c.capacity + 9 * c.e → (y.stability.length ≠ 8 ∨ c.motionBand * c.e * 1000 < spread y.stability) →
        y.status = .motion)) ∧
    y.lastSeq = x.lastSeq ∧ y.service = x.service ∧ y.zd = x.zd ∧ y.cal = x.cal ∧ y.causes = x.causes

/-- R1, R23, R193: the frames that are not corrupt are those in the layout of 11.2, with 1 to 8 cells, codes above 3 taken
as OPEN. A frame that is corrupt, names another node or deck, has too few cells, repeats the last sequence number, or
meets a deck without a usable entry or a part that has not started, is dropped. -/
def Obligations.WrongSampleDropped : Prop :=
  (∀ (wire : List Byte) (f : Sample), parseSample wire = some f ↔
    ∃ (node deck seq : Byte) (cells : List (BitVec 24 × Byte)), 1 ≤ cells.length ∧ cells.length ≤ 8 ∧
      wire = sampleWire node deck seq cells ∧
      f = ⟨node.toNat, deck.toNat, seq.toNat, cells.map fun c => (c.1.toInt,
        if c.2 = 0 then .good else if c.2 = 1 then .overRange else if c.2 = 2 then .underRange else .opened)⟩) ∧
  ∀ (d : DeckId) (wire : List Byte) (s : State), s.toPart.settingsSettled →
    (s.phase ≠ .running ∨ (s.toPart.deck d).usable = false ∨ parseSample wire = none ∨
      ∃ f c, parseSample wire = some f ∧ (s.toPart.deck d).cal = some c ∧
        (f.node ≠ c.entry.node ∨ f.deck ≠ d.val ∨ f.cells.length < c.entry.cells.length ∨
          (s.toPart.deck d).lastSeq = some f.seq)) →
    endsAs (.sampleFrame d wire) s s.toPart

/-- R1, R2, R5-R13, R17, R19, R22: a valid frame on a deck without a step in flight, of a lane that holds no visit. Its
sequence is tracked, with a window restart and the end of a run after a gap above 3 (R2), and a change of a cell's status
restarts the windows (R5). With every cell GOOD the sample is taken, relayed, and tracked by the zero where that is enabled
(R17); with a bad cell the deck has NO_DATA and CELL_FAULT (R8); and an entry that fails its parity check is damaged (R6).
That the monitor frame is formed before the zero tracking (log 39), that the positions beyond the cells in use are
remembered as GOOD (log 38), and that the PARITY notice follows LANE_STATE and DECK_SERVICE (log 31) are the model's
choices. -/
def Obligations.GoodSampleTaken : Prop :=
  ∀ (d : DeckId) (wire : List Byte) (f : Sample) (c : CalEntry) (s : State), s.toPart.settingsSettled →
    s.phase = .running → parseSample wire = some f → f.node = c.node → f.deck = d.val →
    c.cells.length ≤ f.cells.length → (s.toPart.deck d).lastSeq ≠ some f.seq → s.toPart.visit (laneOf d) = none →
    s.toPart.inFlightOn d = none →
    let used := (f.cells.take c.cells.length).map (·.2)
    let n := missing (s.toPart.deck d).lastSeq f.seq
    let sequenced := fun (x : Deck) =>
      let y := if 3 < n then { x.restart with clearance := .stopped } else x
      ({ y with lastSeq := some f.seq, gapCount := min 65535 (x.gapCount + n)
                sampleTimer := .running (s.clock.running + 10 * c.timeout) } : Deck)
    let valid := fun (x : Deck) =>
      let y := sequenced x
      ({ (if y.remembered.take c.cells.length = used then y else y.restart) with
          remembered := used ++ List.replicate (8 - c.cells.length) .good } : Deck)
    let x := valid (s.toPart.deck d)
    ((s.toPart.deck d).cal = some ⟨c, true, false⟩ → (∀ st ∈ used, st = .good) →
      let cells := List.zipWith (fun k v => cellGrams k v.1) c.cells f.cells
      let y := ({ x with
        badCells := false
        clearance := if x.clearance.isRunning = false ∧ (x.causes.linkLoss = true ∨ x.causes.cellFault = true) then
          .running (s.clock.running + 20000) else x.clearance } : Deck).take c cells.sum
      let q := s.toPart.modDeck d fun _ => y
      let still := c.tracking = false ∨ y.service ≠ .trade ∨ y.status ≠ .stable
      ((∀ m, s.monitor.selection = some m → m.1 ≠ d) →
        (still → endsAs (.sampleFrame d wire) s q) ∧
        ∀ w z, c.tracking = true → y.service = .trade → y.status = .stable → y.published = some w → y.zd = some z →
          (500 * (c.e : Int) < |w.filtered - z| → endsAs (.sampleFrame d wire) s q) ∧
          (|w.filtered - z| ≤ 500 * (c.e : Int) →
            (100 * |w.filtered - 1000 * c.zcal| ≤ c.zeroRange * (1000 * c.capacity) → endsAs (.sampleFrame d wire) s
              (s.toPart.modDeck d fun _ => { y with zd := some w.filtered })) ∧
            ((c.zeroRange : Int) * (1000 * c.capacity) < 100 * |w.filtered - 1000 * c.zcal| → s.toPart.tradesIdle d →
              y.causes.zeroRange = false → ∃ r, endsAs (.sampleFrame d wire) s r ∧
                s.toPart.faultsDeck r d y { y.causes with zeroRange := true } ∧
                r.link = s.toPart.told [.laneState (laneOf d) .fault { LaneCauses.empty with deckFault := true },
                  .deckService d .trade .fault { y.causes with zeroRange := true }]))) ∧
      ∀ m, s.monitor.selection = some (d, m) → still →
        (s.monitor.count + 1 < m → endsAs (.sampleFrame d wire) s
          { q with monitor := ⟨some (d, m), s.monitor.count + 1⟩ }) ∧
        (m ≤ s.monitor.count + 1 → endsAs (.sampleFrame d wire) s
          { q with
            monitor := ⟨some (d, m), 0⟩
            link := { q.link with monitorSlot := some {
              deck := d, seq := f.seq, gapCount := y.gapCount, cells := cells, raw := cells.sum
              displayed := (y.published.map (·.displayed)).getD 0, status := y.status } } })) ∧
    ((s.toPart.deck d).cal = some ⟨c, true, false⟩ → (∃ st ∈ used, st ≠ .good) →
      let y : Deck := { x with badCells := true, status := .noData, published := none, clearance := .stopped }
      (x.causes.cellFault = true → endsAs (.sampleFrame d wire) s (s.toPart.modDeck d fun _ => y)) ∧
      (x.causes.cellFault = false → s.toPart.tradesIdle d → ∃ r, endsAs (.sampleFrame d wire) s r ∧
        s.toPart.faultsDeck r d y { y.causes with cellFault := true } ∧
        r.link = s.toPart.told [.laneState (laneOf d) .fault { LaneCauses.empty with deckFault := true },
          .deckService d .trade .fault { y.causes with cellFault := true }])) ∧
    ((s.toPart.deck d).cal = some ⟨c, false, false⟩ →
      let x := (sequenced (s.toPart.deck d)).restart
      let y : Deck := { x with
        cal := some ⟨c, false, true⟩, zd := none, sampleTimer := .stopped, lastSeq := none, clearance := .stopped }
      (y.causes.tableParity = true → endsAs (.sampleFrame d wire) s
        ((s.toPart.modDeck d fun _ => y).notify (.parity (.deck d)))) ∧
      (y.causes.tableParity = false → s.toPart.tradesIdle d → ∃ r, endsAs (.sampleFrame d wire) s r ∧
        s.toPart.faultsDeck r d y { y.causes with tableParity := true } ∧
        r.link = s.toPart.told [.laneState (laneOf d) .fault { LaneCauses.empty with deckFault := true },
          .deckService d .trade .fault { y.causes with tableParity := true }, .parity (.deck d)]))

/-- R3, R18, R142-R144, R36: the sample timeout of a deck in TRADE whose lane holds no visit and has no cause. -/
def Obligations.SampleTimeoutFaultsDeck : Prop :=
  ∀ (d : DeckId) (deadline : Nat) (s : State), s.toPart.settingsSettled →
    (s.toPart.deck d).sampleTimer = .running deadline → (s.toPart.deck d).service = .trade →
    (s.toPart.deck d).causes.linkLoss = false → s.toPart.visit (laneOf d) = none → s.toPart.inFlightOn d = none →
    (s.toPart.lane (laneOf d)).causes = .empty →
    ((s.toPart.lane (laneOf d)).state = .closed ∨ (s.toPart.lane (laneOf d)).state = .opened) →
    ∃ q, endsAs (.sampleTimeoutExpiry d) s q ∧
      (q.deck d).lastSeq = none ∧ (q.deck d).sampleTimer = .expired ∧ (q.deck d).filter = [] ∧
      (q.deck d).stability = [] ∧ (q.deck d).published = none ∧ (q.deck d).status = .noData ∧
      (q.deck d).clearance = .stopped ∧ (q.deck d).causes = { (s.toPart.deck d).causes with linkLoss := true } ∧
      (q.deck d).service = .fault ∧ (q.deck d).zd = (s.toPart.deck d).zd ∧
      (q.lane (laneOf d)).state = .fault ∧
      (q.lane (laneOf d)).causes = { LaneCauses.empty with deckFault := true } ∧
      (∀ e, e ≠ d → q.deck e = s.toPart.deck e) ∧
      sameButTrailFull (s.toPart.lane (laneOf d).other) (q.lane (laneOf d).other) ∧
      q.clock = s.clock.elapse (deadline - s.clock.running) ∧ q.pairing = s.pairing ∧ q.tickets = s.tickets ∧
      q.tables = s.tables ∧ q.audit.session = s.audit.session ∧
      q.audit.trail = ({ s.toPart with clock := q.clock } : Part).handed (some d) (.service .trade .fault (q.deck d).causes)

/-- R19, R143, R15, R35, R37: the clearance timer of a deck in FAULT on auto causes alone, whose lane holds no visit. With
the lane's last deck in FAULT, DECK_FAULT leaves its cause set, and a lane in FAULT without another cause enters CLOSED. -/
def Obligations.ClearanceReturnsToTrade : Prop :=
  ∀ (d : DeckId) (deadline : Nat) (c : CalEntry) (s : State), s.toPart.settingsSettled →
    (s.toPart.deck d).clearance = .running deadline → (s.toPart.deck d).cal = some ⟨c, true, false⟩ →
    (s.toPart.deck d).service = .fault → (s.toPart.deck d).causes.needsAudit = .empty →
    ((s.toPart.deck d).causes.linkLoss = true ∨ (s.toPart.deck d).causes.cellFault = true) →
    s.toPart.visit (laneOf d) = none → s.toPart.inFlightOn d = none →
    ∃ q, endsAs (.clearanceTimerExpiry d) s q ∧
      (q.deck d).causes = .empty ∧ (q.deck d).service = .trade ∧ (q.deck d).zd = some (1000 * c.zcal) ∧
      (q.deck d).filter = [] ∧ (q.deck d).stability = [] ∧ (q.deck d).published = none ∧
      (q.deck d).status = .noData ∧ (q.deck d).clearance = .stopped ∧
      (∀ e, e ≠ d → q.deck e = s.toPart.deck e) ∧
      sameButTrailFull (s.toPart.lane (laneOf d).other) (q.lane (laneOf d).other) ∧
      q.clock = s.clock.elapse (deadline - s.clock.running) ∧ q.pairing = s.pairing ∧ q.tickets = s.tickets ∧
      q.tables = s.tables ∧ q.audit.session = s.audit.session ∧
      q.audit.trail = ({ s.toPart with clock := q.clock } : Part).handed (some d) (.service .fault .trade .empty) ∧
      ((∃ e ∈ (laneOf d).decks, e ≠ d ∧ (s.toPart.deck e).service = .fault) →
        (q.lane (laneOf d)).state = (s.toPart.lane (laneOf d)).state ∧
        (q.lane (laneOf d)).causes = (s.toPart.lane (laneOf d)).causes) ∧
      ((∀ e ∈ (laneOf d).decks, e ≠ d → (s.toPart.deck e).service ≠ .fault) →
        (s.toPart.lane (laneOf d)).state = .fault →
        (s.toPart.lane (laneOf d)).causes = { LaneCauses.empty with deckFault := true } →
        (q.lane (laneOf d)).state = .closed ∧ (q.lane (laneOf d)).causes = .empty ∧
        (q.lane (laneOf d)).blocks.closeRequested = false)

/-- R21: the rows of MONITOR_SET, and the selection after every reset. -/
def Obligations.MonitorSetRows : Prop :=
  (∀ (corr : U16) (s : State), s.toPart.settingsSettled → s.toPart.takes corr →
    let p := s.toPart.admitted corr .monitorSet
    endsAs (.monitorSet corr none) s ({ p with monitor := ⟨none, s.monitor.count⟩ }.done corr .monitorSet) ∧
    ∀ deck n : Byte,
      (5 < deck.toNat → endsAs (.monitorSet corr (some (deck, n))) s (p.refuse corr .monitorSet .badTarget)) ∧
      (deck.toNat ≤ 5 → (n.toNat < 1 ∨ 50 < n.toNat) →
        endsAs (.monitorSet corr (some (deck, n))) s (p.refuse corr .monitorSet .badValue)) ∧
      ∀ d : DeckId, d.val = deck.toNat → 1 ≤ n.toNat → n.toNat ≤ 50 →
        endsAs (.monitorSet corr (some (deck, n))) s
          ({ p with monitor := ⟨some (d, n.toNat), 0⟩ }.done corr .monitorSet)) ∧
  State.reset.monitor.selection = none

/-! ## Lane lines -/

/-- R25, R26: a raw level change starts the beam's debounce timer and a change back stops it; at its expiry the debounced
level takes the raw level, and a blocked level sets the latch. What the beam event does to a visit (R59-R61, R67): in
ENTERING a cleared event at the entry end may complete the entry, where a deck that is OVER then aborts the visit; in
SETTLING every event restarts the settle timer; and in EXITING and CLEARING the clear timer runs while both beams are
CLEAR. -/
def Obligations.BeamLevelDebounces : Prop :=
  ∀ (l : LaneId) (e : LaneEnd) (s : State), s.toPart.settingsSettled →
    (∀ blocked : Bool, s.phase = .running → (s.toPart.laneEnd l e).beamRaw ≠ blocked →
      endsAs (.beamLevelChange l e blocked) s (s.toPart.modEnd l e fun x => { x with
        beamRaw := blocked
        debounce := (if blocked = x.beamLevel then .stopped
          else .running (s.clock.running + 10 * (s.toPart.settings l).debounce)) })) ∧
    ∀ deadline : Nat, (s.toPart.laneEnd l e).debounce = .running deadline →
      let blocked := (s.toPart.laneEnd l e).beamRaw
      let p := ({ s.toPart with clock := s.clock.elapse (deadline - s.clock.running) } : Part).modEnd l e fun x => { x with
        debounce := .stopped, beamLevel := x.beamRaw, beamLatch := x.beamLatch || x.beamRaw }
      let ends := endsAs (.beamDebounceExpiry l e) s
      let stable := ∀ d ∈ l.decks, (s.toPart.deck d).status = .stable
      let settles := Timer.running (p.clock.running + 10 * (s.toPart.settings l).settleTime)
      (s.toPart.visit l = none → ends p) ∧
      ∀ v, s.toPart.visit l = some v →
        ((v.state = .identify ∨ v.state = .consignWait ∨ v.state = .held) → ends p) ∧
        (v.state = .entering →
          (blocked = true ∨ e ≠ v.entry ∨ (s.toPart.lane l).axles = [] ∨ (s.toPart.lane l).quietTimer ≠ .expired → ends p) ∧
          (blocked = false → e = v.entry → (s.toPart.lane l).axles ≠ [] → (s.toPart.lane l).quietTimer = .expired →
            let completed := fun (x : Lane) (t : Timer) =>
              { x with quietTimer := .stopped }.resettles { v with state := .settling } t
            ((∀ d ∈ l.decks, (s.toPart.deck d).status ≠ .over) →
              (¬ stable ∨ (∃ m, (p.laneEnd l m).beamLevel = true ∧ (p.laneEnd l m).beamLatch = true) →
                ends (p.modLane l fun x => completed x .stopped)) ∧
              (stable → (∀ m, (p.laneEnd l m).beamLevel = false) → ends (p.modLane l fun x => completed x settles))) ∧
            ((∃ d ∈ l.decks, (s.toPart.deck d).status = .over) → ∃ q, ends q ∧
              q.lane l = (completed (p.lane l) .stopped).aborts v .deckOver (p.clearsFrom l) ∧ s.toPart.releases q v ∧
              q.link = (p.notify (.visitAborted l v.count v.vehicle v.kind .deckOver)).link ∧
              q.lane l.other = s.toPart.lane l.other ∧ q.decks = s.decks ∧ q.tickets = s.tickets))) ∧
        (v.state = .settling →
          (¬ stable ∨ (∃ m, (p.laneEnd l m).beamLevel = true ∧ (p.laneEnd l m).beamLatch = true) →
            ends (p.modLane l fun x => x.resettles v .stopped)) ∧
          (stable → (∀ m, (p.laneEnd l m).beamLevel = false) → ends (p.modLane l fun x => x.resettles v settles))) ∧
        ((v.state = .exiting ∨ v.state = .clearing) →
          (blocked = true → ends (p.modLane l fun x => { x with clearTimer := .stopped })) ∧
          (blocked = false →
            ((p.laneEnd l e.other).beamLevel = true → ends p) ∧
            ((p.laneEnd l e.other).beamLevel = false →
              ends (p.modLane l fun x => { x with clearTimer := .running (p.clock.running + 20000) }))))

/-- R31, R32: the supervision timer when a barrier's driven command is set; a switch change that brings a barrier to the
position of its driven command stops the timer, one that takes it away starts it. A recorded failure is cleared by the
switch change that brings the barrier to the position that its driven command calls for, a deferred lowering that reaches
DOWN included, and not by a command that is satisfied when it is given: this reading of "next reaches" is the model's
choice (log 21). -/
def Obligations.BarrierSupervision : Prop :=
  (∀ (b : Barrier) (wanted : BarrierCommand) (blocked : Bool) (limit : Timer),
    let d := b.drive wanted blocked limit
    d.up = b.up ∧ d.down = b.down ∧
    (d.driven = b.driven → d.timer = b.timer) ∧
    (d.driven ≠ b.driven → d.driven = .stop ∨ b.at d.driven = true → d.timer = .stopped) ∧
    (d.driven ≠ b.driven → d.driven ≠ .stop → b.at d.driven = false → d.timer = limit) ∧
    d.failed = b.failed) ∧
  ∀ (l : LaneId) (e : LaneEnd) (up down : Bool) (s : State), s.toPart.settingsSettled → s.phase = .running →
    let b := (s.toPart.laneEnd l e).barrier
    let c : Barrier := { b with up := up, down := down }
    let reached : Bool := decide (c.position ≠ b.position ∧
      (s.toPart.wanted l e = .raise ∧ c.position = .up ∨ s.toPart.wanted l e = .lower ∧ c.position = .down))
    endsAs (.barrierSwitchChange l e up down) s (s.toPart.modEnd l e fun x => { x with barrier := { c with
      failed := b.failed && !reached
      timer := (
        if c.at b.driven then .stopped
        else if b.at b.driven then .running (s.clock.running + 10 * (1000 * (s.toPart.settings l).moveLimit))
        else b.timer) } })

/-- R28, R32, R35-R37, R39: a barrier that does not reach its position in time, and an active edge of the stop input, fault
a lane without a visit; the stop input's return to the inactive level changes the pin alone. A visit receives the lane
fault with the lane: it ends at once, is aborted into CLEARING, or goes on to CLEARING, by its state. And a barrier that
reaches its position, the last of the lane with a failure recorded, takes BARRIER out of the cause set: a lane in FAULT
without another cause enters CLOSED. That an abort and the lane fault of a visit clear STORE_WAIT is the model's choice
(log 32), and so is that a deferred lowering which reaches DOWN clears its barrier's failure (log 21). -/
def Obligations.LaneCausesFaultLane : Prop :=
  ∀ (l : LaneId) (s : State), s.toPart.settingsSettled →
    ((s.toPart.lane l).causes = .empty → s.toPart.visit l = none →
      ((s.toPart.lane l).state = .closed ∨ (s.toPart.lane l).state = .opened) →
      (∀ e deadline, (s.toPart.laneEnd l e).barrier.timer = .running deadline →
        endsAs (.supervisionTimerExpiry l e) s
          ((((s.toPart.reach deadline).modEnd l e fun x =>
            { x with barrier := { x.barrier with timer := .stopped, failed := true } }).modLane l fun x =>
              { x with state := .fault, causes := { LaneCauses.empty with barrier := true } }).notify
                (.laneState l .fault { LaneCauses.empty with barrier := true }))) ∧
      (s.phase = .running → (s.toPart.lane l).stopInput = false →
        endsAs (.laneStopEdge l true) s ((s.toPart.modLane l fun x => { x with
          stopInput := true, stopLatch := true, state := .fault
          causes := { LaneCauses.empty with laneStop := true } }).notify
            (.laneState l .fault { LaneCauses.empty with laneStop := true })))) ∧
    (s.phase = .running → (s.toPart.lane l).stopInput = true →
      endsAs (.laneStopEdge l false) s (s.toPart.modLane l fun x => { x with stopInput := false })) ∧
    (∀ v, s.toPart.visit l = some v → (s.toPart.lane l).state = .opened → (s.toPart.lane l).causes = .empty →
      s.phase = .running → (s.toPart.lane l).stopInput = false →
      let causes := { LaneCauses.empty with laneStop := true }
      let stops := fun (x : Lane) => ({ x with stopInput := true, stopLatch := true, state := .fault, causes := causes } : Lane)
      let aborted := s.toPart.told [.laneState l .fault causes, .visitAborted l v.count v.vehicle v.kind .laneFault]
      let clear := s.toPart.clearsFrom l
      ((v.state = .identify ∨ v.state = .consignWait) → (s.toPart.lane l).adoptedActive = true →
        (∀ x, s.audit.session = some x → laneOf x.deck ≠ l) → ∃ q, endsAs (.laneStopEdge l true) s q ∧
          q.lane l = (stops (s.toPart.lane l)).emptySlot ∧ s.toPart.releases q v ∧ q.link = aborted ∧
          q.lane l.other = s.toPart.lane l.other ∧ q.decks = s.decks) ∧
      ((v.state = .entering ∨ v.state = .settling ∨ v.state = .held) → ∃ q, endsAs (.laneStopEdge l true) s q ∧
        q.lane l = (stops (s.toPart.lane l)).aborts v .laneFault clear ∧ s.toPart.releases q v ∧ q.link = aborted ∧
        q.lane l.other = s.toPart.lane l.other ∧ q.decks = s.decks) ∧
      (v.state = .exiting → endsAs (.laneStopEdge l true) s
        ((s.toPart.modLane l fun x => { stops x with
          visit := some { v with state := .clearing, storeWait := false }
          quietTimer := .stopped, settleTimer := .stopped, clearTimer := clear }).notify (.laneState l .fault causes))) ∧
      (v.state = .clearing →
        endsAs (.laneStopEdge l true) s ((s.toPart.modLane l stops).notify (.laneState l .fault causes)))) ∧
    ∀ (e : LaneEnd) (up down : Bool), s.phase = .running → s.toPart.visit l = none → (s.toPart.lane l).state = .fault →
      (s.toPart.lane l).causes = { LaneCauses.empty with barrier := true } →
      (s.toPart.lane l.other).causes.barrier = false → (s.toPart.laneEnd l e.other).barrier.failed = false →
      let b := (s.toPart.laneEnd l e).barrier
      let c : Barrier := { b with up := up, down := down }
      c.position ≠ b.position →
      (s.toPart.wanted l e = .raise ∧ c.position = .up ∨ s.toPart.wanted l e = .lower ∧ c.position = .down) →
      ∃ t, exec (.barrierSwitchChange l e up down) s = .next t ∧ (t.toPart.laneEnd l e).barrier.failed = false ∧
        (t.toPart.lane l).state = .closed ∧ (t.toPart.lane l).causes = .empty ∧
        (t.toPart.lane l).blocks = { (s.toPart.lane l).blocks with closeRequested := false } ∧
        t.link.waiting = (s.toPart.told [.laneState l .closed .empty]).waiting

/-! ## Treadles and axle screens -/

/-- R24, R75, R76: an edge is latched with its stamp, or marks the data of a visit before capture as an overrun; the
axle screen takes a latch in the same step (log 9) or later; and the rows of R75 for the decoder that takes it. -/
def Obligations.TreadleEdgesAndDecoder : Prop :=
  (∀ (l : LaneId) (e : LaneEnd) (line : Treadle) (wait : Nat) (s : State), s.toPart.settingsSettled → s.phase = .running →
    let p := s.toPart.elapse wait
    let hold := fun stamp => Decoder.hold line stamp (stamp + 10 * (s.toPart.settings l).window)
    ((s.toPart.laneEnd l e).latch line = none → endsAs (.treadleEdge l e line wait false) s
      (p.modEnd l e fun x => x.setLatch (some p.clock.running) line)) ∧
    ((s.toPart.laneEnd l e).latch line ≠ none → (∀ v, s.toPart.visit l = some v → v.state.beforeCapture = true →
      endsAs (.treadleEdge l e line wait false) s (p.modLane l fun x => { x with axleInvalid := true })) ∧
      ((∀ v, s.toPart.visit l = some v → v.state.beforeCapture = false) →
        endsAs (.treadleEdge l e line wait false) s p)) ∧
    ((s.toPart.laneEnd l e).latch line = none → (s.toPart.laneEnd l e).decoder = .idle →
      endsAs (.treadleEdge l e line wait true) s (p.modEnd l e fun x => { x with decoder := hold p.clock.running })) ∧
    ∀ stamp, (s.toPart.laneEnd l e).latch line = some stamp → (s.toPart.laneEnd l e).decoder = .idle →
      endsAs (.treadleLatchTaken l e line) s
        (s.toPart.modEnd l e fun x => { x.setLatch none line with decoder := hold stamp })) ∧
  ∀ (line other : Treadle) (held expiry stamp window : Nat),
    let new := Decoder.hold line stamp (stamp + window)
    Decoder.idle.edge line stamp window = (none, new) ∧
    (Decoder.hold line held expiry).edge line stamp window = (some .fault, new) ∧
    (other ≠ line → expiry < stamp → (Decoder.hold other held expiry).edge line stamp window = (some .fault, new)) ∧
    (other ≠ line → stamp ≤ expiry → (Decoder.hold other held expiry).edge line stamp window =
      (some (if line = .t2 then .inward held stamp else .outward stamp held), .idle))

/-- R75, R76, R78, R83, R84: a treadle fault, by the window expiry of a held edge or by an edge that finds one held that it
does not pair with. It marks the data of a visit before capture, restarts the quiet timer of one in ENTERING at its entry
end, and sets EXIT_OVERRUN at the exit end of one before capture; it changes nothing in a visit after capture. -/
def Obligations.WindowExpiryIsFault : Prop :=
  let faults := fun (c : Instr) (s : State) (p : Part) (l : LaneId) (e : LaneEnd) =>
    (s.toPart.visit l = none → endsAs c s p) ∧
    ∀ v, s.toPart.visit l = some v →
      (v.state.beforeCapture = false → endsAs c s p) ∧
      (v.entry = e → v.state = .entering → endsAs c s (p.modLane l fun x => { x with
        axleInvalid := true, quietTimer := .running (p.clock.running + 10000 * (s.toPart.settings l).quietTime) })) ∧
      (v.entry = e → (v.state = .identify ∨ v.state = .consignWait ∨ v.state = .settling) →
        endsAs c s (p.modLane l fun x => { x with axleInvalid := true })) ∧
      (v.entry ≠ e → v.state.beforeCapture = true → endsAs c s (p.modLane l fun x => { x with
        axleInvalid := true, visit := some { v with exitOverrun := true } }))
  (∀ st : VisitState, st.beforeCapture = true ↔ st ∈ [.identify, .consignWait, .entering, .settling]) ∧
  (∀ (l : LaneId) (e : LaneEnd) (line : Treadle) (stamp expiry : Nat) (s : State), s.toPart.settingsSettled →
    (s.toPart.laneEnd l e).decoder = .hold line stamp expiry →
    faults (.windowExpiry l e) s ((s.toPart.reach expiry).modEnd l e fun x => { x with decoder := .idle }) l e) ∧
  ∀ (l : LaneId) (e : LaneEnd) (line held : Treadle) (stamp first expiry : Nat) (s : State), s.toPart.settingsSettled →
    (s.toPart.laneEnd l e).decoder = .hold held first expiry → (s.toPart.laneEnd l e).latch line = some stamp →
    (held = line ∨ expiry < stamp) →
    faults (.treadleLatchTaken l e line) s (s.toPart.modEnd l e fun x => { x.setLatch none line with
      decoder := .hold line stamp (stamp + 10 * (s.toPart.settings l).window) }) l e

/-- R75, R77-R85: the second edge of a pass. At the entry end of a visit in ENTERING or SETTLING an inward pass appends an
axle, with the spacing that R80 gives it in each of its cases, and an outward pass withdraws the last one, or takes back an overflow, or with nothing left backs the visit out; a
pass that does not back out restarts the quiet timer, and returns a visit in SETTLING to ENTERING. In any other state, or
with no visit, a pass at the entry end does nothing. At the exit end a pass before capture is an exit overrun, one in
EXITING counts, and one in HELD or CLEARING does nothing. That an abort clears STORE_WAIT is the model's choice (log 32). -/
def Obligations.InwardPassCountsAxle : Prop :=
  let passed := fun (s : State) (l : LaneId) (v : Visit) (y : Lane) =>
    let quiet := Timer.running (s.clock.running + 10000 * (s.toPart.settings l).quietTime)
    if v.state = .settling then ({ y with
      visit := some { v with state := .entering, storeWait := false }, waitTimer := .stopped, settleTimer := .stopped
      quietTimer := quiet } : Lane)
    else { y with quietTimer := quiet }
  (∀ (l : LaneId) (v : Visit) (t1 expiry t2 : Nat) (s : State), s.toPart.settingsSettled →
    s.toPart.visit l = some v → (v.state = .entering ∨ v.state = .settling) →
    (s.toPart.laneEnd l v.entry).decoder = .hold .t1 t1 expiry →
    (s.toPart.laneEnd l v.entry).latch2 = some t2 → t2 ≤ expiry →
    let x := s.toPart.lane l
    let set := s.toPart.settings l
    let p := (s.toPart.modEnd l v.entry fun y => { y with latch2 := none, decoder := .idle }).modLane l (passed s l v)
    (16 ≤ x.axles.length → endsAs (.treadleLatchTaken l v.entry .t2) s
      (p.modLane l fun y => { y with overflow := min 255 (y.overflow + 1) })) ∧
    (t1 ≤ t2 → x.axles.length < 16 → ∃ a : Axle,
      endsAs (.treadleLatchTaken l v.entry .t2) s
        (p.modLane l fun y => { y with axles := y.axles ++ [a], withdrawn := y.withdrawn.drop 1 }) ∧
      a.index = x.axles.length + 1 ∧ a.t1 = t1 ∧ a.t2 = t2 ∧ a.step = none ∧ a.scaled = none ∧ a.group = none ∧
      (t1 = t2 → a.speed = none ∧ a.offBand = true) ∧
      (t1 < t2 → ∃ w, a.speed = some w ∧ 2 * (t2 - t1) * w ≤ 720 * set.spacing + (t2 - t1) ∧
        720 * set.spacing < 2 * (t2 - t1) * w + (t2 - t1) ∧
        (a.offBand = true ↔ w < set.speedMin ∨ set.speedMax < w)) ∧
      (∀ ws : List Published, l.decks.map (fun d => (s.toPart.deck d).published) = ws.map some →
        a.total = some (ws.map (·.net)).sum) ∧
      ((∃ d ∈ l.decks, (s.toPart.deck d).published = none) → a.total = none) ∧
      (x.axles = [] → a.spacing = none) ∧
      (∀ w ws, x.axles ≠ [] → x.withdrawn = w :: ws → a.spacing = w) ∧
      ∀ b, x.axles.getLast? = some b → x.withdrawn = [] →
        let way := 2 * set.spacing * (t2 - b.t2)
        (t1 = t2 → a.spacing = none) ∧
        (t1 < t2 → ∃ w, a.spacing = some (min 65535 w) ∧ 2 * (t2 - t1) * w ≤ way + (t2 - t1) ∧
          way < 2 * (t2 - t1) * w + (t2 - t1)))) ∧
  (∀ (l : LaneId) (v : Visit) (t2 expiry t1 : Nat) (s : State), s.toPart.settingsSettled →
    s.toPart.visit l = some v → (v.state = .entering ∨ v.state = .settling) →
    (s.toPart.laneEnd l v.entry).decoder = .hold .t2 t2 expiry →
    (s.toPart.laneEnd l v.entry).latch1 = some t1 → t1 ≤ expiry →
    let x := s.toPart.lane l
    let p := s.toPart.modEnd l v.entry fun y => { y with latch1 := none, decoder := .idle }
    (0 < x.overflow → endsAs (.treadleLatchTaken l v.entry .t1) s
      (p.modLane l fun y => { passed s l v y with overflow := y.overflow - 1 })) ∧
    (∀ a, x.overflow = 0 → x.axles.getLast? = some a → endsAs (.treadleLatchTaken l v.entry .t1) s
      (p.modLane l fun y => { passed s l v y with
        axles := y.axles.dropLast, withdrawn := a.spacing :: y.withdrawn })) ∧
    (x.overflow = 0 → x.axles = [] → ∃ q, endsAs (.treadleLatchTaken l v.entry .t1) s q ∧
      q.lane l = (p.lane l).aborts v .backedOut (s.toPart.clearsFrom l) ∧ s.toPart.releases q v ∧
      q.link = s.toPart.told [.visitAborted l v.count v.vehicle v.kind .backedOut] ∧
      q.lane l.other = s.toPart.lane l.other ∧ q.decks = s.decks ∧ q.tickets = s.tickets)) ∧
  ∀ (l : LaneId) (e : LaneEnd) (line last : Treadle) (held expiry stamp : Nat) (s : State), s.toPart.settingsSettled →
    line ≠ last → (s.toPart.laneEnd l e).decoder = .hold line held expiry → (s.toPart.laneEnd l e).latch last = some stamp →
    stamp ≤ expiry →
    let c := Instr.treadleLatchTaken l e last
    let p := s.toPart.modEnd l e fun y => { y.setLatch none last with decoder := .idle }
    (s.toPart.visit l = none → endsAs c s p) ∧
    ∀ v, s.toPart.visit l = some v →
      (v.entry = e → v.state ≠ .entering → v.state ≠ .settling → endsAs c s p) ∧
      (v.entry ≠ e →
        (v.state.beforeCapture = true →
          endsAs c s (p.modLane l fun y => { y with visit := some { v with exitOverrun := true } })) ∧
        (v.state = .exiting → endsAs c s (p.modLane l fun y => { y with
          exitAxles := if line = .t2 then min 255 (y.exitAxles + 1) else y.exitAxles - 1 })) ∧
        ((v.state = .held ∨ v.state = .clearing) → endsAs c s p))

/-! ## Visits -/

/-- R46-R50, R53-R56, R96, R193: the tag frames that are not dropped, in the layout of 11.2, each with its reader; a dropped
frame, a suppressed read, and the rows of R48: a read at a lane that holds a visit, is not OPEN, has a block, or does not
admit at that end; and a read that starts a visit: of an unknown tag, in IDENTIFY; of a BARRED one, ended at once; and of an
ACTIVE one, with the identity of its register entry and every row of its classification (Part.identified). A pending entry
that it creates takes the next creation number, and where that passes 4294967295 the entries are renumbered (R96). That
entries of one number keep one number there (log 44), and that a visit ended at once DUPLICATE_VISIT or PENDING_FULL has its
exit axle count entered in every staged ticket with its tag (log 45), are the model's choices. -/
def Obligations.TagReads : Prop :=
  (∀ (wire : List Byte) (l : LaneId) (e : LaneEnd) (tag : TagId),
    parseTag wire = some (l, e, tag) ↔ wire = tagWire (readerOf l e) tag) ∧
  (readerOf .l0 .a = 0 ∧ readerOf .l0 .b = 1 ∧ readerOf .l1 .a = 2 ∧ readerOf .l1 .b = 3) ∧
  ∀ (wait : Nat) (wire : List Byte) (s : State), s.toPart.settingsSettled → s.phase = .running →
    let p := s.toPart.elapse wait
    (parseTag wire = none → endsAs (.tagFrame wait wire) s p) ∧
    ∀ (l : LaneId) (e : LaneEnd) (tag : TagId), parseTag wire = some (l, e, tag) →
      let ms := p.clock.running / 10
      let q := p.modEnd l e fun x => { x with lastRead := some ⟨tag, ms⟩ }
      (∀ r, (s.toPart.laneEnd l e).lastRead = some r → r.tag = tag → ms - r.ms < 5000 →
        endsAs (.tagFrame wait wire) s p) ∧
      ((∀ r, (s.toPart.laneEnd l e).lastRead = some r → r.tag ≠ tag ∨ 5000 ≤ ms - r.ms) →
        ((s.toPart.visit l).isSome = true →
          endsAs (.tagFrame wait wire) s (q.notify (.tagIgnored (readerOf l e) tag .laneBusy))) ∧
        (s.toPart.visit l = none → (s.toPart.lane l).state ≠ .opened →
          endsAs (.tagFrame wait wire) s (q.notify (.tagIgnored (readerOf l e) tag .notOpen))) ∧
        (s.toPart.visit l = none → (s.toPart.lane l).state = .opened → (s.toPart.lane l).blocks ≠ .empty →
          endsAs (.tagFrame wait wire) s (q.notify (.tagIgnored (readerOf l e) tag .blocked))) ∧
        (s.toPart.visit l = none → (s.toPart.lane l).state = .opened → (s.toPart.lane l).blocks = .empty →
          (s.toPart.settings l).admitting.admits e = false →
          endsAs (.tagFrame wait wire) s (q.notify (.tagIgnored (readerOf l e) tag .endClosed))) ∧
        (s.toPart.visit l = none → (s.toPart.lane l).state = .opened → (s.toPart.lane l).blocks = .empty →
          (s.toPart.settings l).admitting.admits e = true →
          let n := (s.toPart.lane l).nextVisit
          let started := NoticeBody.visitStarted l n e (.inl tag)
          (searchPasses (fun r => r.tag = tag) s.tables.register →
            endsAs (.tagFrame wait wire) s ((((q.modLane l fun x => { x.emptySlot with
              visit := some (Visit.start n e), nextVisit := n + 1
              waitTimer := .running (p.clock.running + 10000 * (s.toPart.settings l).identityTimeout) }).notify
                started).notify (.tagUnknown l n e tag)))) ∧
          ∀ before i sl r after, s.tables.register = before ++ (i, sl) :: after →
            searchPasses (fun r => r.tag = tag) before → sl.damaged = false → sl.parityOk = true → sl.val = some r →
            r.tag = tag →
            (r.status = .barred → s.toPart.closesPlainly l → (∀ t ∈ s.tickets.staging, t.tag ≠ some (l, n)) →
              endsAs (.tagFrame wait wire) s
                (((q.modLane l fun x => { x.emptySlot with nextVisit := n + 1 }).notify started).notify
                  (.visitAborted l n (some r.vehicle) none .barred))) ∧
            (r.status = .active → s.tables.settingsActive.settled → ∃ u, endsAs (.tagFrame wait wire) s u ∧
              ((q.modLane l fun x => { x.emptySlot with
                visit := some (Visit.start n e), nextVisit := n + 1 }).notify started).identified u l (Visit.start n e)
                  (.ofEntry i r))))

/-- R52-R56, R69, R96, R98, R100, R136: the rows of ADMIT: a malformed vehicle id, a lane that holds another visit or does
not admit, the visit in IDENTIFY at the named end, and a visit that it starts. The identity is that of the first ACTIVE
register entry with the vehicle id, or the bare id where there is none (BARRED entries do not count), with every row of its
classification (Part.identified). A pending entry that it creates takes the next creation number, and where that passes
4294967295 the entries are renumbered (R96). That entries of one number keep one number there (log 44), and that a visit
ended at once DUPLICATE_VISIT or PENDING_FULL has its exit axle count entered in every staged ticket with its tag (log 45),
are the model's choices. -/
def Obligations.AdmitStartsGrossVisit : Prop :=
  (∀ (bytes : List Byte) (v : VehicleId), parseVehicle bytes = some v ↔ 1 ≤ v.length ∧ v.length ≤ 12 ∧
    (∀ b ∈ v, 0x41 ≤ b.toNat ∧ b.toNat ≤ 0x5A ∨ 0x30 ≤ b.toNat ∧ b.toNat ≤ 0x39 ∨ b.toNat = 0x2D) ∧
    ∃ n, bytes = v ++ List.replicate n 0) ∧
  ∀ (corr : U16) (lane : Byte) (l : LaneId) (e : LaneEnd) (vehicle : List Byte) (s : State),
    s.toPart.settingsSettled → s.toPart.takes corr → lane.toNat = l.toNat →
    let c := Instr.admitVehicle corr lane (.known e) vehicle
    let n := (s.toPart.lane l).nextVisit
    let p := s.toPart.admitted corr .admitVehicle lane
    (parseVehicle vehicle = none → endsAs c s (p.refuse corr .admitVehicle .badValue)) ∧
    ∀ v, parseVehicle vehicle = some v →
      let identifies := fun (q : Part) (w : Visit) =>
        let hit := fun (r : RegEntry) => r.status = .active ∧ r.vehicle = v
        let as_ := fun (id : Identity) => ∃ u, q.identified u l w id ∧
          endsAs c s (u.done corr .admitVehicle (.admitted l w.count))
        (searchPasses hit s.tables.register → as_ ⟨v, none, [], none⟩) ∧
        ∀ before i sl r after, s.tables.register = before ++ (i, sl) :: after → searchPasses hit before →
          sl.damaged = false → sl.parityOk = true → sl.val = some r → hit r → as_ (.ofEntry i r)
      (∀ w, s.toPart.visit l = some w → (w.state ≠ .identify ∨ w.entry ≠ e) →
        endsAs c s (p.refuse corr .admitVehicle .wrongState)) ∧
      (s.toPart.visit l = none → ((s.toPart.lane l).state ≠ .opened ∨ (s.toPart.lane l).blocks ≠ .empty) →
        endsAs c s (p.refuse corr .admitVehicle .wrongState)) ∧
      (∀ w, s.toPart.visit l = some w → w.state = .identify → w.entry = e → w.pendingIndex = none →
        s.tables.settingsActive.settled → identifies p w) ∧
      (s.toPart.visit l = none → (s.toPart.lane l).state = .opened → (s.toPart.lane l).blocks = .empty →
        s.tables.settingsActive.settled → identifies ((p.modLane l fun x => { x.emptySlot with
          visit := some (Visit.start n e), nextVisit := n + 1 }).notify (.visitStarted l n e (.inr v))) (Visit.start n e))

/-- R51, R56, R69, R72, R101: the wait timer of a visit in IDENTIFY or CONSIGN_WAIT ends it at once. That its exit axle count
is entered in every staged ticket with its tag is the model's choice (log 45). -/
def Obligations.WaitTimersEndVisit : Prop :=
  ∀ (l : LaneId) (v : Visit) (deadline : Nat) (s : State), s.toPart.settingsSettled →
    s.toPart.visit l = some v → (s.toPart.lane l).waitTimer = .running deadline → s.toPart.closesPlainly l →
    let p := s.toPart.reach deadline
    let tickets : TicketUnit := { s.tickets with
      staging := exitEntered l v.count (s.toPart.lane l).exitAxles s.tickets.staging }
    (v.state = .identify → v.pendingIndex = none → endsAs (.identityTimeout l) s
      ((({ p with tickets := tickets } : Part).notify
        (.visitAborted l v.count v.vehicle v.kind .identityTimeout)).modLane l Lane.emptySlot)) ∧
    (v.state = .consignWait → ∃ q, endsAs (.consignTimeout l) s q ∧ s.toPart.releases q v ∧
      q.pairing.consignments = s.pairing.consignments ∧ q.lane l = (s.toPart.lane l).emptySlot ∧
      q.lane l.other = s.toPart.lane l.other ∧
      q.link = (p.notify (.visitAborted l v.count v.vehicle v.kind .noConsignment)).link ∧
      q.decks = s.decks ∧ q.tickets = tickets ∧ q.audit = s.audit ∧ q.tables = s.tables ∧ q.store = s.store)

/-- R37, R67, R68, R72, R134, R150: the dwell timer of a visit past capture, and of one before; and the close of a visit in
EXITING or CLEARING, at the clear timer's expiry or at a good sample after it, where the decks are all empty, or not: a deck
without a weight counts as empty in CLEARING alone. The close step hands over the exit axle count, adopts settings that
wait, closes a lane with CLOSE_REQUESTED or in FAULT without a cause, and starts a session that waits for the lane. That an
abort clears STORE_WAIT (log 32), that the positions beyond the cells in use are remembered as GOOD (log 38), and that the
exit axle count is entered in every staged ticket with the visit's tag (log 45) are the model's choices. -/
def Obligations.DwellAndClearTimers : Prop :=
  ∀ (l : LaneId) (v : Visit) (s : State), s.toPart.settingsSettled → s.toPart.visit l = some v →
    let x := s.toPart.lane l
    let tickets : TicketUnit := { s.tickets with staging := exitEntered l v.count x.exitAxles s.tickets.staging }
    (∀ deadline, x.dwellTimer = .running deadline →
      let p := s.toPart.reach deadline
      ((v.state = .held ∨ v.state = .exiting ∨ v.state = .clearing) → endsAs (.dwellTimerExpiry l) s
        ((p.modLane l fun x => { x with dwellTimer := .expired, visit := some { v with overstaySent := true } }).notify
          (.overstay l v.count v.vehicle v.state))) ∧
      ((v.state = .entering ∨ v.state = .settling) → ∃ q, endsAs (.dwellTimerExpiry l) s q ∧
        q.lane l = { x with dwellTimer := .expired }.aborts v .dwellLimit (p.clearsFrom l) ∧ s.toPart.releases q v ∧
        q.link = (p.notify (.visitAborted l v.count v.vehicle v.kind .dwellLimit)).link ∧
        q.lane l.other = s.toPart.lane l.other ∧ q.decks = s.decks ∧ q.tickets = s.tickets) ∧
      (v.state = .consignWait → s.toPart.closesPlainly l → ∃ q, endsAs (.dwellTimerExpiry l) s q ∧
        q.lane l = x.emptySlot ∧ s.toPart.releases q v ∧
        q.link = (p.notify (.visitAborted l v.count v.vehicle v.kind .dwellLimit)).link ∧
        q.lane l.other = s.toPart.lane l.other ∧ q.decks = s.decks ∧ q.tickets = tickets)) ∧
    ((v.state = .exiting ∨ v.state = .clearing) →
      let empty := fun (p : Part) => ∀ d ∈ l.decks,
        (∃ w c, (p.deck d).published = some w ∧ (p.deck d).cal = some c ∧
          w.displayed.natAbs ≤ (s.toPart.settings l).emptyBand * c.entry.e) ∨
        ((p.deck d).published = none ∨ (p.deck d).cal = none) ∧ v.state = .clearing
      let left := fun (p : Part) => ({ p with tickets := tickets } : Part).modLane l Lane.emptySlot
      let closed := NoticeBody.visitClosed l v.count v.kind (v.capture.map (·.gross)) v.abort x.exitAxles
      let shut := fun (p : Part) => (p.modLane l fun y => { y with
        state := .closed, blocks := { y.blocks with closeRequested := false } }).notify (.laneState l .closed x.causes)
      let turns := x.state = .opened ∧ x.blocks.closeRequested = true ∨ x.state = .fault ∧ x.causes = .empty
      let plain := x.adoptedActive = true ∧ ∀ y, s.audit.session = some y → laneOf y.deck ≠ l
      (∀ deadline, x.clearTimer = .running deadline →
        let p := s.toPart.reach deadline
        let ends := endsAs (.clearTimerExpiry l) s
        (¬ empty p → ends (p.modLane l fun x => { x with clearTimer := .expired })) ∧
        (empty p → plain → ¬ turns → ends ((left p).notify closed)) ∧
        (empty p → plain → turns → ends (shut ((left p).notify closed))) ∧
        (empty p → ¬ turns → x.adoptedActive = false → (s.toPart.lane l.other).adoptedActive = true →
          (∀ y, s.audit.session = some y → laneOf y.deck ≠ l) → x.causes.settingsParity = false →
          (s.tables.settingsActive.lanes.get l).good = true → s.tables.settingsActive.site.settled →
          ends (((({ left p with tables := { s.tables with settingsPrevious := none } } : Part).modLane l fun y => { y with
            adoptedActive := true, adoptedValid := true }).notify closed).notify
              (.tableAdopted l s.tables.settingsActive.crc s.tables.settingsPrevious.isSome))) ∧
        ∀ y, empty p → x.state = .opened → x.adoptedActive = true → x.blocks.closeRequested = false →
          s.audit.session = some y → laneOf y.deck = l → y.atOpen = none → y.inFlight = none →
          ∃ q, ends q ∧ q.visit l = none ∧ (q.lane l).state = .audit ∧ (q.lane l).blocks.auditPending = false ∧
            q.audit.session = some { y with
              atOpen := some ⟨.opened, (s.toPart.deck y.deck).service, (s.toPart.deck y.deck).counter⟩ } ∧
            q.audit.waitTimer = .stopped ∧ (q.deck y.deck).service = .audit ∧ (q.deck y.deck).marker = some 0 ∧
            (∀ d, d ≠ y.deck → q.deck d = s.toPart.deck d) ∧ q.tickets = tickets) ∧
      ∀ (d : DeckId) (wire : List Byte) (f : Sample) (c : CalEntry), laneOf d = l → s.phase = .running →
        s.toPart.inFlightOn d = none → (s.toPart.deck d).cal = some ⟨c, true, false⟩ → parseSample wire = some f →
        f.node = c.node → f.deck = d.val → c.cells.length ≤ f.cells.length → (s.toPart.deck d).lastSeq ≠ some f.seq →
        (∀ k ∈ f.cells.take c.cells.length, k.2 = .good) → (∀ m, s.monitor.selection = some m → m.1 ≠ d) →
        let q := s.toPart.modDeck d fun _ => s.toPart.sampled d c f
        let ends := endsAs (.sampleFrame d wire) s
        (x.clearTimer ≠ .expired ∨ ¬ empty q → ends q) ∧
        (x.clearTimer = .expired → empty q → plain → ¬ turns → ends ((left q).notify closed)) ∧
        (x.clearTimer = .expired → empty q → plain → turns → ends (shut ((left q).notify closed))))

/-- R59-R61: the axle quiet time passes. The visit stays in ENTERING while it has no axle or the entry beam is blocked;
else it enters SETTLING, where the settle timer runs when the three decks are STABLE and both beams stay clear; with a
deck OVER it is aborted. And a good sample of a deck of a lane whose visit is in SETTLING (R60, R61): OVER aborts the
visit, a status other than STABLE restarts the settle timer, and STABLE starts it where it is stopped and the settle
condition holds. That the abort clears STORE_WAIT and that the positions beyond the cells in use are remembered as GOOD
are the model's choices (log 32, log 38). -/
def Obligations.QuietTimerSettles : Prop :=
  (∀ (d : DeckId) (wire : List Byte) (f : Sample) (c : CalEntry) (v : Visit) (s : State), s.toPart.settingsSettled →
    s.phase = .running → s.toPart.visit (laneOf d) = some v → v.state = .settling → s.toPart.inFlightOn d = none →
    (s.toPart.deck d).cal = some ⟨c, true, false⟩ → parseSample wire = some f → f.node = c.node → f.deck = d.val →
    c.cells.length ≤ f.cells.length → (s.toPart.deck d).lastSeq ≠ some f.seq →
    (∀ k ∈ f.cells.take c.cells.length, k.2 = .good) → (∀ m, s.monitor.selection = some m → m.1 ≠ d) →
    let l := laneOf d
    let y := s.toPart.sampled d c f
    let q := s.toPart.modDeck d fun _ => y
    let starts := (s.toPart.lane l).settleTimer = .stopped ∧ (∀ e ∈ l.decks, (q.deck e).status = .stable) ∧
      ∀ m, (s.toPart.laneEnd l m).beamLatch = false
    (y.status = .over → ∃ r, endsAs (.sampleFrame d wire) s r ∧
      r.lane l = (s.toPart.lane l).aborts v .deckOver (s.toPart.clearsFrom l) ∧ s.toPart.releases r v ∧
      r.link = s.toPart.told [.visitAborted l v.count v.vehicle v.kind .deckOver] ∧ r.decks = q.decks ∧
      r.lane l.other = s.toPart.lane l.other ∧ r.tickets = s.tickets) ∧
    (y.status = .motion → endsAs (.sampleFrame d wire) s (q.modLane l fun x => x.resettles v .stopped)) ∧
    (y.status = .stable → ¬ starts → endsAs (.sampleFrame d wire) s q) ∧
    (y.status = .stable → starts → endsAs (.sampleFrame d wire) s (q.modLane l fun x =>
      { x with settleTimer := .running (s.clock.running + 10 * (s.toPart.settings l).settleTime) })) ∧
    y.status ≠ .noData) ∧
  ∀ (l : LaneId) (v : Visit) (deadline : Nat) (s : State), s.toPart.settingsSettled → s.toPart.visit l = some v →
    v.state = .entering → (s.toPart.lane l).quietTimer = .running deadline →
    let p := s.toPart.reach deadline
    let settling := fun (t : Timer) => p.modLane l fun x => { x with
      quietTimer := .stopped, settleTimer := t, visit := some { v with state := .settling, storeWait := false },
      ends := ⟨{ x.ends.a with beamLatch := x.ends.a.beamLatch && x.ends.a.beamLevel },
        { x.ends.b with beamLatch := x.ends.b.beamLatch && x.ends.b.beamLevel }⟩ }
    ((s.toPart.lane l).axles = [] ∨ (s.toPart.laneEnd l v.entry).beamLevel = true →
      endsAs (.quietTimerExpiry l) s (p.modLane l fun x => { x with quietTimer := .expired })) ∧
    ((s.toPart.lane l).axles ≠ [] → (s.toPart.laneEnd l v.entry).beamLevel = false →
      (∃ d ∈ l.decks, (s.toPart.deck d).status = .over) → ∃ q, endsAs (.quietTimerExpiry l) s q ∧
        q.lane l = ({ p.lane l with quietTimer := .stopped }.resettles v .stopped).aborts v .deckOver (p.clearsFrom l) ∧
        s.toPart.releases q v ∧ q.link = (p.notify (.visitAborted l v.count v.vehicle v.kind .deckOver)).link ∧
        q.lane l.other = s.toPart.lane l.other ∧ q.decks = s.decks ∧ q.tickets = s.tickets) ∧
    ((s.toPart.lane l).axles ≠ [] → (s.toPart.laneEnd l v.entry).beamLevel = false →
      (∀ d ∈ l.decks, (s.toPart.deck d).status ≠ .over) →
      ((∃ d ∈ l.decks, (s.toPart.deck d).status ≠ .stable) → endsAs (.quietTimerExpiry l) s (settling .stopped)) ∧
      ((∀ d ∈ l.decks, (s.toPart.deck d).status = .stable) → (s.toPart.laneEnd l .a).beamLevel = false →
        (s.toPart.laneEnd l .b).beamLevel = false → endsAs (.quietTimerExpiry l) s
          (settling (.running (p.clock.running + 10 * (s.toPart.settings l).settleTime)))))

/-- R62-R66, R69, R86-R92, R99, R102: the settle completion. Below the minimum gross the visit is aborted; a TARE or
GROSS_PRESET visit with the staging queue full waits; and a visit is captured, with the verdict NOT_SCREENED where its axle
data are marked invalid or its steps fail, else with that of its groups against the class that matches: a GROSS visit in
excess is HELD where the lane's overload action is HOLD, and its pending entry becomes OPEN otherwise; a TARE visit stages a
NET or VOID ticket and its entry is removed; a GROSS_PRESET visit stages a PRESET_NET or VOID ticket. That STORE_WAIT is
cleared at the abort and at the capture is the model's choice (log 32). -/
def Obligations.SettleCompletionRows : Prop :=
  ∀ (l : LaneId) (v : Visit) (deadline : Nat) (s : State), s.toPart.settingsSettled → s.toPart.visit l = some v →
    v.state = .settling → (s.toPart.lane l).settleTimer = .running deadline →
    let p := s.toPart.reach deadline
    let x := s.toPart.lane l
    let weights : List Int := l.decks.map fun d => ((s.toPart.deck d).published.map (·.displayed)).getD 0
    let counts := l.decks.map fun d => (s.toPart.deck d).counter
    let gross := weights.sum
    let unscreened : Verdict := ⟨.notScreened, none, none, none, [], false, x.overflow, none⟩
    let captures := fun (r : Verdict) => ({ weights := weights, gross := gross, time := ⟨p.clock.sec, p.clock.ms⟩
                                            counts := counts, verdict := r } : Capture)
    let exits := fun (q : Part) (r : Verdict) => endsAs (.settleCompletion l) s q ∧
      q.visit l = some { v with state := .exiting, storeWait := false, capture := some (captures r) } ∧
      (q.lane l).settleTimer = .stopped ∧ (q.lane l).clearTimer = p.clearsFrom l ∧
      q.link = (p.notify (.visitCaptured l v.count v.kind gross r.kind)).link ∧
      q.lane l.other = { s.toPart.lane l.other with blocks := (q.lane l.other).blocks } ∧ q.decks = s.decks ∧
      q.audit = s.audit ∧ q.tables = s.tables
    let opens := fun (q : Part) (r : Verdict) => ∀ i e g, v.pendingIndex = some i → s.toPart.slot i = some e →
      v.consignment = some g → q.slot i = some { e with
        state := .opened ⟨gross, (captures r).time, l, counts, g,
          ⟨r.kind, r.classId, r.overGroups, r.overGross, v.heldReleased⟩⟩ } ∧
        (∀ j, j ≠ i → q.slot j = s.toPart.slot j) ∧ i ∈ q.pairing.dirty
    let stages := fun (q : Part) (t : Ticket) =>
      q.tickets = { s.tickets with staging := s.tickets.staging ++ [⟨t, some (l, v.count)⟩] } ∧
      ∀ m, (q.lane m).blocks.storeBusy =
        ((s.toPart.lane m).blocks.storeBusy || decide (s.tickets.staging.length = 7))
    (gross < (s.toPart.settings l).minGross → ∃ q, endsAs (.settleCompletion l) s q ∧
      q.lane l = x.aborts v .belowMinimum (p.clearsFrom l) ∧ s.toPart.releases q v ∧
      q.link = (p.notify (.visitAborted l v.count v.vehicle v.kind .belowMinimum)).link) ∧
    ((s.toPart.settings l).minGross ≤ gross →
      ((v.kind = some .tare ∨ v.kind = some .grossPreset) → 8 ≤ s.tickets.staging.length →
        endsAs (.settleCompletion l) s
          (p.modLane l fun x => { x with settleTimer := .expired, visit := some { v with storeWait := true } })) ∧
      (v.kind = some .gross → x.axleInvalid = true → ∀ i e g, v.pendingIndex = some i → s.toPart.slot i = some e →
        v.consignment = some g → ∃ q, exits q unscreened ∧ opens q unscreened ∧ (q.lane l).axles = x.axles ∧
          q.tickets = s.tickets) ∧
      (v.kind = some .gross → x.axleInvalid = false → ∀ totals : List Int,
        (∀ a ∈ x.axles, a.offBand = false) → x.axles.map (·.total) = totals.map some →
        let raw := (l.decks.map fun d => ((s.toPart.deck d).published.map (·.net)).getD 0).sum
        let steps := stepWeights totals raw
        ((steps.sum ≤ 0 ∨ ∃ w ∈ steps, w < 0) → ∃ q, exits q unscreened ∧ opens q unscreened ∧
          (q.lane l).axles = x.axles.mapIdx fun i a => { a with step := steps[i]?, scaled := none, group := none }) ∧
        (0 < steps.sum → (∀ w ∈ steps, 0 ≤ w) → (∀ z ∈ s.tables.classActive.toList, z.good = true) →
          let scaled := scaledWeights steps gross
          let groups := groupNumbers (s.toPart.settings l).groupGap (x.axles.map (·.spacing))
          let pattern := groupPattern groups
          let matching := (s.tables.classActive.toList.filterMap (·.val)).find? fun (c : ClassEntry) =>
            decide ((v.permits = [] ∨ c.id ∈ v.permits) ∧ c.sizes = pattern)
          let r := verdictOf x.overflow pattern (groupMasses groups scaled) gross
            (if pattern.length ≤ 8 ∧ x.overflow = 0 then matching else none)
          let axles := x.axles.mapIdx fun i a => { a with step := steps[i]?, scaled := scaled[i]?, group := groups[i]? }
          ((r.kind ≠ .over ∨ (s.toPart.settings l).overload = .note) → ∃ q, exits q r ∧ opens q r ∧
            (q.lane l).axles = axles) ∧
          (r.kind = .over → (s.toPart.settings l).overload = .hold → endsAs (.settleCompletion l) s
            (((p.modLane l fun y => { y with
              settleTimer := .stopped, axles := axles
              visit := some { v with state := .held, storeWait := false, capture := some (captures r) } }).notify
                (.visitCaptured l v.count v.kind gross .over)).notify
                  (.visitHeld l v.count v.vehicle gross r.overGroups r.overGross))))) ∧
      (s.tickets.staging.length < 8 → x.axleInvalid = true →
        (v.kind = some .tare → ∀ i e g m, v.pendingIndex = some i → s.toPart.slot i = some e → e.state = .claimed g m →
          ∃ q, exits q unscreened ∧ q.slot i = none ∧ (∀ j, j ≠ i → q.slot j = s.toPart.slot j) ∧ i ∈ q.pairing.dirty ∧
            stages q { kind := if gross < g.gross then .net else .void, vehicle := e.vehicle, regIndex := e.regIndex
                       side := { g with verdict := { g.verdict with heldReleased := false } }
                       tare := .weighed gross (captures unscreened).time l counts
                       net := if gross < g.gross then some (g.gross - gross) else none, exitAxles := none
                       heldReleased := g.verdict.heldReleased, exitOverrun := v.exitOverrun }) ∧
        (v.kind = some .grossPreset → ∀ t g vehicle, v.preset = some t → v.consignment = some g →
          v.vehicle = some vehicle → ∃ q, exits q unscreened ∧ q.pairing = s.pairing ∧
            stages q { kind := if (t.mass : Int) < gross then .presetNet else .void, vehicle := vehicle
                       regIndex := v.regIndex
                       side := ⟨gross, (captures unscreened).time, l, counts, g, ⟨.notScreened, none, [], false, false⟩⟩
                       tare := .preset t.mass t.date
                       net := if (t.mass : Int) < gross then some (gross - t.mass) else none, exitAxles := none
                       heldReleased := v.heldReleased, exitOverrun := v.exitOverrun })))

/-- R87-R89, R91, R92: a step weight is the rise of the lane raw total to the next axle's, or to the captured one; each
scaled weight is its share of the gross, rounded, the last one with the remainder, and they sum to the gross; the groups
take all axles, each group one to four of them, an axle joining the group before it where its spacing is at most the gap
and the group holds fewer than four; the pattern counts a group's axles and a group mass adds up their scaled weights; and
the verdict against a class entry, and without one. -/
def Obligations.WeightsGroupsAndVerdict : Prop :=
  (∀ (totals : List Int) (captured : Int), (stepWeights totals captured).length = totals.length ∧
    ∀ i t, totals[i]? = some t → (stepWeights totals captured)[i]? = some ((totals[i + 1]?).getD captured - t)) ∧
  (∀ (steps : List Int) (gross : Int), steps ≠ [] →
    (scaledWeights steps gross).sum = gross ∧ (scaledWeights steps gross).length = steps.length ∧
    let share := fun (w : Int) => roundHalfAway (w * gross) steps.sum
    ∀ i w, steps[i]? = some w → (scaledWeights steps gross)[i]? = some
      (if i + 1 = steps.length then share w + (gross - (steps.map share).sum) else share w)) ∧
  (∀ (gap : Nat) (spacings : List (Option Nat)),
    (groupNumbers gap spacings).length = spacings.length ∧
    (groupPattern (groupNumbers gap spacings)).sum = spacings.length ∧
    (∀ n ∈ groupPattern (groupNumbers gap spacings), 1 ≤ n ∧ n ≤ 4) ∧
    let groups := groupNumbers gap spacings
    (spacings ≠ [] → groups[0]? = some 1) ∧ ∀ i g x, groups[i]? = some g → spacings[i + 1]? = some x →
      groups[i + 1]? = some (if (∃ y, x = some y ∧ y ≤ gap) ∧ (groups.take (i + 1)).count g < 4 then g else g + 1)) ∧
  (∀ (groups : List Nat) (scaled : List Int), groups.length = scaled.length →
    (groupMasses groups scaled).length = (groupPattern groups).length ∧
    (∀ g, g ∈ groups → 1 ≤ g → g ≤ (groupPattern groups).length) ∧
    ∀ g, g < (groupPattern groups).length → (groupPattern groups)[g]? = some (groups.count (g + 1)) ∧
      (groupMasses groups scaled)[g]? = some ((List.range groups.length).map fun i =>
        if groups[i]? = some (g + 1) then scaled.getD i 0 else 0).sum) ∧
  (∀ (gap : Nat) (spacings : List (Option Nat)) (scaled : List Int), scaled.length = spacings.length →
    (groupMasses (groupNumbers gap spacings) scaled).sum = scaled.sum) ∧
  (∀ (overflow : Nat) (pattern : List Nat) (masses : List Int) (gross : Int),
    verdictOf overflow pattern masses gross none = {
      kind := .unclassified, classId := none, pattern := if pattern.length ≤ 8 then some pattern else none
      masses := if pattern.length ≤ 8 then some masses else none, overGroups := [], overGross := false
      overflow := overflow, exitAxles := none }) ∧
  ∀ (overflow : Nat) (pattern : List Nat) (masses : List Int) (gross : Int) (c : ClassEntry),
    c.limits.length = masses.length →
    let v := verdictOf overflow pattern masses gross (some c)
    (∀ g, g ∈ v.overGroups ↔ ∃ i, g = i + 1 ∧ ∃ m k, masses[i]? = some m ∧ c.limits[i]? = some k ∧ (k : Int) < m) ∧
    v.overGroups.Pairwise (· < ·) ∧ (v.overGross = true ↔ (c.gross : Int) < gross) ∧
    (v.kind = .over ↔ v.overGroups ≠ [] ∨ v.overGross = true) ∧
    (v.kind = .compliant ↔ v.overGroups = [] ∧ v.overGross = false) ∧ v.classId = some c.id ∧
    v.pattern = some pattern ∧ v.masses = some masses ∧ v.overflow = overflow ∧ v.exitAxles = none

/-! ## Requests to the lanes and to the pairing unit -/

/-- R38, R39, R28, R44: the rows of LANE_OPEN and LANE_CLOSE. -/
def Obligations.LaneOpenAndClose : Prop :=
  ∀ (corr : U16) (lane : Byte) (l : LaneId) (s : State), s.toPart.settingsSettled → s.toPart.takes corr →
    lane.toNat = l.toNat →
    let x := s.toPart.lane l
    let p := s.toPart.admitted corr .laneOpen lane
    let r := s.toPart.admitted corr .laneClose lane
    (x.state ≠ .closed → endsAs (.laneOpen corr lane) s (p.refuse corr .laneOpen .wrongState)) ∧
    (x.state = .closed → s.clock.valid = false →
      endsAs (.laneOpen corr lane) s (p.refuse corr .laneOpen .timeInvalid)) ∧
    (x.state = .closed → s.clock.valid = true → x.adoptedValid = false →
      endsAs (.laneOpen corr lane) s (p.refuse corr .laneOpen .tablesInvalid)) ∧
    (x.state = .closed → s.clock.valid = true → x.adoptedValid = true →
      (∃ d ∈ l.decks, (s.toPart.deck d).service ≠ .trade) →
      endsAs (.laneOpen corr lane) s (p.refuse corr .laneOpen .wrongState)) ∧
    (x.state = .closed → s.clock.valid = true → x.adoptedValid = true →
      (∀ d ∈ l.decks, (s.toPart.deck d).service = .trade) → endsAs (.laneOpen corr lane) s
        (((p.modLane l fun y => { y with state := .opened }).notify (.laneState l .opened x.causes)).done corr .laneOpen)) ∧
    (x.stopLatch = false ∨ x.stopInput = true →
      ((x.state = .closed ∨ x.state = .fault) → endsAs (.laneClose corr lane) s (r.done corr .laneClose)) ∧
      (x.state = .opened → x.visit = none → endsAs (.laneClose corr lane) s
        (((r.modLane l fun y => { y with state := .closed, blocks := { y.blocks with closeRequested := false } }).notify
          (.laneState l .closed x.causes)).done corr .laneClose)) ∧
      ((x.state = .audit ∨ x.state = .opened ∧ x.visit ≠ none) → endsAs (.laneClose corr lane) s
        ((r.modLane l fun y => { y with blocks := { y.blocks with closeRequested := true } }).done corr .laneClose))) ∧
    (x.stopLatch = true → x.stopInput = false → x.state = .fault → x.visit = none →
      x.causes = { LaneCauses.empty with laneStop := true } → endsAs (.laneClose corr lane) s
        (((r.modLane l fun y => { y with
          stopLatch := false, causes := .empty, state := .closed, blocks := { y.blocks with closeRequested := false } }).notify
            (.laneState l .closed .empty)).done corr .laneClose))

/-- R56, R57: the rows of CONSIGN: a malformed vehicle id or a field out of its range, a time base that is not valid, a
vehicle that waits in CONSIGN_WAIT on lane `l`, one whose visit holds a consignment or that has a pending entry, one that is
listed, whose entry is replaced at the end of the list, and any other. -/
def Obligations.ConsignRows : Prop :=
  (∀ c : Consignment, consignmentOk c = true ↔ 1 ≤ c.commodity.toNat ∧ c.commodity.toNat ≤ 999 ∧
    (∀ b ∈ [c.grade0, c.grade1], 0x41 ≤ b.toNat ∧ b.toNat ≤ 0x5A ∨ 0x30 ≤ b.toNat ∧ b.toNat ≤ 0x39) ∧
    ∀ b, c.bin = some b → 1 ≤ b.toNat ∧ b.toNat ≤ 64) ∧
  ∀ (corr : U16) (vehicle : List Byte) (c : Consignment) (s : State), s.toPart.settingsSettled → s.toPart.takes corr →
    let p := s.toPart.admitted corr .consign
    let ends := endsAs (.consign corr vehicle c) s
    ((parseVehicle vehicle = none ∨ consignmentOk c = false) → ends (p.refuse corr .consign .badValue)) ∧
    ∀ v, parseVehicle vehicle = some v → consignmentOk c = true →
      (s.clock.valid = false → ends (p.refuse corr .consign .timeInvalid)) ∧
      (s.clock.valid = true →
        (∀ l w, s.toPart.visit l = some w → w.vehicle = some v → w.state = .consignWait →
          (∀ w', s.toPart.visit l.other = some w' → ¬ (w'.vehicle = some v ∧ w'.state = .consignWait)) → ends
            ((p.modLane l fun x => { x with
              visit := some { w with consignment := some c, state := .entering, storeWait := false },
              waitTimer := .stopped, settleTimer := .stopped
              quietTimer := .running (s.clock.running + 10000 * (s.toPart.settings l).quietTime) }).done corr .consign)) ∧
        ((∀ l w, s.toPart.visit l = some w → w.vehicle = some v → w.state ≠ .consignWait) →
          let active := (∃ l w, s.toPart.visit l = some w ∧ w.vehicle = some v ∧ w.consignment ≠ none) ∨
            s.pairing.find v ≠ none
          let lists := fun (old : List ConsignEntry) => ends (({ p with pairing := { p.pairing with
            consignments := old ++ [⟨v, c, s.clock.sec⟩] } } : Part).done corr .consign)
          (active → ends (p.refuse corr .consign .alreadyActive)) ∧
          (¬ active →
            (s.pairing.findConsignment v ≠ none →
              lists (s.pairing.consignments.filter fun x => decide (x.vehicle ≠ v))) ∧
            (s.pairing.findConsignment v = none →
              (s.pairing.consignments.length < 16 → lists s.pairing.consignments) ∧
              (16 ≤ s.pairing.consignments.length → ends (p.refuse corr .consign .full))))))

/-- R106, R107, R115: CANCEL_PENDING of a vehicle with and without an OPEN entry, and PENDING_READ, which reports a slot
dirty until the write of its present content has ended. -/
def Obligations.PendingRequests : Prop :=
  (∀ (corr : U16) (vehicle : List Byte) (s : State), s.toPart.settingsSettled → s.toPart.takes corr →
    let p := s.toPart.admitted corr .cancelPending
    (parseVehicle vehicle = none → endsAs (.cancelPending corr vehicle) s (p.refuse corr .cancelPending .badValue)) ∧
    ∀ v, parseVehicle vehicle = some v →
    (s.pairing.find v = none → endsAs (.cancelPending corr vehicle) s (p.refuse corr .cancelPending .notFound)) ∧
    ∀ i e, s.pairing.find v = some (i, e) →
      ((∀ g, e.state ≠ .opened g) → endsAs (.cancelPending corr vehicle) s (p.refuse corr .cancelPending .claimed)) ∧
      ∀ g, e.state = .opened g →
        (s.store.fault = true → endsAs (.cancelPending corr vehicle) s (p.refuse corr .cancelPending .storeFault)) ∧
        (s.store.fault = false → 8 ≤ s.tickets.staging.length →
          endsAs (.cancelPending corr vehicle) s (p.refuse corr .cancelPending .storeBusy)) ∧
        (s.store.fault = false → s.tickets.staging.length < 8 →
          ∃ q, ∃ t : Ticket, endsAs (.cancelPending corr vehicle) s q ∧ q.slot i = none ∧
            (∀ j, j ≠ i → q.slot j = s.toPart.slot j) ∧ i ∈ q.pairing.dirty ∧
            q.tickets.staging = s.tickets.staging ++ [⟨t, none⟩] ∧ t.kind = .cancelled ∧ t.vehicle = e.vehicle ∧
            t.regIndex = e.regIndex ∧ t.side = { g with verdict := { g.verdict with heldReleased := false } } ∧
            t.tare = .absent ∧ t.net = none ∧ t.exitAxles = none ∧ t.heldReleased = g.verdict.heldReleased ∧
            (∀ l, (q.lane l).blocks.storeBusy =
              ((s.toPart.lane l).blocks.storeBusy || decide (s.tickets.staging.length = 7))) ∧
            q.link = (p.done corr .cancelPending (.cancelled i)).link ∧ q.decks = s.decks ∧ q.audit = s.audit)) ∧
  ∀ (corr : U16) (index : Byte) (s : State), s.toPart.settingsSettled → s.toPart.takes corr → index.toNat ≤ 63 →
    endsAs (.pendingRead corr index) s ((s.toPart.admitted corr .pendingRead).done corr .pendingRead
      (.pending index.toNat (s.toPart.slot index.toNat)
        (decide (index.toNat ∈ s.pairing.dirty) || decide (s.store.op.map (·.kind) = some (.mirror index.toNat)))
        s.pairing.held))

/-- R65, R66, R69, R70, R101: RELEASE of a held GROSS visit, and of a held GROSS_PRESET one, which needs a staging place;
VISIT_ABORT of a visit before EXITING, on the decks or not; both refused without one. That an abort and a release clear
STORE_WAIT (log 32), and that a visit ended at once has its exit axle count entered in every staged ticket with its tag
(log 45), are the model's choices. -/
def Obligations.ReleaseAndAbort : Prop :=
  ∀ (corr : U16) (lane : Byte) (l : LaneId) (s : State), s.toPart.settingsSettled → s.toPart.takes corr →
    lane.toNat = l.toNat →
    let p := s.toPart.admitted corr .release lane
    let r := s.toPart.admitted corr .visitAbort lane
    ((∀ v, s.toPart.visit l = some v → v.state ≠ .held) →
      endsAs (.release corr lane) s (p.refuse corr .release .wrongState)) ∧
    ((∀ v, s.toPart.visit l = some v → v.state = .exiting ∨ v.state = .clearing) →
      endsAs (.visitAbort corr lane) s (r.refuse corr .visitAbort .wrongState)) ∧
    ∀ v, s.toPart.visit l = some v →
      (∀ i e c g, v.pendingIndex = some i → s.toPart.slot i = some e → v.state = .held → v.kind = some .gross →
        v.capture = some c → v.consignment = some g → ∃ q, endsAs (.release corr lane) s q ∧
          q.visit l = some { v with state := .exiting, heldReleased := true, storeWait := false } ∧
          q.slot i = some { e with
          state := .opened ⟨c.gross, c.time, l, c.counts, g,
            ⟨c.verdict.kind, c.verdict.classId, c.verdict.overGroups, c.verdict.overGross, true⟩⟩ } ∧
          (∀ j, j ≠ i → q.slot j = s.toPart.slot j) ∧ q.link = (p.done corr .release).link ∧
          q.lane l.other = s.toPart.lane l.other ∧ q.tickets = s.tickets ∧ q.decks = s.decks) ∧
      (v.state = .held → v.kind = some .grossPreset →
        (8 ≤ s.tickets.staging.length → endsAs (.release corr lane) s (p.refuse corr .release .storeBusy)) ∧
        ∀ c g t vehicle, s.tickets.staging.length < 8 → v.capture = some c → v.consignment = some g →
          v.preset = some t → v.vehicle = some vehicle → ∃ q, endsAs (.release corr lane) s q ∧
            q.visit l = some { v with state := .exiting, heldReleased := true, storeWait := false } ∧
            (q.lane l).clearTimer = s.toPart.clearsFrom l ∧ q.pairing = s.pairing ∧
            q.tickets = { s.tickets with staging := s.tickets.staging ++ [⟨{
              kind := if (t.mass : Int) < c.gross then .presetNet else .void, vehicle := vehicle, regIndex := v.regIndex
              side := ⟨c.gross, c.time, l, c.counts, g,
                ⟨c.verdict.kind, c.verdict.classId, c.verdict.overGroups, c.verdict.overGross, false⟩⟩
              tare := .preset t.mass t.date
              net := if (t.mass : Int) < c.gross then some (c.gross - t.mass) else none, exitAxles := none
              heldReleased := true, exitOverrun := v.exitOverrun }, some (l, v.count)⟩] } ∧
            (∀ m, (q.lane m).blocks.storeBusy =
              ((s.toPart.lane m).blocks.storeBusy || decide (s.tickets.staging.length = 7))) ∧
            q.link = (p.done corr .release).link ∧ q.decks = s.decks) ∧
      ((v.state = .entering ∨ v.state = .settling ∨ v.state = .held) → ∃ q, endsAs (.visitAbort corr lane) s q ∧
        q.lane l = (s.toPart.lane l).aborts v .siteAbort (s.toPart.clearsFrom l) ∧ s.toPart.releases q v ∧
        q.link = ((r.notify (.visitAborted l v.count v.vehicle v.kind .siteAbort)).done corr .visitAbort).link ∧
        q.lane l.other = s.toPart.lane l.other ∧ q.tickets = s.tickets ∧ q.decks = s.decks) ∧
      ((v.state = .identify ∨ v.state = .consignWait) → s.toPart.closesPlainly l →
        ∃ q, endsAs (.visitAbort corr lane) s q ∧ q.lane l = (s.toPart.lane l).emptySlot ∧ s.toPart.releases q v ∧
          q.tickets = { s.tickets with
            staging := exitEntered l v.count (s.toPart.lane l).exitAxles s.tickets.staging } ∧
          q.link = ((r.notify (.visitAborted l v.count v.vehicle v.kind .siteAbort)).done corr .visitAbort).link ∧
          q.lane l.other = s.toPart.lane l.other ∧ q.decks = s.decks)

/-! ## The time base -/

/-- R58, R96, R104, R189: the list's order; a minute boundary, the one that is due or the one that comes next, with its
scans where the part runs; a boundary that cannot come; and the wrap of the site clock. Each overdue entry that finds room
in the staging queue leaves its slot, in the list's order, with an UNPAIRED ticket of its gross side and a PENDING_EXPIRED
notice. Of two entries with one creation number the lower slot coming first (log 44), scans that run when the boundary is
taken, however late, with the mark of a due boundary (log 3), a command that brings the clock to the next boundary or to
the wrap (log 2), and the scan of the pending-tare list before that of the consignment list, with the CONSIGN_EXPIRED
notices in the order of that list (log 40), are the model's choices. -/
def Obligations.ClockEvents : Prop :=
  (∀ x : Pairing, (∀ i, i ∈ x.order ↔ ∃ e, x.slots[i]? = some (some e)) ∧ x.order.Pairwise fun i j =>
    ∀ e f, x.slots[i]? = some (some e) → x.slots[j]? = some (some f) →
      e.creation < f.creation ∨ e.creation = f.creation ∧ i < j) ∧
  ∀ s : State, s.toPart.settingsSettled → s.clock.ms ≤ 999 → s.clock.sec < secLimit →
    let minute := 60 * (s.clock.sec / 60) + 60
    let reaches := fun (sec : Nat) => 10 * (s.clock.running / 10 + (1000 * (sec - s.clock.sec) - s.clock.ms))
    let p : Part := { s.toPart with clock :=
      if s.clock.boundaryDue then { s.clock with boundaryDue := false }
      else { running := reaches minute, sec := minute, ms := 0, valid := true, boundaryDue := false } }
    let out := p.overdueEntries.take (8 - s.tickets.staging.length)
    let stale := s.pairing.consignments.filter fun c => decide (c.entered + 60 * p.site.consignAge < p.clock.sec)
    (s.clock.valid = true → (s.clock.boundaryDue = true ∨ minute < secLimit) →
      (s.phase ≠ .running → endsAs .minuteBoundary s p) ∧
      (s.phase = .running → ∃ q, endsAs .minuteBoundary s q ∧ q.clock = p.clock ∧
        q.tickets = { s.tickets with staging := s.tickets.staging ++
          (out.map fun x => ⟨x.2.1.soloTicket .unpaired x.2.2, none⟩) } ∧
        (∀ x ∈ out, let k := x.2.1.soloTicket .unpaired x.2.2
          k.kind = .unpaired ∧ k.vehicle = x.2.1.vehicle ∧ k.regIndex = x.2.1.regIndex ∧
            k.side = { x.2.2 with verdict := { x.2.2.verdict with heldReleased := false } } ∧ k.tare = .absent ∧
            k.net = none ∧ k.exitAxles = none ∧ k.heldReleased = x.2.2.verdict.heldReleased ∧ k.exitOverrun = false) ∧
        (∀ i, q.slot i = if i ∈ out.map (·.1) then none else s.toPart.slot i) ∧
        q.pairing.dirty = s.pairing.dirty ++ (out.map (·.1)).filter (fun i => decide (i ∉ s.pairing.dirty)) ∧
        q.pairing.consignments = (s.pairing.consignments.filter fun c =>
          decide (p.clock.sec ≤ c.entered + 60 * p.site.consignAge)) ∧
        q.link = p.told ((out.map fun x => .pendingExpired x.2.1.vehicle x.1 x.2.2.gross x.2.2.time) ++
          (stale.map fun c => .consignExpired c.vehicle c.consignment.commodity)) ∧
        (∀ l, q.lane l = { s.toPart.lane l with blocks := { (s.toPart.lane l).blocks with
          storeBusy := (s.toPart.lane l).blocks.storeBusy ||
            decide (out ≠ [] ∧ 8 ≤ s.tickets.staging.length + out.length) } }) ∧
        q.pairing.nextCreation = s.pairing.nextCreation ∧ q.decks = s.decks ∧ q.audit = s.audit)) ∧
    ((s.clock.valid = false ∨ s.clock.boundaryDue = false ∧ secLimit ≤ minute) → endsAs .minuteBoundary s s.toPart) ∧
    endsAs .siteClockWrap s { s.toPart with clock :=
      { running := reaches secLimit, sec := 0, ms := 0, valid := false, boundaryDue := false } }

/-! ## Audits -/

/-- R148-R150, R160: AUDIT_OPEN is refused, waits for the lane's visit, or becomes ACTIVE at once; and a session that
waits too long lapses. -/
def Obligations.AuditOpenRows : Prop :=
  (∀ (corr : U16) (deck : Byte) (d : DeckId) (reason : AuditReason) (s : State), s.toPart.settingsSettled →
    s.toPart.takes corr → d.val = deck.toNat →
    let p := s.toPart.admitted corr .auditOpen
    let c := Instr.auditOpen corr deck (.known reason)
    let new : Session := { deck := d, reason := reason, openTime := s.toPart.siteTime, atOpen := none, writes := 0,
                           steps := [], firstCounted := 1, inFlight := none }
    (∀ code, endsAs (.auditOpen corr deck (.undefined code)) s (p.refuse corr .auditOpen .badValue)) ∧
    (s.audit.session ≠ none → endsAs c s (p.refuse corr .auditOpen .sessionActive)) ∧
    (s.audit.session = none → s.store.fault = true → endsAs c s (p.refuse corr .auditOpen .storeFault)) ∧
    (s.audit.session = none → s.store.fault = false → s.audit.trail.free ≤ 32 →
      endsAs c s (p.refuse corr .auditOpen .trailFull)) ∧
    (s.audit.session = none → s.store.fault = false → 32 < s.audit.trail.free →
      ((s.toPart.visit (laneOf d)).isSome = true → endsAs c s
        ((((({ p with audit := { p.audit with
          session := some new, waitTimer := .running (s.clock.running + 600000 * s.toPart.site.auditWait) } } : Part).modLane
            (laneOf d) fun x => { x with blocks := { x.blocks with auditPending := true } }).notify
              (.auditPending d reason))).done corr .auditOpen (.sessionOpened false))) ∧
      (s.toPart.visit (laneOf d) = none → ∃ q, endsAs c s q ∧
        q.audit.session = some { new with
          atOpen := some ⟨(s.toPart.lane (laneOf d)).state, (s.toPart.deck d).service, (s.toPart.deck d).counter⟩ } ∧
        (q.deck d).service = .audit ∧ (q.deck d).marker = some 0 ∧ (q.deck d).filter = [] ∧ (q.deck d).stability = [] ∧
        (q.deck d).published = none ∧ (q.deck d).status = .noData ∧ (q.deck d).cal = (s.toPart.deck d).cal ∧
        (q.deck d).causes = (s.toPart.deck d).causes ∧ (q.lane (laneOf d)).state = .audit ∧
        (q.lane (laneOf d)).blocks.auditPending = false ∧ (∀ e, e ≠ d → q.deck e = s.toPart.deck e) ∧
        (s.audit.trail.gap = 0 → s.audit.trail.staging.length < 15 → q.audit.trail.staging = s.audit.trail.staging ++
          [⟨some d, s.toPart.siteTime, s.clock.valid, .auditOpen reason (s.toPart.lane (laneOf d)).state
              (s.toPart.deck d).service (s.toPart.deck d).counter s.toPart.siteTime⟩,
           ⟨some d, s.toPart.siteTime, s.clock.valid,
              .service (s.toPart.deck d).service .audit (s.toPart.deck d).causes⟩]) ∧
        q.link.responses = s.link.responses ++ [⟨corr, 23, .done (.sessionOpened true), false, false⟩] ∧
        q.tickets = s.tickets ∧ q.tables = s.tables ∧ q.pairing = s.pairing))) ∧
  ∀ (x : Session) (deadline : Nat) (s : State), s.toPart.settingsSettled → s.audit.waitTimer = .running deadline →
    s.audit.session = some x → endsAs .auditWaitExpiry s
      ((({ s.toPart.reach deadline with audit := { s.audit with session := none, waitTimer := .stopped } } : Part).modLane
        (laneOf x.deck) fun y => { y with blocks := { y.blocks with auditPending := false } }).notify
          (.auditLapsed x.deck x.reason))

/-- R151, R152: the rows of AUDIT_STEP, with a usable entry and without one (a ZERO or RETURN_ZERO step does not need one,
log 20); the step timer, which ends a step in flight NO_STABLE; a good sample on the session's deck: a stable evaluation
completes the step with its reading, judged by the mpe, and a window restart, by a sequence gap or a changed cell status,
ends it NO_STABLE; and a frame with a bad cell there, which ends it NO_STABLE too. That the positions beyond the cells in
use are remembered as GOOD is the model's choice (log 38). -/
def Obligations.AuditStepRows : Prop :=
  (∀ (corr : U16) (kind : StepKind) (reference : U32) (cell : Option Byte) (s : State), s.toPart.settingsSettled →
    s.toPart.takes corr →
    let p := s.toPart.admitted corr .auditStep
    let c := Instr.auditStep corr (.known kind) reference cell
    let refused := fun (r : Reason) => endsAs c s (p.refuse corr .auditStep r)
    ((∀ x, s.audit.session = some x → x.atOpen = none) → refused .noSession) ∧
    ∀ x o, s.audit.session = some x → x.atOpen = some o →
      ((x.inFlight ≠ none ∨ s.audit.calWrite ≠ none) → refused .busy) ∧
      (x.inFlight = none → s.audit.calWrite = none →
        (24 ≤ x.steps.length → refused .stepsFull) ∧
        (x.steps.length < 24 →
          (∀ code, endsAs (.auditStep corr (.undefined code) reference cell) s (p.refuse corr .auditStep .badValue)) ∧
          let cal := (s.toPart.deck x.deck).cal
          let weighed := kind = .load ∨ kind = .corner
          let fits := ¬ weighed ∧ reference = 0 ∨
            ∃ k b, cal = some ⟨k, b, false⟩ ∧ 1 ≤ reference.toInt ∧ reference.toInt ≤ k.capacity ∧
              (kind = .load ∨ kind = .corner ∧ ∃ i : Byte, cell = some i ∧ i.toNat < k.cells.length)
          (weighed → ∀ k, cal = some k → k.damaged = true ∨ k.parityOk = true) →
            (¬ fits → refused .badValue) ∧
            (fits → s.audit.trail.free ≤ 32 → refused .trailFull) ∧
            (fits → 32 < s.audit.trail.free →
              let used := if kind = .corner then cell.map (·.toNat) else none
              let y : Session := { x with
                steps := x.steps ++ [⟨kind, reference.toInt, used, none, none⟩], inFlight := some (x.steps.length + 1) }
              endsAs c s (({ p with audit := { p.audit with
                session := some y, stepTimer := .running (s.clock.running + 600000) } } : Part).respond corr .auditStep
                  (.accepted (.stepNumber (x.steps.length + 1)))))))) ∧
  (∀ (x : Session) (n deadline : Nat) (st : AuditStepRec) (s : State), s.toPart.settingsSettled →
    s.audit.stepTimer = .running deadline → s.audit.session = some x → x.inFlight = some n → x.steps[n - 1]? = some st →
    ∃ q, endsAs .stepTimerExpiry s q ∧
      q.audit.session = some { x with
        steps := x.steps.set (n - 1) { st with reading := none, result := some .noStable }, inFlight := none } ∧
      q.audit.stepTimer = .stopped ∧ q.audit.trail = (s.toPart.reach deadline).handed (some x.deck)
        (.step n st.kind st.reference st.cell .noStable none) ∧
      q.link = ((s.toPart.reach deadline).notify
        (.stepDone x.deck n { st with reading := none, result := some .noStable })).link ∧
      q.decks = s.decks ∧ q.tickets = s.tickets ∧ q.tables = s.tables ∧ q.pairing = s.pairing ∧
      ∀ l, sameButTrailFull (s.toPart.lane l) (q.lane l)) ∧
  ∀ (x : Session) (n : Nat) (st : AuditStepRec) (wire : List Byte) (f : Sample) (c : CalEntry) (s : State),
    s.toPart.settingsSettled → s.phase = .running → s.audit.session = some x → x.inFlight = some n →
    x.steps[n - 1]? = some st → s.toPart.visit (laneOf x.deck) = none →
    let deck := s.toPart.deck x.deck
    deck.service = .audit → deck.cal = some ⟨c, true, false⟩ → parseSample wire = some f → f.node = c.node →
    f.deck = x.deck.val → c.cells.length ≤ f.cells.length → deck.lastSeq ≠ some f.seq →
    let used := (f.cells.take c.cells.length).map (·.2)
    let gap := missing deck.lastSeq f.seq
    let restarts := 3 < gap ∨ deck.remembered.take c.cells.length ≠ used
    let completes := fun (q : Part) (y : Deck) (reading : Option Reading) (result : StepResult) =>
      endsAs (.sampleFrame x.deck wire) s q ∧ q.deck x.deck = y ∧ (∀ e, e ≠ x.deck → q.deck e = s.toPart.deck e) ∧
      q.audit.session = some { x with
        steps := x.steps.set (n - 1) { st with reading := reading, result := some result }, inFlight := none } ∧
      q.audit.stepTimer = .stopped ∧
      q.audit.trail = s.toPart.handed (some x.deck) (.step n st.kind st.reference st.cell result reading) ∧
      q.link = s.toPart.told [.stepDone x.deck n { st with reading := reading, result := some result }] ∧
      (∀ l, sameButTrailFull (s.toPart.lane l) (q.lane l)) ∧ q.pairing = s.pairing ∧ q.tickets = s.tickets
    ((∃ y ∈ used, y ≠ .good) → ∃ q, completes q { (if restarts then deck.restart else deck) with
      lastSeq := some f.seq, gapCount := min 65535 (deck.gapCount + gap)
      sampleTimer := .running (s.clock.running + 10 * c.timeout)
      remembered := used ++ List.replicate (8 - c.cells.length) .good, badCells := true, status := .noData
      published := none, clearance := .stopped, causes := { deck.causes with cellFault := true }
      persisted := (q.deck x.deck).persisted } none .noStable) ∧
    ((∀ y ∈ used, y = .good) → deck.causes.linkLoss = false → deck.causes.cellFault = false →
      (∀ m, s.monitor.selection = some m → m.1 ≠ x.deck) →
      let y := s.toPart.sampled x.deck c f
      (restarts → ∃ q, completes q y none .noStable) ∧
      (¬ restarts → y.status ≠ .stable → endsAs (.sampleFrame x.deck wire) s (s.toPart.modDeck x.deck fun _ => y)) ∧
      ∀ w, ¬ restarts → y.status = .stable → y.published = some w →
        let error := w.expanded - 1000 * st.reference
        let limit : Nat := if st.reference ≤ 500 * (c.e : Int) then c.e
          else if st.reference ≤ 2000 * (c.e : Int) then 2 * c.e else 3 * c.e
        ∃ q, completes q y (some ⟨w.expanded, error, limit⟩)
          (if |error| ≤ 1000 * (limit : Int) then .pass else .fail))

/-- R16, R153, R154, R156: every row of CAL_WRITE and of ZERO_SET, for a deck whose entry is good; a CAL_WRITE also for one
whose entry is damaged or absent. An accepted CAL_WRITE, and a ZERO_SET in AUDIT, stages its trail record and waits; ZERO_SET
takes the filtered value in TRADE. That the record of a CAL_WRITE takes the CRC-32 of the deck's present content is the
model's reading, and the CRC-32 of a deck without an entry is open (log 7). -/
def Obligations.CalibrationRequests : Prop :=
  ∀ (corr : U16) (deck : Byte) (d : DeckId) (s : State), s.toPart.settingsSettled → s.toPart.takes corr →
    d.val = deck.toNat →
    let x := s.toPart.deck d
    let t := s.audit.trail
    let barred : Option Reason :=
      if t.free ≤ 32 ∨ 4294967295 < t.nextSeq then some .trailFull
      else if 16 ≤ t.staging.length ∨ 15 ≤ t.staging.length ∧ 0 < t.gap then some .busy
      else if s.store.fault = true then some .storeFault
      else if s.store.hold = .held then some .storeHeld
      else none
    (∀ (entry : List Byte) (calEn : Bool),
      let c := Instr.calWrite corr deck entry calEn
      let p : Part := { s.toPart.admitted corr .calWrite with calEn := calEn }
      let refused := fun (r : Reason) => endsAs c s (p.refuse corr .calWrite r)
      ((∀ y, s.audit.session = some y → y.atOpen = none ∨ y.deck ≠ d) → refused .noSession) ∧
      ∀ y, s.audit.session = some y → y.atOpen ≠ none → y.deck = d →
        ((y.inFlight ≠ none ∨ s.audit.calWrite ≠ none) → refused .busy) ∧
        (y.inFlight = none → s.audit.calWrite = none →
          (calEn = false → refused .switchOpen) ∧
          (calEn = true → parseCalEntry (entry.take 15) (entry.drop 15) = none → refused .badValue) ∧
          ∀ e, calEn = true → parseCalEntry (entry.take 15) (entry.drop 15) = some e →
            (4294967295 ≤ x.counter → refused .wrongState) ∧
            (x.counter < 4294967295 → ∀ r, barred = some r → refused r) ∧
            (x.counter < 4294967295 → barred = none → (∀ k, x.cal = some k → k.damaged = true ∨ k.parityOk = true) →
              ∃ q old, endsAs c s q ∧ (∀ i, s.toPart.image d = some i → old = i.crc) ∧ q.calEn = true ∧
                q.audit.calWrite = some ⟨corr, d, .entry e, x.counter + 1, .trail⟩ ∧
                q.audit.trail = s.toPart.handed (some d) (.calChange old
                  (⟨d, e, x.counter + 1, x.persisted, some (y.writes + 1)⟩ : CalImage).crc (x.counter + 1)) ∧
                q.audit.session = s.audit.session ∧ q.decks = s.decks ∧ q.store = s.store ∧ q.link = p.link ∧
                ∀ l, sameButTrailFull (s.toPart.lane l) (q.lane l)))) ∧
    ∀ k, x.cal = some ⟨k, true, false⟩ →
      let c := Instr.zeroSet corr deck
      let p := s.toPart.admitted corr .zeroSet deck
      let refused := fun (r : Reason) => endsAs c s (p.refuse corr .zeroSet r)
      (x.service = .suspended ∨ x.service = .fault → refused .wrongState) ∧
      (x.service = .trade →
        ((s.toPart.visit (laneOf d)).isSome = true ∨ x.status ≠ .stable → refused .wrongState) ∧
        ∀ w, x.published = some w → s.toPart.visit (laneOf d) = none → x.status = .stable →
          (100 * |w.filtered - 1000 * k.zcal| ≤ k.zeroRange * (1000 * k.capacity) →
            endsAs c s ((p.modDeck d fun x => { x with zd := some w.filtered }).done corr .zeroSet)) ∧
          ((k.zeroRange : Int) * (1000 * k.capacity) < 100 * |w.filtered - 1000 * k.zcal| → refused .badValue)) ∧
      (x.service = .audit → ∀ y, s.audit.session = some y → y.atOpen ≠ none →
        ((y.inFlight ≠ none ∨ s.audit.calWrite ≠ none) → refused .busy) ∧
        (y.inFlight = none → s.audit.calWrite = none →
          (x.status ≠ .stable → refused .wrongState) ∧
          (x.status = .stable → 4294967295 ≤ x.counter → refused .wrongState) ∧
          ∀ w, x.status = .stable → x.counter < 4294967295 → x.published = some w →
            let z := roundHalfAway w.filtered 1000
            ((k.capacity : Int) < |z| → refused .badValue) ∧
            (|z| ≤ k.capacity → ∀ r, barred = some r → refused r) ∧
            (|z| ≤ k.capacity → barred = none → ∃ q, endsAs c s q ∧
              q.audit.calWrite = some ⟨corr, d, .zero z, x.counter + 1, .trail⟩ ∧
              q.audit.trail = s.toPart.handed (some d) (.zeroSet k.zcal z (x.counter + 1)) ∧
              q.audit.session = s.audit.session ∧ q.decks = s.decks ∧ q.store = s.store ∧ q.link = p.link ∧
              ∀ l, sameButTrailFull (s.toPart.lane l) (q.lane l))))

/-- R40, R142, R144, R146, R157-R159: the rows of the verdict of the counted steps, and of the deck's state after a
session; and AUDIT_CLOSE and AUDIT_ABORT without a session, with one that is PENDING, with one that is ACTIVE while a
calibration write is in progress, and with one that is ACTIVE on a deck in AUDIT of a lane in AUDIT, which leaves it for
FAULT, OPEN or CLOSED: with the records handed to the trail, the notices and the image write mark (that no mark is in the
making is log 47's `marking = []`, as it is between steps; log 13: a deck without an entry has no image to mark). The
deck's entry is good, damaged or absent, or one that the close finds failing. AUDIT_ABORT ends the session with a step in
flight too, and its AUDIT_CLOSE record counts the abandoned step among the recorded ones: the model's reading, log 34. -/
def Obligations.AuditEnds : Prop :=
  (∀ (first : Nat) (steps : List AuditStepRec) (c : Option CalEntry),
    let counted := fun (n : Nat) (x : AuditStepRec) => first ≤ n ∧ 1 ≤ n ∧ steps[n - 1]? = some x
    let fails := ∃ n x, counted n x ∧ (x.result = some .fail ∨ x.result = some .noStable)
    (∀ n x, counted n x → x.kind = .load → 1 ≤ x.reference) →
    (judgeSteps first steps c = .fail ↔ fails) ∧
    (judgeSteps first steps c = .pass ↔ ¬ fails ∧ ∃ k, c = some k ∧ (∃ n x, counted n x ∧ x.kind = .zero) ∧
      (∃ refs : List Int, refs.Nodup ∧ 3 ≤ refs.length ∧
        ∀ r ∈ refs, ∃ n x, counted n x ∧ x.kind = .load ∧ x.reference = r) ∧
      (∃ n x, counted n x ∧ x.kind = .load ∧ (k.capacity : Int) ≤ 2 * x.reference) ∧
      (∀ i, i < k.cells.length → ∃ n x, counted n x ∧ x.kind = .corner ∧ x.cell = some i) ∧
      ∃ n x, counted n x ∧ x.kind = .returnZero ∧ ∀ m y, counted m y → y.kind = .load →
        (∀ j z, counted j z → z.kind = .load → z.reference ≤ y.reference) → m < n)) ∧
  (∀ (writes : Nat) (o : ServiceState) (causes : DeckCauses),
    stateAfterSession .fail writes o causes = .suspended ∧
    stateAfterSession .pass writes o causes = (if causes = .empty then .trade else .fault) ∧
    (1 ≤ writes → stateAfterSession .incomplete writes o causes = .suspended) ∧
    stateAfterSession .incomplete 0 .trade causes = (if causes = .empty then .trade else .fault) ∧
    stateAfterSession .incomplete 0 .fault causes = (if causes = .empty then .suspended else .fault) ∧
    stateAfterSession .incomplete 0 .suspended causes = .suspended) ∧
  ∀ (corr : U16) (s : State), s.toPart.settingsSettled → s.toPart.takes corr →
    let p := s.toPart.admitted corr .auditClose
    let r := s.toPart.admitted corr .auditAbort
    (s.audit.session = none → endsAs (.auditClose corr) s (p.refuse corr .auditClose .noSession) ∧
      endsAs (.auditAbort corr) s (r.refuse corr .auditAbort .noSession)) ∧
    (∀ x, s.audit.session = some x → s.audit.calWrite ≠ none →
      (x.atOpen ≠ none → endsAs (.auditClose corr) s (p.refuse corr .auditClose .busy)) ∧
      endsAs (.auditAbort corr) s (r.refuse corr .auditAbort .busy)) ∧
    ∀ x, s.audit.session = some x → s.audit.calWrite = none →
      (x.atOpen = none → endsAs (.auditClose corr) s (p.refuse corr .auditClose .wrongState) ∧
        endsAs (.auditAbort corr) s
          ((({ r with audit := { r.audit with session := none, waitTimer := .stopped } } : Part).modLane (laneOf x.deck)
            fun y => { y with blocks := { y.blocks with auditPending := false } }).done corr .auditAbort)) ∧
      ∀ o, x.atOpen = some o → (s.toPart.deck x.deck).service = .audit → (s.toPart.lane (laneOf x.deck)).state = .audit →
        let deck := s.toPart.deck x.deck
        let left := fun (q : Part) (v : AuditVerdict) (aborted : Bool) (causes : DeckCauses) (cal : Option CalSlot) =>
          let after := stateAfterSession v x.writes o.deck causes
          let closed := s.toPart.handed (some x.deck) (.auditClose v aborted x.steps.length
            (x.steps.length - (x.firstCounted - 1)) x.writes o.count deck.counter after)
          q.audit.trail = ({ s.toPart with audit := { s.audit with trail := closed } } : Part).handed (some x.deck)
            (.service .audit after causes) ∧
          (cal = none → q.store = s.store) ∧
          (cal ≠ none → TableOp.image x.deck ∈ q.store.tableQueue) ∧
          (TableOp.image x.deck ∈ s.store.tableQueue → q.store = s.store) ∧
          (cal ≠ none → TableOp.image x.deck ∉ s.store.tableQueue → s.store.marking = [] →
            q.store.tableQueue = s.store.tableQueue ++ [.image x.deck]) ∧
          q.audit.session = none ∧ q.audit.stepTimer = .stopped ∧ q.audit.waitTimer = .stopped ∧
          (q.deck x.deck).marker = none ∧ (q.deck x.deck).causes = causes ∧ (q.deck x.deck).service = after ∧
          (q.deck x.deck).cal = cal ∧ (q.deck x.deck).counter = deck.counter ∧
          (let y := s.toPart.lane (laneOf x.deck)
           let z := q.lane (laneOf x.deck)
           z.causes = { y.causes with deckFault := y.causes.deckFault || decide (after = .fault) } ∧
           (z.causes ≠ .empty → z.state = .fault) ∧
           (z.causes = .empty → (o.lane = .opened ∧ (∀ e ∈ (laneOf x.deck).decks, (q.deck e).service = .trade) ∧
             y.blocks.closeRequested = false → z.state = .opened) ∧
             (o.lane ≠ .opened ∨ (∃ e ∈ (laneOf x.deck).decks, (q.deck e).service ≠ .trade) ∨
               y.blocks.closeRequested = true → z.state = .closed ∧ z.blocks.closeRequested = false))) ∧
          (q.lane (laneOf x.deck)).state ≠ .audit ∧ q.tickets = s.tickets ∧ q.tables = s.tables ∧ q.pairing = s.pairing ∧
          ∀ e, e ≠ x.deck → q.deck e = s.toPart.deck e
        let ended := fun (q : Part) (v : AuditVerdict) (causes : DeckCauses) =>
          let after := stateAfterSession v x.writes o.deck causes
          let z := q.lane (laneOf x.deck)
          [NoticeBody.deckService x.deck .audit after causes, .laneState (laneOf x.deck) z.state z.causes,
            .auditEnded x.deck v after]
        let closes := fun (entry : Option CalEntry) (found : List NoticeBody) (causes : DeckCauses) (cal : Option CalSlot) =>
          ∃ q, endsAs (.auditClose corr) s q ∧
            let v := judgeSteps x.firstCounted x.steps entry
            let after := if v = .pass then causes.autoOnly else causes
            left q v false after cal ∧
            q.link = (({ p with link := p.told (found ++ ended q v after) } : Part).done corr .auditClose (.verdict v)).link
        (x.inFlight ≠ none → endsAs (.auditClose corr) s (p.refuse corr .auditClose .busy)) ∧
        (x.inFlight = none →
          (deck.cal = none → closes none [] deck.causes none) ∧
          ∀ k, (∀ b, deck.cal = some ⟨k, b, true⟩ → closes none [] deck.causes deck.cal) ∧
            (deck.cal = some ⟨k, true, false⟩ → closes (some k) [] deck.causes deck.cal) ∧
            (deck.cal = some ⟨k, false, false⟩ →
              closes none [.parity (.deck x.deck)] { deck.causes with tableParity := true } (some ⟨k, false, true⟩))) ∧
        ((∀ c, deck.cal = some c → c.damaged = true ∨ c.parityOk = true ∨
            stateAfterSession .incomplete x.writes o.deck deck.causes ≠ .trade) →
          ∃ q, endsAs (.auditAbort corr) s q ∧ left q .incomplete true deck.causes deck.cal ∧
            q.link = (({ r with link := r.told (ended q .incomplete deck.causes) } : Part).done corr .auditAbort).link)

/-- R161: what becomes of a record handed to the trail. -/
def Obligations.TrailHandRows : Prop :=
  ∀ (t : Trail) (r gap : TrailRecord),
    (t.gap = 0 → 1 ≤ t.free → t.staging.length < 16 → t.hand r gap = { t with staging := t.staging ++ [r] }) ∧
    (t.gap = 0 → (t.free = 0 ∨ 16 ≤ t.staging.length) → t.hand r gap = { t with gap := 1 }) ∧
    (0 < t.gap → 2 ≤ t.free → t.staging.length + 2 ≤ 16 →
      t.hand r gap = { t with staging := t.staging ++ [gap, r], gap := 0 }) ∧
    (0 < t.gap → (t.free < 2 ∨ 16 < t.staging.length + 2) → t.hand r gap = { t with gap := min 65535 (t.gap + 1) })

/-! ## Record memory -/

/-- R108, R116, R121, R129, R132, R137, R146, R154, R162, R163, R166, R168: what PORT_GRANT grants, with the address and the bytes
of the record. The claimants stand in the order trail, ticket, mirror, table images, readout; the image that a calibration
write makes takes the deck's own mark with it; in store fault readout alone is granted. The staged entries of a commit's
record are read with their parity check (R129): one found failing is marked and reported in the step of the grant. That a
failing or damaged entry goes into its record as it stands, and that the calibration entry is not checked for its image,
are the model's choices (log 24), and so are the order of the notices of one record (log 31) and the value that a read mark
takes after the last serial or sequence, 4294967296, in its four bytes (log 25). -/
def Obligations.PortGrantRows : Prop :=
  ∀ s : State, s.toPart.settingsSettled →
    ((s.phase ≠ .running ∨ s.store.op ≠ none ∨ s.store.hold ≠ .none) → endsAs .portGrant s s.toPart) ∧
    (s.phase = .running → s.store.op = none → s.store.hold = .none →
      let go := fun (q : Part) (k : OpKind) (a : Nat) (bytes : List Byte) =>
        endsAs .portGrant s { q with store := { q.store with op := some ⟨k, a, bytes⟩ } }
      let r := s.audit.trail
      let t := s.tickets
      let fetches :=
        (∀ corr rs, s.store.readout = .ticket corr :: rs → t.oldestUnread < t.nextSerial →
          go { s.toPart with store := { s.store with readout := rs } } (.ticketFetch corr)
            (0x400 + 160 * ((t.oldestUnread - 1) % 2048)) []) ∧
        ∀ corr rs, s.store.readout = .trail corr :: rs → r.oldest < r.nextSeq →
          go { s.toPart with store := { s.store with readout := rs } } (.trailFetch corr)
            (0x50400 + 64 * ((r.oldest - 1) % 1024)) []
      (s.store.fault = false →
        (r.markWaiting = true → go s.toPart .trailMark 0x40 (markBytes .trailMark (r.oldest + 1))) ∧
        (r.markWaiting = false →
          (∀ x xs, r.staging = x :: xs → r.nextSeq ≤ 4294967295 →
            go s.toPart .trailRecord (0x50400 + 64 * ((r.nextSeq - 1) % 1024)) (trailBytes r.nextSeq x)) ∧
          (r.staging = [] → t.markWaiting = true →
            go s.toPart .ticketMark 0 (markBytes .ticketMark (t.oldestUnread + 1))) ∧
          (r.staging = [] → t.markWaiting = false →
            (∀ x xs, t.staging = x :: xs → t.nextSerial - t.oldestUnread < 2048 → t.nextSerial ≤ 4294967295 →
              go s.toPart .ticketRecord (0x400 + 160 * ((t.nextSerial - 1) % 2048)) (ticketBytes t.nextSerial x.ticket)) ∧
            (t.staging = [] →
              (∀ i is, s.pairing.dirty = i :: is → i < 64 →
                go { s.toPart with pairing := { s.pairing with dirty := is } } (.mirror i) (0x60400 + 96 * i)
                  (mirrorBytes i (s.toPart.slot i))) ∧
              (s.pairing.dirty = [] →
                (∀ o ops, s.store.tableQueue = o :: ops →
                  let p : Part := { s.toPart with store := { s.store with tableQueue := ops } }
                  (∀ (d : DeckId) i, o = .image d → s.audit.calWrite = none → s.toPart.image d = some i →
                    go p (.table o) (0x61C00 + 512 * d.val) i.bytes) ∧
                  (∀ i z m, o = .classRecord i → s.tables.classStaged[i]? = some z → s.tables.commit = some m →
                    let bytes := classRecordBytes i z.val m.crc
                    (z.settled → go p (.table o) (0x62800 + 64 * i) bytes) ∧
                    (z.fails = true → go { p with
                      tables := { s.tables with
                        classStaged := s.tables.classStaged.setIfInBounds i { z with damaged := true } }
                      link := s.toPart.told [.parity (.classEntry .staged i)] } (.table o) (0x62800 + 64 * i) bytes)) ∧
                  (∀ m, o = .settingsImage → s.tables.commit = some m →
                    let x := s.tables.settingsStaged
                    let read := fun (z : Slot LaneEntry) => { z with damaged := z.damaged || z.fails }
                    go { p with
                      tables := { s.tables with settingsStaged := ⟨⟨read x.lanes.l0, read x.lanes.l1⟩,
                        { x.site with damaged := x.site.damaged || x.site.fails }, x.crc⟩ }
                      link := s.toPart.told (parityNotices (.settingsEntry .staged)
                        [x.lanes.l0.fails, x.lanes.l1.fails, x.site.fails]) } (.table o) 0x63400
                      (settingsRecordBytes x m.crc)) ∧
                  (∀ m, o = .registerRecord → s.tables.regChange = some m → m.index < 1024 →
                    go p (.table o) (0x63800 + 48 * m.index) (regRecordBytes m.index m.entry)) ∧
                  ∀ (w : CalWrite) k i, o = .calWrite w.deck → s.audit.calWrite = some w →
                    (s.toPart.deck w.deck).marker = some k → s.toPart.newImage w.deck w.change w.newCount k = some i →
                    go { s.toPart with store := { s.store with tableQueue := ops.erase (.image w.deck) } } (.table o)
                      (0x61C00 + 512 * w.deck.val) i.bytes) ∧
                (s.store.tableQueue = [] → (s.store.readout = [] → endsAs .portGrant s s.toPart) ∧
                  fetches)))))) ∧
      (s.store.fault = true →
        (s.store.readout = [] → endsAs .portGrant s s.toPart) ∧
        fetches))

/-- R171-R173: a store hold is granted at once when the port is free, else requested, and granted when the operation has
ended; HOLD_READ reads the memory as it stands. That the later grant is an event of its own, that reads queue behind the
one being performed and that a read is refused NO_HOLD while a release waits are the model's choices (log 11). -/
def Obligations.HoldAndReads : Prop :=
  (∀ (corr : U16) (s : State), s.toPart.settingsSettled → s.toPart.takes corr →
    let p := s.toPart.admitted corr .storeHold
    (s.store.hold = .none →
      (s.store.op ≠ none →
        endsAs (.storeHold corr) s { p with store := { p.store with hold := .requested corr } }) ∧
      (s.store.op = none → endsAs (.storeHold corr) s
        ((({ p with store := { p.store with
          hold := .held, ending := .no, holdReadCount := 0
          holdTimer := .running (s.clock.running + 10000 * s.toPart.site.holdLimit) } } : Part).done corr .storeHold).notify
            (.holdGranted s.toPart.site.holdLimit)))) ∧
    (s.store.hold ≠ .none → endsAs (.storeHold corr) s (p.refuse corr .storeHold .wrongState))) ∧
  (∀ (corr : U16) (s : State), s.toPart.settingsSettled → s.store.hold = .requested corr →
    (s.store.op ≠ none → endsAs .storeHoldGrant s s.toPart) ∧
    (s.store.op = none → endsAs .storeHoldGrant s
      ((({ s.toPart with store := { s.store with
        hold := .held, ending := .no, holdReadCount := 0
        holdTimer := .running (s.clock.running + 10000 * s.toPart.site.holdLimit) } } : Part).done corr .storeHold).notify
          (.holdGranted s.toPart.site.holdLimit)))) ∧
  (∀ (corr : U16) (address : U32) (length : U16) (s : State), s.toPart.settingsSettled → s.toPart.takes corr →
    let a := address.toNat
    let n := length.toNat
    let c := Instr.holdRead corr address length
    let p := s.toPart.admitted corr .holdRead
    (0x80000 ≤ a → endsAs c s (p.refuse corr .holdRead .badTarget)) ∧
    (a < 0x80000 → (n = 0 ∨ 256 < n ∨ 0x80000 < a + n) → endsAs c s (p.refuse corr .holdRead .badValue)) ∧
    (1 ≤ n → n ≤ 256 → a + n ≤ 0x80000 →
      ((s.store.hold ≠ .held ∨ s.store.ending ≠ .no) → endsAs c s (p.refuse corr .holdRead .noHold)) ∧
      (s.store.hold = .held → s.store.ending = .no →
        (s.store.op ≠ none → endsAs c s
          { p with store := { p.store with holdReads := p.store.holdReads ++ [⟨corr, a, n⟩] } }) ∧
        (s.store.op = none → s.store.holdReads = [] → endsAs c s
          { p with store := { p.store with op := some ⟨.holdRead corr n, a, []⟩ } })))) ∧
  ∀ (corr : U16) (a n : Nat) (bytes : List Byte) (s : State), s.toPart.settingsSettled →
    s.store.op = some ⟨.holdRead corr n, a, bytes⟩ → s.store.ending = .no → s.store.holdReads = [] →
    endsAs .holdReadDone s (({ s.toPart with store := { s.store with
      op := none, holdReadCount := s.store.holdReadCount + 1 } } : Part).done corr .holdRead
        (.bytes ((List.range n).map fun i => memRead s.mem (a + i))))

/-- R172-R174: STORE_RELEASE and the hold timer's expiry end the hold, at once, or after the read being performed has been
answered, and the reads not begun are REFUSED NO_HOLD. At its end the port is granted in the same step: `grant` is what
PORT_GRANT does (PortGrantRows), and nothing where no claim waits. A release after a lapse is REFUSED NO_HOLD; a read that
is answered in a hold that goes on is followed by the next. That the reads not begun are refused before the answer of the
read being performed, and that a second release joins the one that waits, are the model's choices (log 11). -/
def Obligations.HoldEnds : Prop :=
  let unread := fun (p : Part) => ({ p with
    store := { p.store with holdReads := [] }
    link := { p.link with responses := p.link.responses ++
      p.store.holdReads.map fun r => ⟨r.corr, 31, .refused .noHold, false, false⟩ } } : Part)
  let ended := fun (p : Part) => ({ p with
    store := { p.store with hold := .none, ending := .no, holdTimer := .stopped } } : Part)
  (∀ p : Part, p.topClaim = none → p.grant = p) ∧
  (∀ s : State, s.toPart.settingsSettled → endsAs .portGrant s s.toPart.grant) ∧
  (∀ (corr : U16) (s : State), s.toPart.settingsSettled → s.toPart.takes corr →
    let p := s.toPart.admitted corr .storeRelease
    let c := Instr.storeRelease corr
    ((s.store.hold ≠ .held ∨ s.store.ending = .lapsed) → endsAs c s (p.refuse corr .storeRelease .noHold)) ∧
    (s.store.hold = .held → s.store.ending = .no →
      (s.store.op ≠ none → endsAs c s (unread { p with store := { p.store with
        ending := .released [corr], holdTimer := .stopped } })) ∧
      (s.store.op = none → endsAs c s (ended ((unread p).done corr .storeRelease)).grant)) ∧
    ∀ cs, s.store.hold = .held → s.store.ending = .released cs →
      endsAs c s { p with store := { p.store with ending := .released (cs ++ [corr]) } }) ∧
  (∀ (deadline : Nat) (s : State), s.toPart.settingsSettled → s.store.holdTimer = .running deadline →
    let p := s.toPart.reach deadline
    (s.store.op ≠ none → endsAs .holdTimerExpiry s (unread { p with store := { p.store with
      ending := .lapsed, holdTimer := .stopped } })) ∧
    (s.store.op = none →
      endsAs .holdTimerExpiry s (ended ((unread p).notify (.holdLapsed s.store.holdReadCount))).grant)) ∧
  ∀ (corr : U16) (a n : Nat) (bytes : List Byte) (s : State), s.toPart.settingsSettled →
    s.store.op = some ⟨.holdRead corr n, a, bytes⟩ →
    let p := ({ s.toPart with store := { s.store with
      op := none, holdReadCount := s.store.holdReadCount + 1 } } : Part).done corr .holdRead
        (.bytes ((List.range n).map fun i => memRead s.mem (a + i)))
    (∀ cs : List U16, s.store.ending = .released cs → endsAs .holdReadDone s (ended { p with link := { p.link with
      responses := p.link.responses ++ cs.map fun c => ⟨c, 30, .done .none, false, false⟩ } }).grant) ∧
    (s.store.ending = .lapsed →
      endsAs .holdReadDone s (ended (p.notify (.holdLapsed (s.store.holdReadCount + 1)))).grant) ∧
    ∀ r rs, s.store.ending = .no → s.store.holdReads = r :: rs → endsAs .holdReadDone s
      { p with store := { p.store with holdReads := rs, op := some ⟨.holdRead r.corr r.length, r.address, []⟩ } }

/-- R121-R123, R163, R164: the fetches and the acknowledgements when they are taken, and the answers of the reads. -/
def Obligations.FetchesAndAcks : Prop :=
  (∀ (corr : U16) (n : U32) (s : State), s.toPart.settingsSettled → s.toPart.takes corr →
    let tf := s.toPart.admitted corr .ticketFetch
    let rf := s.toPart.admitted corr .trailFetch
    let ta := s.toPart.admitted corr .ticketAck
    let ra := s.toPart.admitted corr .trailAck
    let t := s.tickets
    let r := s.audit.trail
    (t.nextSerial ≤ t.oldestUnread → endsAs (.ticketFetch corr) s (tf.refuse corr .ticketFetch .notFound)) ∧
    (t.oldestUnread < t.nextSerial → endsAs (.ticketFetch corr) s
      { tf with store := { tf.store with readout := tf.store.readout ++ [.ticket corr] } }) ∧
    (r.nextSeq ≤ r.oldest → endsAs (.trailFetch corr) s (rf.refuse corr .trailFetch .notFound)) ∧
    (r.oldest < r.nextSeq → endsAs (.trailFetch corr) s
      { rf with store := { rf.store with readout := rf.store.readout ++ [.trail corr] } }) ∧
    (s.store.fault = true → endsAs (.ticketAck corr n) s (ta.refuse corr .ticketAck .storeFault) ∧
      endsAs (.trailAck corr n) s (ra.refuse corr .trailAck .storeFault)) ∧
    (s.store.fault = false →
      (t.ack ≠ none → endsAs (.ticketAck corr n) s (ta.refuse corr .ticketAck .busy)) ∧
      (t.ack = none → (t.nextSerial ≤ t.oldestUnread ∨ n.toNat ≠ t.oldestUnread) →
        endsAs (.ticketAck corr n) s (ta.refuse corr .ticketAck .outOfOrder)) ∧
      (t.ack = none → t.oldestUnread < t.nextSerial → n.toNat = t.oldestUnread → endsAs (.ticketAck corr n) s
        { ta with tickets := { t with ack := some corr, markWaiting := true } }) ∧
      (r.ack ≠ none → endsAs (.trailAck corr n) s (ra.refuse corr .trailAck .busy)) ∧
      (r.ack = none → (r.nextSeq ≤ r.oldest ∨ n.toNat ≠ r.oldest) →
        endsAs (.trailAck corr n) s (ra.refuse corr .trailAck .outOfOrder)) ∧
      (r.ack = none → r.oldest < r.nextSeq → n.toNat = r.oldest → endsAs (.trailAck corr n) s
        { ra with audit := { s.audit with trail := { r with ack := some corr, markWaiting := true } } }))) ∧
  ∀ (o : Op) (corr : U16) (s : State), s.toPart.settingsSettled → s.store.op = some o →
    let p : Part := { s.toPart with store := { s.store with op := none } }
    (o.kind = .ticketFetch corr → endsAs .ticketFetchRead s (p.done corr .ticketFetch
      (.ticket s.tickets.oldestUnread (ticketAt s.mem s.tickets.oldestUnread)
        (s.tickets.nextSerial - s.tickets.oldestUnread) s.tickets.oldestUnread))) ∧
    (o.kind = .trailFetch corr → endsAs .trailFetchRead s (p.done corr .trailFetch
      (.trail s.audit.trail.oldest (trailAt s.mem s.audit.trail.oldest)
        (s.audit.trail.nextSeq - s.audit.trail.oldest) s.audit.trail.oldest)))

/-- R64, R108, R117, R120, R123, R147, R154, R162, R164: the ends of the writes of trail records, tickets, read marks and
mirror records. The verified record of a calibration write in progress brings the counter, the session's count of writes
and the marker forward, and makes the image's operation ready. The freed staging place is taken by a visit that waits for
it, with a NET or VOID ticket for a TARE visit and a PRESET_NET or VOID one for a GROSS_PRESET visit that is not screened;
one that is below the minimum gross by then is aborted. That STORE_WAIT is cleared by the capture and by the abort is the
model's choice (log 32). -/
def Obligations.RecordsWritten : Prop :=
  ∀ (o : Op) (s : State), s.toPart.settingsSettled → s.store.op = some o →
    let p : Part := { s.toPart with store := { s.store with op := none } }
    let r := s.audit.trail
    let t := s.tickets
    (∀ x xs, o.kind = .trailRecord → r.staging = x :: xs → s.audit.calWrite = none →
      writesAs .trailRecordWritten s o.address o.bytes
        { p with audit := { s.audit with trail := { r with staging := xs, nextSeq := r.nextSeq + 1 } } }) ∧
    (∀ x xs w, o.kind = .trailRecord → r.staging = x :: xs → s.audit.calWrite = some w →
      let written : Part := { p with audit := { s.audit with trail := { r with staging := xs, nextSeq := r.nextSeq + 1 } } }
      let isIts := x.deck = some w.deck ∧
        ((∃ a b, x.body = .calChange a b w.newCount) ∨ ∃ a b, x.body = .zeroSet a b w.newCount)
      (w.stage = .image ∨ ¬ isIts → writesAs .trailRecordWritten s o.address o.bytes written) ∧
      (w.stage = .trail → isIts → ∀ y, s.audit.session = some y → writesAs .trailRecordWritten s o.address o.bytes
        { (written.modDeck w.deck fun z => { z with counter := w.newCount, marker := some (y.writes + 1) }) with
          audit := { written.audit with
            calWrite := some { w with stage := .image }, session := some { y with writes := y.writes + 1 } }
          store := { p.store with tableQueue := p.store.tableQueue ++ [.calWrite w.deck] } })) ∧
    (∀ corr, o.kind = .trailMark → r.ack = some corr →
      let r' : Trail := { r with oldest := r.oldest + 1, ack := none, markWaiting := false }
      writesAs .trailReadMarkWritten s o.address o.bytes
        ((({ p with audit := { s.audit with trail := r' } } : Part).bothBlocks fun b =>
          { b with trailFull := b.trailFull && decide (r.free ≠ 0 ∨ r'.free = 0) }).done corr .trailAck
            (.trailAck (r.oldest + 1) (r.nextSeq - (r.oldest + 1))))) ∧
    (∀ x xs, o.kind = .ticketRecord → t.staging = x :: xs → (∀ l v, s.toPart.visit l = some v → v.storeWait = false) →
      let unread := t.nextSerial + 1 - t.oldestUnread
      writesAs .ticketWritten s o.address o.bytes
        ((({ p with tickets := { t with staging := xs, nextSerial := t.nextSerial + 1 } } : Part).bothBlocks fun b =>
          { b with storeBusy := b.storeBusy && decide (t.staging.length < 8)
                   storeNearFull := b.storeNearFull || decide (unread = 2032) }).notify
            (.ticketStored t.nextSerial x.ticket.kind x.ticket.vehicle unread))) ∧
    (∀ x xs l v, o.kind = .ticketRecord → t.staging = x :: xs → s.toPart.visit l = some v → v.state = .settling →
      v.storeWait = true → (∀ u, s.toPart.visit l.other = some u → u.storeWait = false) →
      let unread := t.nextSerial + 1 - t.oldestUnread
      let weights : List Int := l.decks.map fun d => ((s.toPart.deck d).published.map (·.displayed)).getD 0
      let gross := weights.sum
      let counts := l.decks.map fun d => (s.toPart.deck d).counter
      let time : SiteTime := ⟨s.clock.sec, s.clock.ms⟩
      let stored := NoticeBody.ticketStored t.nextSerial x.ticket.kind x.ticket.vehicle unread
      let ends := fun (q : Part) (ts : List StagedTicket) (told : NoticeBody) =>
        writesAs .ticketWritten s o.address o.bytes q ∧
        q.tickets = { t with staging := xs ++ ts, nextSerial := t.nextSerial + 1 } ∧ q.link = s.toPart.told [told, stored] ∧
        q.decks = s.decks ∧ q.audit = s.audit ∧ q.tables = s.tables
      let exits := fun (q : Part) (k : Ticket) (verdict : Verdict) =>
        ends q [⟨k, some (l, v.count)⟩] (.visitCaptured l v.count v.kind gross verdict.kind) ∧
        q.visit l = some { v with
          state := .exiting, storeWait := false
          capture := some { weights := weights, gross := gross, time := time, counts := counts, verdict := verdict } } ∧
        (q.lane l).clearTimer = s.toPart.clearsFrom l ∧
        ∀ m, (q.lane m).blocks.storeBusy = ((s.toPart.lane m).blocks.storeBusy || decide (7 ≤ xs.length))
      (gross < (s.toPart.settings l).minGross → ∃ q, ends q [] (.visitAborted l v.count v.vehicle v.kind .belowMinimum) ∧
        s.toPart.releases q v ∧
        q.visit l = some { v with state := .clearing, abort := some .belowMinimum, storeWait := false }) ∧
      ((s.toPart.settings l).minGross ≤ gross → xs.length < 8 →
        (v.kind = some .tare → (∀ z ∈ s.tables.classActive.toList, z.good = true) →
          ∀ i e g m, v.pendingIndex = some i → s.toPart.slot i = some e → e.state = .claimed g m → ∃ q verdict,
            exits q { kind := if gross < g.gross then .net else .void, vehicle := e.vehicle, regIndex := e.regIndex
                      side := { g with verdict := { g.verdict with heldReleased := false } }
                      tare := .weighed gross time l counts
                      net := if gross < g.gross then some (g.gross - gross) else none, exitAxles := none
                      heldReleased := g.verdict.heldReleased, exitOverrun := v.exitOverrun } verdict ∧
            q.slot i = none ∧ (∀ j, j ≠ i → q.slot j = s.toPart.slot j) ∧ i ∈ q.pairing.dirty) ∧
        (v.kind = some .grossPreset → (s.toPart.lane l).axleInvalid = true → ∀ a g vehicle, v.preset = some a →
          v.consignment = some g → v.vehicle = some vehicle → ∃ q,
            exits q { kind := if (a.mass : Int) < gross then .presetNet else .void, vehicle := vehicle
                      regIndex := v.regIndex
                      side := ⟨gross, time, l, counts, g, ⟨.notScreened, none, [], false, false⟩⟩
                      tare := .preset a.mass a.date
                      net := if (a.mass : Int) < gross then some (gross - a.mass) else none, exitAxles := none
                      heldReleased := v.heldReleased, exitOverrun := v.exitOverrun }
              ⟨.notScreened, none, none, none, [], false, (s.toPart.lane l).overflow, none⟩ ∧
            q.pairing = s.pairing))) ∧
    (∀ corr, o.kind = .ticketMark → t.ack = some corr →
      let unread := t.nextSerial - (t.oldestUnread + 1)
      writesAs .ticketReadMarkWritten s o.address o.bytes
        ((({ p with tickets := { t with
          oldestUnread := t.oldestUnread + 1, ack := none, markWaiting := false } } : Part).bothBlocks fun b =>
            { b with storeNearFull := b.storeNearFull && decide (unread + 1 ≠ 2032) }).done corr .ticketAck
              (.ticketAck (t.oldestUnread + 1) unread))) ∧
    ∀ i, o.kind = .mirror i → writesAs .mirrorRecordWritten s o.address o.bytes p

/-- R132-R134, R137, R146, R154, R156: the ends of the table image writer's writes. The settings image is swapped here
with a visit on both lanes, or with none. -/
def Obligations.TableImagesWritten : Prop :=
  ∀ (o : Op) (s : State), s.toPart.settingsSettled → s.store.op = some o →
    let p : Part := { s.toPart with store := { s.store with op := none } }
    (∀ i, o.kind = .table (.classRecord i) → i < 47 → writesAs .classRecordWritten s o.address o.bytes
      { p with store := { p.store with tableQueue := p.store.tableQueue ++ [.classRecord (i + 1)] } }) ∧
    (∀ corr crc, o.kind = .table (.classRecord 47) → s.tables.commit = some ⟨.classes, corr, crc⟩ →
      ∃ q, writesAs .classRecordWritten s o.address o.bytes q ∧ q.tables = { s.tables with
          commit := none, classCrc := crc, classActive := s.tables.classStaged.map fun x => .fresh x.val } ∧
        q.audit.trail = s.toPart.handed none (.tableCommit .classes crc s.tables.classCrc) ∧
        q.link = (p.done corr .tableCommit (.committed crc)).link ∧ q.store = p.store ∧ q.decks = s.decks ∧
        ∀ l, sameButTrailFull (s.toPart.lane l) (q.lane l)) ∧
    (∀ corr crc, o.kind = .table .settingsImage → s.tables.commit = some ⟨.settings, corr, crc⟩ →
      s.tables.settingsPrevious = none →
      let staged := s.tables.settingsStaged
      let new : SettingsImage :=
        ⟨⟨.fresh staged.lanes.l0.val, .fresh staged.lanes.l1.val⟩, .fresh staged.site.val, crc⟩
      ∃ q, writesAs .settingsImageWritten s o.address o.bytes q ∧ q.tables.settingsActive = new ∧
        q.tables.commit = none ∧ q.tables.settingsStaged = staged ∧
        q.audit.trail = s.toPart.handed none (.tableCommit .settings crc s.tables.settingsActive.crc) ∧
        q.link.responses = s.link.responses ++ [⟨corr, 18, .done (.committed crc), false, false⟩] ∧
        ((∀ l, (s.toPart.visit l).isSome = true) → q.tables.settingsPrevious = some s.tables.settingsActive ∧
          ∀ l, (q.lane l).adoptedActive = false ∧ q.visit l = s.toPart.visit l) ∧
        ((∀ l, s.toPart.visit l = none) → q.tables.settingsPrevious = none ∧
          ∀ l, (q.lane l).adoptedActive = true ∧ (q.lane l).adoptedValid = true ∧
            (q.lane l).causes.settingsParity = false)) ∧
    (∀ c, o.kind = .table .registerRecord → s.tables.regChange = some c →
      writesAs .registerRecordWritten s o.address o.bytes
        (({ p with tables := { s.tables with
          register := writeRegister s.tables.register c.index c.entry, regChange := none } } : Part).done c.corr
            (if c.put = true then .registerPut else .registerRemove))) ∧
    (∀ d, o.kind = .table (.image d) → writesAs .calibrationImageWritten s o.address o.bytes p) ∧
    ∀ (w : CalWrite) (k : CalEntry) (x : Session), o.kind = .table (.calWrite w.deck) → s.audit.calWrite = some w →
      s.audit.session = some x → x.inFlight = none → (s.toPart.deck w.deck).cal = some ⟨k, true, false⟩ →
      ∃ q, writesAs .calibrationImageWritten s o.address o.bytes q ∧
        q.audit = { s.audit with calWrite := none, session := some { x with firstCounted := x.steps.length + 1 } } ∧
        (∀ d, d ≠ w.deck → q.deck d = s.toPart.deck d) ∧ (q.deck w.deck).service = (s.toPart.deck w.deck).service ∧
        (q.deck w.deck).counter = (s.toPart.deck w.deck).counter ∧ q.lanes = s.lanes ∧
        (∀ e, w.change = .entry e → (q.deck w.deck).cal = some ⟨e, true, false⟩ ∧ (q.deck w.deck).filter = [] ∧
          (q.deck w.deck).stability = [] ∧ (q.deck w.deck).status = .noData ∧
          (q.deck w.deck).zd = (s.toPart.deck w.deck).zd ∧
          q.link = (p.done w.corr .calWrite (.calibrated w.newCount (field o.bytes 506 4))).link) ∧
        ∀ z, w.change = .zero z → (q.deck w.deck).cal = some ⟨{ k with zcal := z }, true, false⟩ ∧
          (q.deck w.deck).zd = some (1000 * z) ∧ q.link = (p.done w.corr .zeroSet).link

/-- R109, R123, R135, R137, R155, R164, R170: a write that fails its retry brings store fault. What is staged stays; the
requests in progress are refused STORE_FAULT and end; the STORE_STATE notice carries the region and the slot of the failed
write and its claimant; the memory changes in the slot alone. A calibration write in progress is one of a deck in AUDIT. The
order of the responses, with the notice after them, is the model's choice (log 48), and so are the place of the failed
mirror slot, at the head of its queue, and that the mark of a failed image write is set again (log 50). -/
def Obligations.FailedWriteBringsStoreFault : Prop :=
  ∀ (o : Op) (c : Claimant) (s : State), s.toPart.settingsSettled → s.store.op = some o → o.kind.claimant = some c →
    (∀ w, s.audit.calWrite = some w → (s.toPart.deck w.deck).service = .audit) →
    ∃ (t : State) (q : Part), exec .recordWriteFailed s = .next t ∧ t.pending = s.pending ∧ q.Closes t.toPart ∧
      q.store.fault = true ∧ q.store.op = none ∧ (∀ l, (q.lane l).blocks.storeFault = true ∧ q.visit l = s.toPart.visit l) ∧
      q.tickets = { s.tickets with ack := none, markWaiting := s.tickets.markWaiting && s.tickets.ack.isNone } ∧
      q.audit.trail.staging = s.audit.trail.staging ∧ q.audit.trail.ack = none ∧ q.audit.calWrite = none ∧
      q.tables.commit = none ∧ q.tables.regChange = none ∧ q.pairing.slots = s.pairing.slots ∧
      (∀ i, o.kind = .mirror i →
        q.pairing.dirty = if i ∈ s.pairing.dirty then s.pairing.dirty else i :: s.pairing.dirty) ∧
      ((∀ i, o.kind ≠ .mirror i) → q.pairing.dirty = s.pairing.dirty) ∧
      (∀ d, .image d ∈ s.store.tableQueue → .image d ∈ q.store.tableQueue) ∧
      (∀ d, o.kind = .table (.image d) → (s.toPart.deck d).cal ≠ none → .image d ∈ q.store.tableQueue) ∧
      (∀ d, (q.deck d).counter = (s.toPart.deck d).counter ∧ (q.deck d).cal = (s.toPart.deck d).cal) ∧
      (∀ w, s.audit.calWrite = some w → w.stage = .image → (q.deck w.deck).causes.imageInvalid = true ∧
        q.audit.session = s.audit.session.map fun x => { x with firstCounted := x.steps.length + 1 }) ∧
      ((∀ w, s.audit.calWrite = some w → w.stage = .trail) → q.audit.session = s.audit.session ∧ q.decks = s.decks) ∧
      (let ended : List (U16 × Req) :=
        s.tickets.ack.toList.map (·, .ticketAck) ++ s.audit.trail.ack.toList.map (·, .trailAck) ++
        s.tables.commit.toList.map (fun x => (x.corr, .tableCommit)) ++
        s.tables.regChange.toList.map (fun x => (x.corr, if x.put then .registerPut else .registerRemove)) ++
        s.audit.calWrite.toList.map fun x => (x.corr, match x.change with
          | .entry _ => .calWrite
          | .zero _ => .zeroSet)
       ∃ region slot,
        (o.kind = .trailRecord → (region, slot) = (.trail, (s.audit.trail.nextSeq - 1) % 1024)) ∧
        (o.kind = .trailMark → (region, slot) = (.control, 1)) ∧
        (o.kind = .ticketRecord → (region, slot) = (.tickets, (s.tickets.nextSerial - 1) % 2048)) ∧
        (o.kind = .ticketMark → (region, slot) = (.control, 0)) ∧
        (∀ i, o.kind = .mirror i → (region, slot) = (.mirror, i)) ∧
        (∀ i, o.kind = .table (.classRecord i) → (region, slot) = (.classes, i)) ∧
        (o.kind = .table .settingsImage → (region, slot) = (.settings, 0)) ∧
        (∀ r, o.kind = .table .registerRecord → s.tables.regChange = some r → (region, slot) = (.register, r.index)) ∧
        (∀ d : DeckId, o.kind = .table (.image d) ∨ o.kind = .table (.calWrite d) → (region, slot) = (.calibration, d.val)) ∧
        q.link = ((ended.foldl (fun (x : Part) r => x.refuse r.1 r.2 .storeFault) s.toPart).notify
          (.storeState region slot c)).link) ∧
      ∀ a, a < o.address ∨ o.address + o.bytes.length ≤ a → memRead t.mem a = memRead s.mem a

/-! ## Tables -/

/-- R127-R131: TABLE_WRITE, TABLE_READ, TABLE_DISCARD and TABLE_COMMIT of the class table and of the settings table, of
entries that are good, marked damaged, or found failing by the request itself, which are marked and reported before the
answer, in index order (log 31). The DUPLICATE row reads the entries at every other index with their parity check and
compares those that are good: that it reads them all, and that it passes a damaged one over, are the model's reading
(log 28), and that an entry with a flag byte other than 0 and 1 is out of range is its choice (log 33). -/
def Obligations.TableRequests : Prop :=
  ∀ (corr : U16) (s : State), s.toPart.settingsSettled → s.toPart.takes corr →
    let w := s.toPart.admitted corr .tableWrite
    let r := s.toPart.admitted corr .tableRead
    let d := s.toPart.admitted corr .tableDiscard
    let m := s.toPart.admitted corr .tableCommit
    let k := s.tables
    let x := k.settingsStaged
    let y := k.settingsActive
    let free := fun (t : TableId) => ∀ o, k.commit = some o → o.table ≠ t
    let reads := fun (c : Instr) (table : TableStore) (what : ParityAt) => endsAs c s
      ((({ r with tables := table } : Part).notify (.parity what)).done corr .tableRead (.table .damaged))
    (∀ o (index : Byte) entry, k.commit = some o → index.toNat < (if o.table = .classes then 48 else 3) →
      endsAs (.tableWrite corr (.known o.table) index entry) s (w.refuse corr .tableWrite .busy) ∧
      endsAs (.tableDiscard corr (.known o.table)) s (d.refuse corr .tableDiscard .busy)) ∧
    (free .classes → ∀ (index : Byte) (entry : List Byte), index.toNat < 48 →
      let c := Instr.tableWrite corr (.known .classes) index entry
      (parseClassEntry entry = none → endsAs c s (w.refuse corr .tableWrite .badValue)) ∧
      (parseClassEntry entry = some none → endsAs c s (({ w with tables := { k with
        classStaged := k.classStaged.setIfInBounds index.toNat (.fresh none) } } : Part).done corr .tableWrite)) ∧
      ∀ a, parseClassEntry entry = some (some a) →
        let held := ∃ j z b, j ≠ index.toNat ∧ k.classStaged[j]? = some z ∧ z.good = true ∧ z.val = some b ∧ b.id = a.id
        let read := k.classStaged.mapIdx fun j z =>
          if j ≠ index.toNat then { z with damaged := z.damaged || z.fails } else z
        let told := w.told (parityNotices (.classEntry .staged)
          (k.classStaged.toList.mapIdx fun j z => decide (j ≠ index.toNat) && z.fails))
        (held → endsAs c s
          (({ w with tables := { k with classStaged := read }, link := told } : Part).refuse corr .tableWrite .duplicate)) ∧
        (¬ held → endsAs c s (({ w with
          tables := { k with classStaged := read.setIfInBounds index.toNat (.fresh (some a)) }
          link := told } : Part).done corr .tableWrite))) ∧
    (free .settings → ∀ (index : Byte) (entry : List Byte),
      let c := Instr.tableWrite corr (.known .settings) index entry
      (∀ l, index.toNat = LaneId.toNat l →
        (¬ inRanges laneFields entry → endsAs c s (w.refuse corr .tableWrite .badValue)) ∧
        (inRanges laneFields entry → ∃ e, parseLaneEntry entry = some e ∧ endsAs c s (({ w with tables := { k with
          settingsStaged := { x with lanes := x.lanes.set l (.fresh e) } } } : Part).done corr .tableWrite))) ∧
      (index.toNat = 2 →
        (¬ inRanges siteFields entry → endsAs c s (w.refuse corr .tableWrite .badValue)) ∧
        (inRanges siteFields entry → ∃ e, parseSiteEntry entry = some e ∧ endsAs c s (({ w with tables := { k with
          settingsStaged := { x with site := .fresh e } } } : Part).done corr .tableWrite)))) ∧
    (∀ (index : Byte) z, k.classStaged[index.toNat]? = some z →
      let c := Instr.tableRead corr (.known .classes) index
      (z.settled → endsAs c s (r.done corr .tableRead
        (.table (if z.damaged = true then .damaged else .classEntry z.val)))) ∧
      (z.fails = true → reads c { k with
        classStaged := k.classStaged.setIfInBounds index.toNat { z with damaged := true } }
          (.classEntry .staged index.toNat))) ∧
    (∀ (index : Byte) l, index.toNat = LaneId.toNat l →
      let c := Instr.tableRead corr (.known .settings) index
      let z := x.lanes.get l
      (z.settled → endsAs c s (r.done corr .tableRead
        (.table (if z.damaged = true then .damaged else .laneEntry z.val)))) ∧
      (z.fails = true → reads c { k with
        settingsStaged := { x with lanes := x.lanes.set l { z with damaged := true } } }
          (.settingsEntry .staged index.toNat))) ∧
    (∀ (index : Byte), index.toNat = 2 →
      let c := Instr.tableRead corr (.known .settings) index
      (x.site.settled → endsAs c s (r.done corr .tableRead
        (.table (if x.site.damaged = true then .damaged else .siteEntry x.site.val)))) ∧
      (x.site.fails = true → reads c { k with settingsStaged := { x with site := { x.site with damaged := true } } }
        (.settingsEntry .staged 2))) ∧
    (free .classes → endsAs (.tableDiscard corr (.known .classes)) s
      (({ d with
        tables := { k with
          classStaged := k.classActive.map fun z => .fresh (if z.good = true then z.val else none)
          classActive := k.classActive.map fun z => { z with damaged := z.damaged || z.fails } }
        link := d.told (parityNotices (.classEntry .active) (k.classActive.toList.map Slot.fails)) } : Part).done corr
          .tableDiscard (.discarded (k.classActive.toList.countP fun z => !z.good)))) ∧
    (free .settings →
      let copy := fun (z : Slot LaneEntry) => Slot.fresh (if z.good = true then z.val else .default_)
      let read := fun (z : Slot LaneEntry) => { z with damaged := z.damaged || z.fails }
      endsAs (.tableDiscard corr (.known .settings)) s
        (({ d with
          tables := { k with
            settingsStaged := ⟨⟨copy y.lanes.l0, copy y.lanes.l1⟩,
              .fresh (if y.site.good = true then y.site.val else .default_), y.crc⟩
            settingsActive := ⟨⟨read y.lanes.l0, read y.lanes.l1⟩,
              { y.site with damaged := y.site.damaged || y.site.fails }, y.crc⟩ }
          link := d.told (parityNotices (.settingsEntry .active)
            [y.lanes.l0.fails, y.lanes.l1.fails, y.site.fails]) } : Part).done corr .tableDiscard
              (.discarded ([y.lanes.l0.good, y.lanes.l1.good, y.site.good].count false)))) ∧
    ∀ (table : TableId) (crc : U32),
      let c := Instr.tableCommit corr (.known table) crc
      (s.store.fault = true → endsAs c s (m.refuse corr .tableCommit .storeFault)) ∧
      (s.store.fault = false → s.store.hold = .held → endsAs c s (m.refuse corr .tableCommit .storeHeld)) ∧
      (s.store.fault = false → s.store.hold ≠ .held →
        (k.commit ≠ none → endsAs c s (m.refuse corr .tableCommit .busy)) ∧
        (k.commit = none →
          (table = .settings → k.settingsPrevious ≠ none → endsAs c s (m.refuse corr .tableCommit .commitPending)) ∧
          (table = .classes →
            ((∃ z ∈ k.classStaged.toList, z.good = false) → endsAs c s
              (({ m with
                tables := { k with classStaged := k.classStaged.map fun z => { z with damaged := z.damaged || z.fails } }
                link := m.told (parityNotices (.classEntry .staged) (k.classStaged.toList.map Slot.fails)) } : Part).refuse
                  corr .tableCommit .crcMismatch)) ∧
            ((∀ z ∈ k.classStaged.toList, z.good = true) →
              (classImageCrc (k.classStaged.toList.map (·.val)) ≠ crc.toNat →
                endsAs c s (m.refuse corr .tableCommit .crcMismatch)) ∧
              (classImageCrc (k.classStaged.toList.map (·.val)) = crc.toNat →
                endsAs c s { m with tables := { k with commit := some ⟨.classes, corr, crc.toNat⟩ }
                                    store := { s.store with tableQueue := s.store.tableQueue ++ [.classRecord 0] } }))) ∧
          (table = .settings → k.settingsPrevious = none →
            let good := x.lanes.l0.good = true ∧ x.lanes.l1.good = true ∧ x.site.good = true
            let read := fun (z : Slot LaneEntry) => { z with damaged := z.damaged || z.fails }
            (¬ good → endsAs c s
              (({ m with
                tables := { k with settingsStaged := ⟨⟨read x.lanes.l0, read x.lanes.l1⟩,
                  { x.site with damaged := x.site.damaged || x.site.fails }, x.crc⟩ }
                link := m.told (parityNotices (.settingsEntry .staged)
                  [x.lanes.l0.fails, x.lanes.l1.fails, x.site.fails]) } : Part).refuse corr .tableCommit .crcMismatch)) ∧
            (good →
              (crc32 x.bytes ≠ crc.toNat → endsAs c s (m.refuse corr .tableCommit .crcMismatch)) ∧
              (crc32 x.bytes = crc.toNat →
                endsAs c s { m with tables := { k with commit := some ⟨.settings, corr, crc.toNat⟩ }
                                    store := { s.store with tableQueue := s.store.tableQueue ++ [.settingsImage] } })))))

/-- R129, R137: REGISTER_PUT, REGISTER_REMOVE and REGISTER_GET; a GET or a REMOVE reads a slot that is good, marked damaged,
or found failing by the request itself, which is marked and reported before the answer, and the DUPLICATE row of a PUT reads
the slots at every other index with their parity check. That it reads them all, in index order, is the model's reading
(log 28), and that an entry with a flag byte other than 0 and 1 is out of range is its choice (log 33). -/
def Obligations.RegisterRequests : Prop :=
  ∀ (corr : U16) (index : U16) (entry : List Byte) (s : State), s.toPart.settingsSettled → s.toPart.takes corr →
    index.toNat ≤ 1023 →
    let i := index.toNat
    let slot := s.tables.regSlot i
    let u := s.toPart.admitted corr .registerPut
    let v := s.toPart.admitted corr .registerRemove
    let g := s.toPart.admitted corr .registerGet
    let put := Instr.registerPut corr index entry
    let remove := Instr.registerRemove corr index
    let get := Instr.registerGet corr index
    let changes := fun (p : Part) (x : RegChange) => ({ p with
      tables := { p.tables with regChange := some x }
      store := { s.store with tableQueue := s.store.tableQueue ++ [.registerRecord] } } : Part)
    let barred := fun (c : Instr) (p : Part) (r : Req) =>
      (s.store.fault = true → endsAs c s (p.refuse corr r .storeFault)) ∧
      (s.store.fault = false → s.store.hold = .held → endsAs c s (p.refuse corr r .storeHeld)) ∧
      (s.store.fault = false → s.store.hold ≠ .held → s.tables.regChange ≠ none → endsAs c s (p.refuse corr r .busy))
    ((∀ e, parseRegEntry entry ≠ some (some e)) → endsAs put s (u.refuse corr .registerPut .badValue)) ∧
    (∀ e, parseRegEntry entry = some (some e) → barred put u .registerPut ∧
      (s.store.fault = false → s.store.hold ≠ .held → s.tables.regChange = none →
        let held := ∃ x ∈ s.tables.register, x.1 ≠ i ∧ x.2.good = true ∧ ∃ f, x.2.val = some f ∧ f.tag = e.tag
        let read : Part := { u with
          tables := { s.tables with register := s.tables.register.map fun x =>
            if x.1 = i then x else (x.1, { x.2 with damaged := x.2.damaged || x.2.fails }) }
          link := u.told ((s.tables.register.filter fun x => decide (x.1 ≠ i) && x.2.fails).map fun x =>
            .parity (.registerSlot x.1)) }
        (held → endsAs put s (read.refuse corr .registerPut .duplicate)) ∧
        (¬ held → endsAs put s (changes read ⟨corr, true, i, some e⟩)))) ∧
    barred remove v .registerRemove ∧
    (s.store.fault = false → s.store.hold ≠ .held → s.tables.regChange = none →
      ((∀ x ∈ s.tables.register, x.1 = i → x.2.settled) →
        (slot.val = none → slot.damaged = false → endsAs remove s (v.refuse corr .registerRemove .notFound)) ∧
        ((slot.val ≠ none ∨ slot.damaged = true) → endsAs remove s (changes v ⟨corr, false, i, none⟩))) ∧
      (slot.fails = true → ∃ q, endsAs remove s q ∧ q.tables.regSlot i = { slot with damaged := true } ∧
        (∀ j, j ≠ i → q.tables.regSlot j = s.tables.regSlot j) ∧
        q = changes { v with
          tables := { s.tables with register := q.tables.register }
          link := v.told [.parity (.registerSlot i)] } ⟨corr, false, i, none⟩)) ∧
    ((∀ x ∈ s.tables.register, x.1 = i → x.2.settled) →
      (slot.damaged = true → endsAs get s (g.done corr .registerGet (.register .damaged))) ∧
      (slot.damaged = false → slot.val = none → endsAs get s (g.done corr .registerGet (.register .empty))) ∧
      ∀ e, slot.damaged = false → slot.val = some e →
        endsAs get s (g.done corr .registerGet (.register (.entry e)))) ∧
    (slot.fails = true → ∃ q, endsAs get s q ∧ q.tables.regSlot i = { slot with damaged := true } ∧
      (∀ j, j ≠ i → q.tables.regSlot j = s.tables.regSlot j) ∧
      q = { g with tables := { s.tables with register := q.tables.register }, link := q.link } ∧
      q.link = ((g.notify (.parity (.registerSlot i))).done corr .registerGet (.register .damaged)).link)

/-- R139: a request that names a target which does not exist is REFUSED BAD_TARGET, before anything else of it is
judged. -/
def Obligations.BadTargetsRefused : Prop :=
  ∀ (corr : U16) (b index : Byte) (n : U16) (s : State), s.toPart.settingsSettled → s.toPart.takes corr →
    let bad := fun (c : Instr) (r : Req) (target : Byte) =>
      endsAs c s ((beforeRequest c (s.toPart.admitted corr r target)).refuse corr r .badTarget)
    (1 < b.toNat → bad (.laneOpen corr b) .laneOpen b ∧ bad (.laneClose corr b) .laneClose b ∧
      bad (.release corr b) .release b ∧ bad (.visitAbort corr b) .visitAbort b ∧
      ∀ e v, bad (.admitVehicle corr b e v) .admitVehicle b) ∧
    (∀ code v, bad (.admitVehicle corr b (.undefined code) v) .admitVehicle b) ∧
    (5 < b.toNat → (∀ r, bad (.auditOpen corr b r) .auditOpen 0) ∧ (∀ e z, bad (.calWrite corr b e z) .calWrite 0) ∧
      bad (.zeroSet corr b) .zeroSet b ∧ ∀ k, bad (.monitorSet corr (some (b, k))) .monitorSet 0) ∧
    (63 < b.toNat → bad (.pendingRead corr b) .pendingRead 0) ∧
    (1023 < n.toNat → (∀ e, bad (.registerPut corr n e) .registerPut 0) ∧ bad (.registerRemove corr n) .registerRemove 0 ∧
      bad (.registerGet corr n) .registerGet 0) ∧
    (∀ code e k, bad (.tableWrite corr (.undefined code) index e) .tableWrite 0 ∧
      bad (.tableRead corr (.undefined code) index) .tableRead 0 ∧
      bad (.tableDiscard corr (.undefined code)) .tableDiscard 0 ∧
      bad (.tableCommit corr (.undefined code) k) .tableCommit 0) ∧
    (∀ t e, (if t = TableId.classes then 48 ≤ index.toNat else 3 ≤ index.toNat) →
      bad (.tableWrite corr (.known t) index e) .tableWrite 0 ∧ bad (.tableRead corr (.known t) index) .tableRead 0) ∧
    ∀ address : U32, 0x80000 ≤ address.toNat → bad (.holdRead corr address n) .holdRead 0

/-! ## Encodings -/

/-- 11.2, R127, R167, R193: what is escaped is read back; a read mark makes a valid slot that carries its number; a class
entry in its ranges is read back from its 32 bytes. -/
def Obligations.EncodingsReadBack : Prop :=
  (∀ bs : List Byte, unescapeBytes (escapeBytes bs) = some bs ∧ delimiter ∉ escapeBytes bs) ∧
  (∀ (k : SlotKind) (n : Nat), k = .ticketMark ∨ k = .trailMark → n < 4294967296 →
    (markBytes k n).length = k.size ∧ slotValid k (markBytes k n) = true ∧ readMark (markBytes k n) = n) ∧
  (∀ c : ClassEntry, c.ok = true → (classEntryBytes (some c)).length = 32 ∧
    parseClassEntry (classEntryBytes (some c)) = some (some c)) ∧
  (classEntryBytes none).length = 32 ∧ parseClassEntry (classEntryBytes none) = some none
end

