-- ==== Sys2Proof/Laws/State.lean ====
section
/-! SUPPORT. One lemma per field per update of the part, so that no later proof unfolds a record update. -/

namespace Sys2Proof.Machine

/-! ## modDeck -/

@[simp] theorem modDeck_phase (p : Part) (d : DeckId) (f : Deck → Deck) : (p.modDeck d f).phase = p.phase := rfl
@[simp] theorem modDeck_cause (p : Part) (d : DeckId) (f : Deck → Deck) : (p.modDeck d f).cause = p.cause := rfl
@[simp] theorem modDeck_clock (p : Part) (d : DeckId) (f : Deck → Deck) : (p.modDeck d f).clock = p.clock := rfl
@[simp] theorem modDeck_calEn (p : Part) (d : DeckId) (f : Deck → Deck) : (p.modDeck d f).calEn = p.calEn := rfl
@[simp] theorem modDeck_monitor (p : Part) (d : DeckId) (f : Deck → Deck) : (p.modDeck d f).monitor = p.monitor := rfl
@[simp] theorem modDeck_lanes (p : Part) (d : DeckId) (f : Deck → Deck) : (p.modDeck d f).lanes = p.lanes := rfl
@[simp] theorem modDeck_pairing (p : Part) (d : DeckId) (f : Deck → Deck) : (p.modDeck d f).pairing = p.pairing := rfl
@[simp] theorem modDeck_tickets (p : Part) (d : DeckId) (f : Deck → Deck) : (p.modDeck d f).tickets = p.tickets := rfl
@[simp] theorem modDeck_tables (p : Part) (d : DeckId) (f : Deck → Deck) : (p.modDeck d f).tables = p.tables := rfl
@[simp] theorem modDeck_audit (p : Part) (d : DeckId) (f : Deck → Deck) : (p.modDeck d f).audit = p.audit := rfl
@[simp] theorem modDeck_store (p : Part) (d : DeckId) (f : Deck → Deck) : (p.modDeck d f).store = p.store := rfl
@[simp] theorem modDeck_link (p : Part) (d : DeckId) (f : Deck → Deck) : (p.modDeck d f).link = p.link := rfl
@[simp] theorem modDeck_fresh (p : Part) (d : DeckId) (f : Deck → Deck) : (p.modDeck d f).fresh = p.fresh := rfl

/-! ## modLane -/

@[simp] theorem modLane_phase (p : Part) (l : LaneId) (f : Lane → Lane) : (p.modLane l f).phase = p.phase := rfl
@[simp] theorem modLane_cause (p : Part) (l : LaneId) (f : Lane → Lane) : (p.modLane l f).cause = p.cause := rfl
@[simp] theorem modLane_clock (p : Part) (l : LaneId) (f : Lane → Lane) : (p.modLane l f).clock = p.clock := rfl
@[simp] theorem modLane_calEn (p : Part) (l : LaneId) (f : Lane → Lane) : (p.modLane l f).calEn = p.calEn := rfl
@[simp] theorem modLane_monitor (p : Part) (l : LaneId) (f : Lane → Lane) : (p.modLane l f).monitor = p.monitor := rfl
@[simp] theorem modLane_decks (p : Part) (l : LaneId) (f : Lane → Lane) : (p.modLane l f).decks = p.decks := rfl
@[simp] theorem modLane_pairing (p : Part) (l : LaneId) (f : Lane → Lane) : (p.modLane l f).pairing = p.pairing := rfl
@[simp] theorem modLane_tickets (p : Part) (l : LaneId) (f : Lane → Lane) : (p.modLane l f).tickets = p.tickets := rfl
@[simp] theorem modLane_tables (p : Part) (l : LaneId) (f : Lane → Lane) : (p.modLane l f).tables = p.tables := rfl
@[simp] theorem modLane_audit (p : Part) (l : LaneId) (f : Lane → Lane) : (p.modLane l f).audit = p.audit := rfl
@[simp] theorem modLane_store (p : Part) (l : LaneId) (f : Lane → Lane) : (p.modLane l f).store = p.store := rfl
@[simp] theorem modLane_link (p : Part) (l : LaneId) (f : Lane → Lane) : (p.modLane l f).link = p.link := rfl
@[simp] theorem modLane_fresh (p : Part) (l : LaneId) (f : Lane → Lane) : (p.modLane l f).fresh = p.fresh := rfl

/-! ## modEnd -/

@[simp] theorem modEnd_phase (p : Part) (l : LaneId) (e : LaneEnd) (f : EndState → EndState) : (p.modEnd l e f).phase = p.phase := rfl
@[simp] theorem modEnd_cause (p : Part) (l : LaneId) (e : LaneEnd) (f : EndState → EndState) : (p.modEnd l e f).cause = p.cause := rfl
@[simp] theorem modEnd_clock (p : Part) (l : LaneId) (e : LaneEnd) (f : EndState → EndState) : (p.modEnd l e f).clock = p.clock := rfl
@[simp] theorem modEnd_calEn (p : Part) (l : LaneId) (e : LaneEnd) (f : EndState → EndState) : (p.modEnd l e f).calEn = p.calEn := rfl
@[simp] theorem modEnd_monitor (p : Part) (l : LaneId) (e : LaneEnd) (f : EndState → EndState) : (p.modEnd l e f).monitor = p.monitor := rfl
@[simp] theorem modEnd_decks (p : Part) (l : LaneId) (e : LaneEnd) (f : EndState → EndState) : (p.modEnd l e f).decks = p.decks := rfl
@[simp] theorem modEnd_pairing (p : Part) (l : LaneId) (e : LaneEnd) (f : EndState → EndState) : (p.modEnd l e f).pairing = p.pairing := rfl
@[simp] theorem modEnd_tickets (p : Part) (l : LaneId) (e : LaneEnd) (f : EndState → EndState) : (p.modEnd l e f).tickets = p.tickets := rfl
@[simp] theorem modEnd_tables (p : Part) (l : LaneId) (e : LaneEnd) (f : EndState → EndState) : (p.modEnd l e f).tables = p.tables := rfl
@[simp] theorem modEnd_audit (p : Part) (l : LaneId) (e : LaneEnd) (f : EndState → EndState) : (p.modEnd l e f).audit = p.audit := rfl
@[simp] theorem modEnd_store (p : Part) (l : LaneId) (e : LaneEnd) (f : EndState → EndState) : (p.modEnd l e f).store = p.store := rfl
@[simp] theorem modEnd_link (p : Part) (l : LaneId) (e : LaneEnd) (f : EndState → EndState) : (p.modEnd l e f).link = p.link := rfl
@[simp] theorem modEnd_fresh (p : Part) (l : LaneId) (e : LaneEnd) (f : EndState → EndState) : (p.modEnd l e f).fresh = p.fresh := rfl

/-! ## setVisit -/

@[simp] theorem setVisit_phase (p : Part) (l : LaneId) (v : Visit) : (p.setVisit l v).phase = p.phase := rfl
@[simp] theorem setVisit_cause (p : Part) (l : LaneId) (v : Visit) : (p.setVisit l v).cause = p.cause := rfl
@[simp] theorem setVisit_clock (p : Part) (l : LaneId) (v : Visit) : (p.setVisit l v).clock = p.clock := rfl
@[simp] theorem setVisit_calEn (p : Part) (l : LaneId) (v : Visit) : (p.setVisit l v).calEn = p.calEn := rfl
@[simp] theorem setVisit_monitor (p : Part) (l : LaneId) (v : Visit) : (p.setVisit l v).monitor = p.monitor := rfl
@[simp] theorem setVisit_decks (p : Part) (l : LaneId) (v : Visit) : (p.setVisit l v).decks = p.decks := rfl
@[simp] theorem setVisit_pairing (p : Part) (l : LaneId) (v : Visit) : (p.setVisit l v).pairing = p.pairing := rfl
@[simp] theorem setVisit_tickets (p : Part) (l : LaneId) (v : Visit) : (p.setVisit l v).tickets = p.tickets := rfl
@[simp] theorem setVisit_tables (p : Part) (l : LaneId) (v : Visit) : (p.setVisit l v).tables = p.tables := rfl
@[simp] theorem setVisit_audit (p : Part) (l : LaneId) (v : Visit) : (p.setVisit l v).audit = p.audit := rfl
@[simp] theorem setVisit_store (p : Part) (l : LaneId) (v : Visit) : (p.setVisit l v).store = p.store := rfl
@[simp] theorem setVisit_link (p : Part) (l : LaneId) (v : Visit) : (p.setVisit l v).link = p.link := rfl
@[simp] theorem setVisit_fresh (p : Part) (l : LaneId) (v : Visit) : (p.setVisit l v).fresh = p.fresh := rfl

/-! ## modBlocks -/

@[simp] theorem modBlocks_phase (p : Part) (l : LaneId) (f : Blocks → Blocks) : (p.modBlocks l f).phase = p.phase := rfl
@[simp] theorem modBlocks_cause (p : Part) (l : LaneId) (f : Blocks → Blocks) : (p.modBlocks l f).cause = p.cause := rfl
@[simp] theorem modBlocks_clock (p : Part) (l : LaneId) (f : Blocks → Blocks) : (p.modBlocks l f).clock = p.clock := rfl
@[simp] theorem modBlocks_calEn (p : Part) (l : LaneId) (f : Blocks → Blocks) : (p.modBlocks l f).calEn = p.calEn := rfl
@[simp] theorem modBlocks_monitor (p : Part) (l : LaneId) (f : Blocks → Blocks) : (p.modBlocks l f).monitor = p.monitor := rfl
@[simp] theorem modBlocks_decks (p : Part) (l : LaneId) (f : Blocks → Blocks) : (p.modBlocks l f).decks = p.decks := rfl
@[simp] theorem modBlocks_pairing (p : Part) (l : LaneId) (f : Blocks → Blocks) : (p.modBlocks l f).pairing = p.pairing := rfl
@[simp] theorem modBlocks_tickets (p : Part) (l : LaneId) (f : Blocks → Blocks) : (p.modBlocks l f).tickets = p.tickets := rfl
@[simp] theorem modBlocks_tables (p : Part) (l : LaneId) (f : Blocks → Blocks) : (p.modBlocks l f).tables = p.tables := rfl
@[simp] theorem modBlocks_audit (p : Part) (l : LaneId) (f : Blocks → Blocks) : (p.modBlocks l f).audit = p.audit := rfl
@[simp] theorem modBlocks_store (p : Part) (l : LaneId) (f : Blocks → Blocks) : (p.modBlocks l f).store = p.store := rfl
@[simp] theorem modBlocks_link (p : Part) (l : LaneId) (f : Blocks → Blocks) : (p.modBlocks l f).link = p.link := rfl
@[simp] theorem modBlocks_fresh (p : Part) (l : LaneId) (f : Blocks → Blocks) : (p.modBlocks l f).fresh = p.fresh := rfl

/-! ## bothBlocks -/

@[simp] theorem bothBlocks_phase (p : Part) (f : Blocks → Blocks) : (p.bothBlocks f).phase = p.phase := rfl
@[simp] theorem bothBlocks_cause (p : Part) (f : Blocks → Blocks) : (p.bothBlocks f).cause = p.cause := rfl
@[simp] theorem bothBlocks_clock (p : Part) (f : Blocks → Blocks) : (p.bothBlocks f).clock = p.clock := rfl
@[simp] theorem bothBlocks_calEn (p : Part) (f : Blocks → Blocks) : (p.bothBlocks f).calEn = p.calEn := rfl
@[simp] theorem bothBlocks_monitor (p : Part) (f : Blocks → Blocks) : (p.bothBlocks f).monitor = p.monitor := rfl
@[simp] theorem bothBlocks_decks (p : Part) (f : Blocks → Blocks) : (p.bothBlocks f).decks = p.decks := rfl
@[simp] theorem bothBlocks_pairing (p : Part) (f : Blocks → Blocks) : (p.bothBlocks f).pairing = p.pairing := rfl
@[simp] theorem bothBlocks_tickets (p : Part) (f : Blocks → Blocks) : (p.bothBlocks f).tickets = p.tickets := rfl
@[simp] theorem bothBlocks_tables (p : Part) (f : Blocks → Blocks) : (p.bothBlocks f).tables = p.tables := rfl
@[simp] theorem bothBlocks_audit (p : Part) (f : Blocks → Blocks) : (p.bothBlocks f).audit = p.audit := rfl
@[simp] theorem bothBlocks_store (p : Part) (f : Blocks → Blocks) : (p.bothBlocks f).store = p.store := rfl
@[simp] theorem bothBlocks_link (p : Part) (f : Blocks → Blocks) : (p.bothBlocks f).link = p.link := rfl
@[simp] theorem bothBlocks_fresh (p : Part) (f : Blocks → Blocks) : (p.bothBlocks f).fresh = p.fresh := rfl

/-! ## modPairing -/

@[simp] theorem modPairing_phase (p : Part) (f : Pairing → Pairing) : (p.modPairing f).phase = p.phase := rfl
@[simp] theorem modPairing_cause (p : Part) (f : Pairing → Pairing) : (p.modPairing f).cause = p.cause := rfl
@[simp] theorem modPairing_clock (p : Part) (f : Pairing → Pairing) : (p.modPairing f).clock = p.clock := rfl
@[simp] theorem modPairing_calEn (p : Part) (f : Pairing → Pairing) : (p.modPairing f).calEn = p.calEn := rfl
@[simp] theorem modPairing_monitor (p : Part) (f : Pairing → Pairing) : (p.modPairing f).monitor = p.monitor := rfl
@[simp] theorem modPairing_decks (p : Part) (f : Pairing → Pairing) : (p.modPairing f).decks = p.decks := rfl
@[simp] theorem modPairing_lanes (p : Part) (f : Pairing → Pairing) : (p.modPairing f).lanes = p.lanes := rfl
@[simp] theorem modPairing_tickets (p : Part) (f : Pairing → Pairing) : (p.modPairing f).tickets = p.tickets := rfl
@[simp] theorem modPairing_tables (p : Part) (f : Pairing → Pairing) : (p.modPairing f).tables = p.tables := rfl
@[simp] theorem modPairing_audit (p : Part) (f : Pairing → Pairing) : (p.modPairing f).audit = p.audit := rfl
@[simp] theorem modPairing_store (p : Part) (f : Pairing → Pairing) : (p.modPairing f).store = p.store := rfl
@[simp] theorem modPairing_link (p : Part) (f : Pairing → Pairing) : (p.modPairing f).link = p.link := rfl
@[simp] theorem modPairing_fresh (p : Part) (f : Pairing → Pairing) : (p.modPairing f).fresh = p.fresh := rfl

/-! ## modTickets -/

@[simp] theorem modTickets_phase (p : Part) (f : TicketUnit → TicketUnit) : (p.modTickets f).phase = p.phase := rfl
@[simp] theorem modTickets_cause (p : Part) (f : TicketUnit → TicketUnit) : (p.modTickets f).cause = p.cause := rfl
@[simp] theorem modTickets_clock (p : Part) (f : TicketUnit → TicketUnit) : (p.modTickets f).clock = p.clock := rfl
@[simp] theorem modTickets_calEn (p : Part) (f : TicketUnit → TicketUnit) : (p.modTickets f).calEn = p.calEn := rfl
@[simp] theorem modTickets_monitor (p : Part) (f : TicketUnit → TicketUnit) : (p.modTickets f).monitor = p.monitor := rfl
@[simp] theorem modTickets_decks (p : Part) (f : TicketUnit → TicketUnit) : (p.modTickets f).decks = p.decks := rfl
@[simp] theorem modTickets_lanes (p : Part) (f : TicketUnit → TicketUnit) : (p.modTickets f).lanes = p.lanes := rfl
@[simp] theorem modTickets_pairing (p : Part) (f : TicketUnit → TicketUnit) : (p.modTickets f).pairing = p.pairing := rfl
@[simp] theorem modTickets_tables (p : Part) (f : TicketUnit → TicketUnit) : (p.modTickets f).tables = p.tables := rfl
@[simp] theorem modTickets_audit (p : Part) (f : TicketUnit → TicketUnit) : (p.modTickets f).audit = p.audit := rfl
@[simp] theorem modTickets_store (p : Part) (f : TicketUnit → TicketUnit) : (p.modTickets f).store = p.store := rfl
@[simp] theorem modTickets_link (p : Part) (f : TicketUnit → TicketUnit) : (p.modTickets f).link = p.link := rfl
@[simp] theorem modTickets_fresh (p : Part) (f : TicketUnit → TicketUnit) : (p.modTickets f).fresh = p.fresh := rfl

/-! ## modTables -/

@[simp] theorem modTables_phase (p : Part) (f : TableStore → TableStore) : (p.modTables f).phase = p.phase := rfl
@[simp] theorem modTables_cause (p : Part) (f : TableStore → TableStore) : (p.modTables f).cause = p.cause := rfl
@[simp] theorem modTables_clock (p : Part) (f : TableStore → TableStore) : (p.modTables f).clock = p.clock := rfl
@[simp] theorem modTables_calEn (p : Part) (f : TableStore → TableStore) : (p.modTables f).calEn = p.calEn := rfl
@[simp] theorem modTables_monitor (p : Part) (f : TableStore → TableStore) : (p.modTables f).monitor = p.monitor := rfl
@[simp] theorem modTables_decks (p : Part) (f : TableStore → TableStore) : (p.modTables f).decks = p.decks := rfl
@[simp] theorem modTables_lanes (p : Part) (f : TableStore → TableStore) : (p.modTables f).lanes = p.lanes := rfl
@[simp] theorem modTables_pairing (p : Part) (f : TableStore → TableStore) : (p.modTables f).pairing = p.pairing := rfl
@[simp] theorem modTables_tickets (p : Part) (f : TableStore → TableStore) : (p.modTables f).tickets = p.tickets := rfl
@[simp] theorem modTables_audit (p : Part) (f : TableStore → TableStore) : (p.modTables f).audit = p.audit := rfl
@[simp] theorem modTables_store (p : Part) (f : TableStore → TableStore) : (p.modTables f).store = p.store := rfl
@[simp] theorem modTables_link (p : Part) (f : TableStore → TableStore) : (p.modTables f).link = p.link := rfl
@[simp] theorem modTables_fresh (p : Part) (f : TableStore → TableStore) : (p.modTables f).fresh = p.fresh := rfl

/-! ## modAudit -/

@[simp] theorem modAudit_phase (p : Part) (f : AuditUnit → AuditUnit) : (p.modAudit f).phase = p.phase := rfl
@[simp] theorem modAudit_cause (p : Part) (f : AuditUnit → AuditUnit) : (p.modAudit f).cause = p.cause := rfl
@[simp] theorem modAudit_clock (p : Part) (f : AuditUnit → AuditUnit) : (p.modAudit f).clock = p.clock := rfl
@[simp] theorem modAudit_calEn (p : Part) (f : AuditUnit → AuditUnit) : (p.modAudit f).calEn = p.calEn := rfl
@[simp] theorem modAudit_monitor (p : Part) (f : AuditUnit → AuditUnit) : (p.modAudit f).monitor = p.monitor := rfl
@[simp] theorem modAudit_decks (p : Part) (f : AuditUnit → AuditUnit) : (p.modAudit f).decks = p.decks := rfl
@[simp] theorem modAudit_lanes (p : Part) (f : AuditUnit → AuditUnit) : (p.modAudit f).lanes = p.lanes := rfl
@[simp] theorem modAudit_pairing (p : Part) (f : AuditUnit → AuditUnit) : (p.modAudit f).pairing = p.pairing := rfl
@[simp] theorem modAudit_tickets (p : Part) (f : AuditUnit → AuditUnit) : (p.modAudit f).tickets = p.tickets := rfl
@[simp] theorem modAudit_tables (p : Part) (f : AuditUnit → AuditUnit) : (p.modAudit f).tables = p.tables := rfl
@[simp] theorem modAudit_store (p : Part) (f : AuditUnit → AuditUnit) : (p.modAudit f).store = p.store := rfl
@[simp] theorem modAudit_link (p : Part) (f : AuditUnit → AuditUnit) : (p.modAudit f).link = p.link := rfl
@[simp] theorem modAudit_fresh (p : Part) (f : AuditUnit → AuditUnit) : (p.modAudit f).fresh = p.fresh := rfl

/-! ## modTrail -/

@[simp] theorem modTrail_phase (p : Part) (f : Trail → Trail) : (p.modTrail f).phase = p.phase := rfl
@[simp] theorem modTrail_cause (p : Part) (f : Trail → Trail) : (p.modTrail f).cause = p.cause := rfl
@[simp] theorem modTrail_clock (p : Part) (f : Trail → Trail) : (p.modTrail f).clock = p.clock := rfl
@[simp] theorem modTrail_calEn (p : Part) (f : Trail → Trail) : (p.modTrail f).calEn = p.calEn := rfl
@[simp] theorem modTrail_monitor (p : Part) (f : Trail → Trail) : (p.modTrail f).monitor = p.monitor := rfl
@[simp] theorem modTrail_decks (p : Part) (f : Trail → Trail) : (p.modTrail f).decks = p.decks := rfl
@[simp] theorem modTrail_lanes (p : Part) (f : Trail → Trail) : (p.modTrail f).lanes = p.lanes := rfl
@[simp] theorem modTrail_pairing (p : Part) (f : Trail → Trail) : (p.modTrail f).pairing = p.pairing := rfl
@[simp] theorem modTrail_tickets (p : Part) (f : Trail → Trail) : (p.modTrail f).tickets = p.tickets := rfl
@[simp] theorem modTrail_tables (p : Part) (f : Trail → Trail) : (p.modTrail f).tables = p.tables := rfl
@[simp] theorem modTrail_store (p : Part) (f : Trail → Trail) : (p.modTrail f).store = p.store := rfl
@[simp] theorem modTrail_link (p : Part) (f : Trail → Trail) : (p.modTrail f).link = p.link := rfl
@[simp] theorem modTrail_fresh (p : Part) (f : Trail → Trail) : (p.modTrail f).fresh = p.fresh := rfl

/-! ## modStore -/

@[simp] theorem modStore_phase (p : Part) (f : Store → Store) : (p.modStore f).phase = p.phase := rfl
@[simp] theorem modStore_cause (p : Part) (f : Store → Store) : (p.modStore f).cause = p.cause := rfl
@[simp] theorem modStore_clock (p : Part) (f : Store → Store) : (p.modStore f).clock = p.clock := rfl
@[simp] theorem modStore_calEn (p : Part) (f : Store → Store) : (p.modStore f).calEn = p.calEn := rfl
@[simp] theorem modStore_monitor (p : Part) (f : Store → Store) : (p.modStore f).monitor = p.monitor := rfl
@[simp] theorem modStore_decks (p : Part) (f : Store → Store) : (p.modStore f).decks = p.decks := rfl
@[simp] theorem modStore_lanes (p : Part) (f : Store → Store) : (p.modStore f).lanes = p.lanes := rfl
@[simp] theorem modStore_pairing (p : Part) (f : Store → Store) : (p.modStore f).pairing = p.pairing := rfl
@[simp] theorem modStore_tickets (p : Part) (f : Store → Store) : (p.modStore f).tickets = p.tickets := rfl
@[simp] theorem modStore_tables (p : Part) (f : Store → Store) : (p.modStore f).tables = p.tables := rfl
@[simp] theorem modStore_audit (p : Part) (f : Store → Store) : (p.modStore f).audit = p.audit := rfl
@[simp] theorem modStore_link (p : Part) (f : Store → Store) : (p.modStore f).link = p.link := rfl
@[simp] theorem modStore_fresh (p : Part) (f : Store → Store) : (p.modStore f).fresh = p.fresh := rfl

/-! ## modLink -/

@[simp] theorem modLink_phase (p : Part) (f : Link → Link) : (p.modLink f).phase = p.phase := rfl
@[simp] theorem modLink_cause (p : Part) (f : Link → Link) : (p.modLink f).cause = p.cause := rfl
@[simp] theorem modLink_clock (p : Part) (f : Link → Link) : (p.modLink f).clock = p.clock := rfl
@[simp] theorem modLink_calEn (p : Part) (f : Link → Link) : (p.modLink f).calEn = p.calEn := rfl
@[simp] theorem modLink_monitor (p : Part) (f : Link → Link) : (p.modLink f).monitor = p.monitor := rfl
@[simp] theorem modLink_decks (p : Part) (f : Link → Link) : (p.modLink f).decks = p.decks := rfl
@[simp] theorem modLink_lanes (p : Part) (f : Link → Link) : (p.modLink f).lanes = p.lanes := rfl
@[simp] theorem modLink_pairing (p : Part) (f : Link → Link) : (p.modLink f).pairing = p.pairing := rfl
@[simp] theorem modLink_tickets (p : Part) (f : Link → Link) : (p.modLink f).tickets = p.tickets := rfl
@[simp] theorem modLink_tables (p : Part) (f : Link → Link) : (p.modLink f).tables = p.tables := rfl
@[simp] theorem modLink_audit (p : Part) (f : Link → Link) : (p.modLink f).audit = p.audit := rfl
@[simp] theorem modLink_store (p : Part) (f : Link → Link) : (p.modLink f).store = p.store := rfl
@[simp] theorem modLink_fresh (p : Part) (f : Link → Link) : (p.modLink f).fresh = p.fresh := rfl

/-! ## elapse -/

@[simp] theorem elapse_phase (p : Part) (dt : Nat) : (p.elapse dt).phase = p.phase := rfl
@[simp] theorem elapse_cause (p : Part) (dt : Nat) : (p.elapse dt).cause = p.cause := rfl
@[simp] theorem elapse_calEn (p : Part) (dt : Nat) : (p.elapse dt).calEn = p.calEn := rfl
@[simp] theorem elapse_monitor (p : Part) (dt : Nat) : (p.elapse dt).monitor = p.monitor := rfl
@[simp] theorem elapse_decks (p : Part) (dt : Nat) : (p.elapse dt).decks = p.decks := rfl
@[simp] theorem elapse_lanes (p : Part) (dt : Nat) : (p.elapse dt).lanes = p.lanes := rfl
@[simp] theorem elapse_pairing (p : Part) (dt : Nat) : (p.elapse dt).pairing = p.pairing := rfl
@[simp] theorem elapse_tickets (p : Part) (dt : Nat) : (p.elapse dt).tickets = p.tickets := rfl
@[simp] theorem elapse_tables (p : Part) (dt : Nat) : (p.elapse dt).tables = p.tables := rfl
@[simp] theorem elapse_audit (p : Part) (dt : Nat) : (p.elapse dt).audit = p.audit := rfl
@[simp] theorem elapse_store (p : Part) (dt : Nat) : (p.elapse dt).store = p.store := rfl
@[simp] theorem elapse_link (p : Part) (dt : Nat) : (p.elapse dt).link = p.link := rfl
@[simp] theorem elapse_fresh (p : Part) (dt : Nat) : (p.elapse dt).fresh = p.fresh := rfl

/-! ## respond -/

@[simp] theorem respond_phase (p : Part) (c : U16) (r : Req) (o : RespOutcome) : (p.respond c r o).phase = p.phase := rfl
@[simp] theorem respond_cause (p : Part) (c : U16) (r : Req) (o : RespOutcome) : (p.respond c r o).cause = p.cause := rfl
@[simp] theorem respond_clock (p : Part) (c : U16) (r : Req) (o : RespOutcome) : (p.respond c r o).clock = p.clock := rfl
@[simp] theorem respond_calEn (p : Part) (c : U16) (r : Req) (o : RespOutcome) : (p.respond c r o).calEn = p.calEn := rfl
@[simp] theorem respond_monitor (p : Part) (c : U16) (r : Req) (o : RespOutcome) : (p.respond c r o).monitor = p.monitor := rfl
@[simp] theorem respond_decks (p : Part) (c : U16) (r : Req) (o : RespOutcome) : (p.respond c r o).decks = p.decks := rfl
@[simp] theorem respond_lanes (p : Part) (c : U16) (r : Req) (o : RespOutcome) : (p.respond c r o).lanes = p.lanes := rfl
@[simp] theorem respond_pairing (p : Part) (c : U16) (r : Req) (o : RespOutcome) : (p.respond c r o).pairing = p.pairing := rfl
@[simp] theorem respond_tickets (p : Part) (c : U16) (r : Req) (o : RespOutcome) : (p.respond c r o).tickets = p.tickets := rfl
@[simp] theorem respond_tables (p : Part) (c : U16) (r : Req) (o : RespOutcome) : (p.respond c r o).tables = p.tables := rfl
@[simp] theorem respond_audit (p : Part) (c : U16) (r : Req) (o : RespOutcome) : (p.respond c r o).audit = p.audit := rfl
@[simp] theorem respond_store (p : Part) (c : U16) (r : Req) (o : RespOutcome) : (p.respond c r o).store = p.store := rfl
@[simp] theorem respond_fresh (p : Part) (c : U16) (r : Req) (o : RespOutcome) : (p.respond c r o).fresh = p.fresh := rfl

/-! ## done -/

@[simp] theorem done_phase (p : Part) (c : U16) (r : Req) (d : RespData) : (p.done c r d).phase = p.phase := rfl
@[simp] theorem done_cause (p : Part) (c : U16) (r : Req) (d : RespData) : (p.done c r d).cause = p.cause := rfl
@[simp] theorem done_clock (p : Part) (c : U16) (r : Req) (d : RespData) : (p.done c r d).clock = p.clock := rfl
@[simp] theorem done_calEn (p : Part) (c : U16) (r : Req) (d : RespData) : (p.done c r d).calEn = p.calEn := rfl
@[simp] theorem done_monitor (p : Part) (c : U16) (r : Req) (d : RespData) : (p.done c r d).monitor = p.monitor := rfl
@[simp] theorem done_decks (p : Part) (c : U16) (r : Req) (d : RespData) : (p.done c r d).decks = p.decks := rfl
@[simp] theorem done_lanes (p : Part) (c : U16) (r : Req) (d : RespData) : (p.done c r d).lanes = p.lanes := rfl
@[simp] theorem done_pairing (p : Part) (c : U16) (r : Req) (d : RespData) : (p.done c r d).pairing = p.pairing := rfl
@[simp] theorem done_tickets (p : Part) (c : U16) (r : Req) (d : RespData) : (p.done c r d).tickets = p.tickets := rfl
@[simp] theorem done_tables (p : Part) (c : U16) (r : Req) (d : RespData) : (p.done c r d).tables = p.tables := rfl
@[simp] theorem done_audit (p : Part) (c : U16) (r : Req) (d : RespData) : (p.done c r d).audit = p.audit := rfl
@[simp] theorem done_store (p : Part) (c : U16) (r : Req) (d : RespData) : (p.done c r d).store = p.store := rfl
@[simp] theorem done_fresh (p : Part) (c : U16) (r : Req) (d : RespData) : (p.done c r d).fresh = p.fresh := rfl

/-! ## refuse -/

@[simp] theorem refuse_phase (p : Part) (c : U16) (r : Req) (x : Reason) : (p.refuse c r x).phase = p.phase := rfl
@[simp] theorem refuse_cause (p : Part) (c : U16) (r : Req) (x : Reason) : (p.refuse c r x).cause = p.cause := rfl
@[simp] theorem refuse_clock (p : Part) (c : U16) (r : Req) (x : Reason) : (p.refuse c r x).clock = p.clock := rfl
@[simp] theorem refuse_calEn (p : Part) (c : U16) (r : Req) (x : Reason) : (p.refuse c r x).calEn = p.calEn := rfl
@[simp] theorem refuse_monitor (p : Part) (c : U16) (r : Req) (x : Reason) : (p.refuse c r x).monitor = p.monitor := rfl
@[simp] theorem refuse_decks (p : Part) (c : U16) (r : Req) (x : Reason) : (p.refuse c r x).decks = p.decks := rfl
@[simp] theorem refuse_lanes (p : Part) (c : U16) (r : Req) (x : Reason) : (p.refuse c r x).lanes = p.lanes := rfl
@[simp] theorem refuse_pairing (p : Part) (c : U16) (r : Req) (x : Reason) : (p.refuse c r x).pairing = p.pairing := rfl
@[simp] theorem refuse_tickets (p : Part) (c : U16) (r : Req) (x : Reason) : (p.refuse c r x).tickets = p.tickets := rfl
@[simp] theorem refuse_tables (p : Part) (c : U16) (r : Req) (x : Reason) : (p.refuse c r x).tables = p.tables := rfl
@[simp] theorem refuse_audit (p : Part) (c : U16) (r : Req) (x : Reason) : (p.refuse c r x).audit = p.audit := rfl
@[simp] theorem refuse_store (p : Part) (c : U16) (r : Req) (x : Reason) : (p.refuse c r x).store = p.store := rfl
@[simp] theorem refuse_fresh (p : Part) (c : U16) (r : Req) (x : Reason) : (p.refuse c r x).fresh = p.fresh := rfl

/-! ## notify -/

@[simp] theorem notify_phase (p : Part) (b : NoticeBody) : (p.notify b).phase = p.phase := rfl
@[simp] theorem notify_cause (p : Part) (b : NoticeBody) : (p.notify b).cause = p.cause := rfl
@[simp] theorem notify_clock (p : Part) (b : NoticeBody) : (p.notify b).clock = p.clock := rfl
@[simp] theorem notify_calEn (p : Part) (b : NoticeBody) : (p.notify b).calEn = p.calEn := rfl
@[simp] theorem notify_monitor (p : Part) (b : NoticeBody) : (p.notify b).monitor = p.monitor := rfl
@[simp] theorem notify_decks (p : Part) (b : NoticeBody) : (p.notify b).decks = p.decks := rfl
@[simp] theorem notify_lanes (p : Part) (b : NoticeBody) : (p.notify b).lanes = p.lanes := rfl
@[simp] theorem notify_pairing (p : Part) (b : NoticeBody) : (p.notify b).pairing = p.pairing := rfl
@[simp] theorem notify_tickets (p : Part) (b : NoticeBody) : (p.notify b).tickets = p.tickets := rfl
@[simp] theorem notify_tables (p : Part) (b : NoticeBody) : (p.notify b).tables = p.tables := rfl
@[simp] theorem notify_audit (p : Part) (b : NoticeBody) : (p.notify b).audit = p.audit := rfl
@[simp] theorem notify_store (p : Part) (b : NoticeBody) : (p.notify b).store = p.store := rfl
@[simp] theorem notify_fresh (p : Part) (b : NoticeBody) : (p.notify b).fresh = p.fresh := rfl

/-! ## queueTable -/

@[simp] theorem queueTable_phase (p : Part) (o : TableOp) : (p.queueTable o).phase = p.phase := rfl
@[simp] theorem queueTable_cause (p : Part) (o : TableOp) : (p.queueTable o).cause = p.cause := rfl
@[simp] theorem queueTable_clock (p : Part) (o : TableOp) : (p.queueTable o).clock = p.clock := rfl
@[simp] theorem queueTable_calEn (p : Part) (o : TableOp) : (p.queueTable o).calEn = p.calEn := rfl
@[simp] theorem queueTable_monitor (p : Part) (o : TableOp) : (p.queueTable o).monitor = p.monitor := rfl
@[simp] theorem queueTable_decks (p : Part) (o : TableOp) : (p.queueTable o).decks = p.decks := rfl
@[simp] theorem queueTable_lanes (p : Part) (o : TableOp) : (p.queueTable o).lanes = p.lanes := rfl
@[simp] theorem queueTable_pairing (p : Part) (o : TableOp) : (p.queueTable o).pairing = p.pairing := rfl
@[simp] theorem queueTable_tickets (p : Part) (o : TableOp) : (p.queueTable o).tickets = p.tickets := rfl
@[simp] theorem queueTable_tables (p : Part) (o : TableOp) : (p.queueTable o).tables = p.tables := rfl
@[simp] theorem queueTable_audit (p : Part) (o : TableOp) : (p.queueTable o).audit = p.audit := rfl
@[simp] theorem queueTable_link (p : Part) (o : TableOp) : (p.queueTable o).link = p.link := rfl
@[simp] theorem queueTable_fresh (p : Part) (o : TableOp) : (p.queueTable o).fresh = p.fresh := rfl

/-! ## What each update does to its own field -/

@[simp] theorem modPairing_pairing (p : Part) (f : Pairing → Pairing) : (p.modPairing f).pairing = f p.pairing := rfl
@[simp] theorem modTickets_tickets (p : Part) (f : TicketUnit → TicketUnit) : (p.modTickets f).tickets = f p.tickets := rfl
@[simp] theorem modTables_tables (p : Part) (f : TableStore → TableStore) : (p.modTables f).tables = f p.tables := rfl
@[simp] theorem modAudit_audit (p : Part) (f : AuditUnit → AuditUnit) : (p.modAudit f).audit = f p.audit := rfl
@[simp] theorem modTrail_audit (p : Part) (f : Trail → Trail) :
    (p.modTrail f).audit = { p.audit with trail := f p.audit.trail } := rfl
@[simp] theorem modStore_store (p : Part) (f : Store → Store) : (p.modStore f).store = f p.store := rfl
@[simp] theorem modLink_link (p : Part) (f : Link → Link) : (p.modLink f).link = f p.link := rfl
@[simp] theorem elapse_clock (p : Part) (dt : Nat) : (p.elapse dt).clock = p.clock.elapse dt := rfl

/-! ## Lanes, ends and decks -/

@[simp] theorem lane_modLane_self (p : Part) (l : LaneId) (f : Lane → Lane) : (p.modLane l f).lane l = f (p.lane l) := by
  cases l <;> rfl

@[simp] theorem lane_modLane_other (p : Part) (l : LaneId) (f : Lane → Lane) :
    (p.modLane l f).lane l.other = p.lane l.other := by
  cases l <;> rfl

theorem lane_modLane (p : Part) (l m : LaneId) (f : Lane → Lane) :
    (p.modLane l f).lane m = if m = l then f (p.lane l) else p.lane m := by
  cases l <;> cases m <;> rfl

@[simp] theorem visit_setVisit (p : Part) (l : LaneId) (v : Visit) : (p.setVisit l v).visit l = some v := by
  cases l <;> rfl

@[simp] theorem laneEnd_modEnd_self (p : Part) (l : LaneId) (e : LaneEnd) (f : EndState → EndState) :
    (p.modEnd l e f).laneEnd l e = f (p.laneEnd l e) := by
  cases l <;> cases e <;> rfl

theorem laneEnd_modEnd (p : Part) (l m : LaneId) (e e' : LaneEnd) (f : EndState → EndState) :
    (p.modEnd l e f).laneEnd m e' = if m = l ∧ e' = e then f (p.laneEnd l e) else p.laneEnd m e' := by
  cases l <;> cases m <;> cases e <;> cases e' <;> rfl

@[simp] theorem deck_setDeck_self (p : Part) (d : DeckId) (x : Deck) : (p.setDeck d x).deck d = x := by
  simp [Part.setDeck, Part.deck]

theorem deck_setDeck (p : Part) (d e : DeckId) (x : Deck) :
    (p.setDeck d x).deck e = if e = d then x else p.deck e := by
  by_cases h : e = d
  · subst h; simp
  · have h' : d.val ≠ e.val := fun x => h (Fin.ext x.symm)
    simp [Part.setDeck, Part.deck, h, h']

@[simp] theorem deck_modDeck_self (p : Part) (d : DeckId) (f : Deck → Deck) : (p.modDeck d f).deck d = f (p.deck d) := by
  simp [Part.modDeck]

theorem deck_modDeck (p : Part) (d e : DeckId) (f : Deck → Deck) :
    (p.modDeck d f).deck e = if e = d then f (p.deck d) else p.deck e := by
  simp [Part.modDeck, deck_setDeck]

/-- Emptying the slot leaves nothing of the exit axle count entered before (R72, R85). -/
@[simp] theorem emptySlot_enterExit (x : Lane) : x.enterExit.emptySlot = x.emptySlot := rfl

/-! ## What leaves a lane, a deck or a visit alone -/

@[simp] theorem lane_modDeck (p : Part) (d : DeckId) (f : Deck → Deck) (m : LaneId) : (p.modDeck d f).lane m = p.lane m := rfl
@[simp] theorem visit_modDeck (p : Part) (d : DeckId) (f : Deck → Deck) (m : LaneId) : (p.modDeck d f).visit m = p.visit m := rfl
@[simp] theorem deck_modLane (p : Part) (l : LaneId) (f : Lane → Lane) (i : DeckId) : (p.modLane l f).deck i = p.deck i := rfl
@[simp] theorem deck_modEnd (p : Part) (l : LaneId) (e : LaneEnd) (f : EndState → EndState) (i : DeckId) : (p.modEnd l e f).deck i = p.deck i := rfl
@[simp] theorem deck_setVisit (p : Part) (l : LaneId) (v : Visit) (i : DeckId) : (p.setVisit l v).deck i = p.deck i := rfl
@[simp] theorem deck_modBlocks (p : Part) (l : LaneId) (f : Blocks → Blocks) (i : DeckId) : (p.modBlocks l f).deck i = p.deck i := rfl
@[simp] theorem deck_bothBlocks (p : Part) (f : Blocks → Blocks) (i : DeckId) : (p.bothBlocks f).deck i = p.deck i := rfl
@[simp] theorem lane_modPairing (p : Part) (f : Pairing → Pairing) (m : LaneId) : (p.modPairing f).lane m = p.lane m := rfl
@[simp] theorem visit_modPairing (p : Part) (f : Pairing → Pairing) (m : LaneId) : (p.modPairing f).visit m = p.visit m := rfl
@[simp] theorem deck_modPairing (p : Part) (f : Pairing → Pairing) (i : DeckId) : (p.modPairing f).deck i = p.deck i := rfl
@[simp] theorem lane_modTickets (p : Part) (f : TicketUnit → TicketUnit) (m : LaneId) : (p.modTickets f).lane m = p.lane m := rfl
@[simp] theorem visit_modTickets (p : Part) (f : TicketUnit → TicketUnit) (m : LaneId) : (p.modTickets f).visit m = p.visit m := rfl
@[simp] theorem deck_modTickets (p : Part) (f : TicketUnit → TicketUnit) (i : DeckId) : (p.modTickets f).deck i = p.deck i := rfl
@[simp] theorem lane_modTables (p : Part) (f : TableStore → TableStore) (m : LaneId) : (p.modTables f).lane m = p.lane m := rfl
@[simp] theorem visit_modTables (p : Part) (f : TableStore → TableStore) (m : LaneId) : (p.modTables f).visit m = p.visit m := rfl
@[simp] theorem deck_modTables (p : Part) (f : TableStore → TableStore) (i : DeckId) : (p.modTables f).deck i = p.deck i := rfl
@[simp] theorem lane_modAudit (p : Part) (f : AuditUnit → AuditUnit) (m : LaneId) : (p.modAudit f).lane m = p.lane m := rfl
@[simp] theorem visit_modAudit (p : Part) (f : AuditUnit → AuditUnit) (m : LaneId) : (p.modAudit f).visit m = p.visit m := rfl
@[simp] theorem deck_modAudit (p : Part) (f : AuditUnit → AuditUnit) (i : DeckId) : (p.modAudit f).deck i = p.deck i := rfl
@[simp] theorem lane_modTrail (p : Part) (f : Trail → Trail) (m : LaneId) : (p.modTrail f).lane m = p.lane m := rfl
@[simp] theorem visit_modTrail (p : Part) (f : Trail → Trail) (m : LaneId) : (p.modTrail f).visit m = p.visit m := rfl
@[simp] theorem deck_modTrail (p : Part) (f : Trail → Trail) (i : DeckId) : (p.modTrail f).deck i = p.deck i := rfl
@[simp] theorem lane_modStore (p : Part) (f : Store → Store) (m : LaneId) : (p.modStore f).lane m = p.lane m := rfl
@[simp] theorem visit_modStore (p : Part) (f : Store → Store) (m : LaneId) : (p.modStore f).visit m = p.visit m := rfl
@[simp] theorem deck_modStore (p : Part) (f : Store → Store) (i : DeckId) : (p.modStore f).deck i = p.deck i := rfl
@[simp] theorem lane_modLink (p : Part) (f : Link → Link) (m : LaneId) : (p.modLink f).lane m = p.lane m := rfl
@[simp] theorem visit_modLink (p : Part) (f : Link → Link) (m : LaneId) : (p.modLink f).visit m = p.visit m := rfl
@[simp] theorem deck_modLink (p : Part) (f : Link → Link) (i : DeckId) : (p.modLink f).deck i = p.deck i := rfl
@[simp] theorem lane_elapse (p : Part) (dt : Nat) (m : LaneId) : (p.elapse dt).lane m = p.lane m := rfl
@[simp] theorem visit_elapse (p : Part) (dt : Nat) (m : LaneId) : (p.elapse dt).visit m = p.visit m := rfl
@[simp] theorem deck_elapse (p : Part) (dt : Nat) (i : DeckId) : (p.elapse dt).deck i = p.deck i := rfl
@[simp] theorem lane_respond (p : Part) (c : U16) (r : Req) (o : RespOutcome) (m : LaneId) : (p.respond c r o).lane m = p.lane m := rfl
@[simp] theorem visit_respond (p : Part) (c : U16) (r : Req) (o : RespOutcome) (m : LaneId) : (p.respond c r o).visit m = p.visit m := rfl
@[simp] theorem deck_respond (p : Part) (c : U16) (r : Req) (o : RespOutcome) (i : DeckId) : (p.respond c r o).deck i = p.deck i := rfl
@[simp] theorem lane_done (p : Part) (c : U16) (r : Req) (d : RespData) (m : LaneId) : (p.done c r d).lane m = p.lane m := rfl
@[simp] theorem visit_done (p : Part) (c : U16) (r : Req) (d : RespData) (m : LaneId) : (p.done c r d).visit m = p.visit m := rfl
@[simp] theorem deck_done (p : Part) (c : U16) (r : Req) (d : RespData) (i : DeckId) : (p.done c r d).deck i = p.deck i := rfl
@[simp] theorem lane_refuse (p : Part) (c : U16) (r : Req) (x : Reason) (m : LaneId) : (p.refuse c r x).lane m = p.lane m := rfl
@[simp] theorem visit_refuse (p : Part) (c : U16) (r : Req) (x : Reason) (m : LaneId) : (p.refuse c r x).visit m = p.visit m := rfl
@[simp] theorem deck_refuse (p : Part) (c : U16) (r : Req) (x : Reason) (i : DeckId) : (p.refuse c r x).deck i = p.deck i := rfl
@[simp] theorem lane_notify (p : Part) (b : NoticeBody) (m : LaneId) : (p.notify b).lane m = p.lane m := rfl
@[simp] theorem visit_notify (p : Part) (b : NoticeBody) (m : LaneId) : (p.notify b).visit m = p.visit m := rfl
@[simp] theorem deck_notify (p : Part) (b : NoticeBody) (i : DeckId) : (p.notify b).deck i = p.deck i := rfl
@[simp] theorem lane_queueTable (p : Part) (o : TableOp) (m : LaneId) : (p.queueTable o).lane m = p.lane m := rfl
@[simp] theorem visit_queueTable (p : Part) (o : TableOp) (m : LaneId) : (p.queueTable o).visit m = p.visit m := rfl
@[simp] theorem deck_queueTable (p : Part) (o : TableOp) (i : DeckId) : (p.queueTable o).deck i = p.deck i := rfl

/-! ## The state around the part -/

@[simp] theorem act_mem (s : State) (f : Part → Part) : (s.act f).mem = s.mem := rfl
@[simp] theorem act_pending (s : State) (f : Part → Part) : (s.act f).pending = s.pending := rfl
@[simp] theorem act_toPart (s : State) (f : Part → Part) : (s.act f).toPart = f s.toPart := rfl

/-- A command that changes the part alone answers a next state, the end of the step included. -/
theorem run_eq (s : State) (f : Part → Part) : s.run f = .next (s.act fun p => (f p).finish) := rfl

end Sys2Proof.Machine
end

