-- ==== Sys2Proof/Laws/Closing.lean ====
section
/-! SUPPORT. Everything that the end of a step can do (Part.Closes), said once for Part.finish. -/

namespace Sys2Proof.Machine

theorem lane_ext (p q : Part) (h : ∀ l, q.lane l = p.lane l) : q.lanes = p.lanes := by
  have h0 := h .l0
  have h1 := h .l1
  cases hp : p.lanes; cases hq : q.lanes
  simp only [Part.lane, PerLane.get, hp, hq] at h0 h1
  rw [h0, h1]

/-- `q` is `p` with its lane ends moved, the recorded failures aside. -/
structure Part.EndsMoved (p q : Part) : Prop where
  rest : q = { p with lanes := q.lanes }
  lane : ∀ l, q.lane l = { p.lane l with ends := (q.lane l).ends }
  failed : ∀ l e, (q.laneEnd l e).barrier.failed = (p.laneEnd l e).barrier.failed

theorem Part.EndsMoved.refl (p : Part) : p.EndsMoved p := ⟨rfl, fun _ => rfl, fun _ _ => rfl⟩

theorem Part.EndsMoved.trans {p q r : Part} (h : p.EndsMoved q) (k : q.EndsMoved r) : p.EndsMoved r := by
  refine ⟨?_, ?_, fun l e => (k.failed l e).trans (h.failed l e)⟩
  · have h1 := h.rest
    have h2 := k.rest
    rw [h2, h1]
  · intro l
    have h1 := h.lane l
    have h2 := k.lane l
    rw [h1] at h2
    exact h2

theorem driveEnd_moved (p : Part) (l : LaneId) (e : LaneEnd) : p.EndsMoved (p.driveEnd l e) := by
  unfold Part.driveEnd
  refine ⟨rfl, ?_, ?_⟩
  · intro m; cases l <;> cases e <;> cases m <;> rfl
  · intro m e'; cases l <;> cases e <;> cases m <;> cases e' <;> rfl

theorem driveEnds_moved (p : Part) (l : LaneId) : p.EndsMoved ((p.driveEnd l .a).driveEnd l .b) :=
  (driveEnd_moved p l .a).trans (driveEnd_moved _ l .b)

/-- What BARRIER leaves behind does not depend on the lane ends, the recorded failures aside. -/
theorem Part.EndsMoved.barrierLeaves {p q : Part} (h : p.EndsMoved q) (l : LaneId) :
    (p.barrierLeaves l).EndsMoved (q.barrierLeaves l) := by
  obtain ⟨hr, hl, hf⟩ := h
  have hx : q.lane l = { p.lane l with ends := (q.lane l).ends } := hl l
  have hw : q.barriersWell l = p.barriersWell l := by unfold Part.barriersWell; rw [hf l .a, hf l .b]
  have hc : (q.lane l).causes = (p.lane l).causes := by rw [hx]
  have hs : (q.lane l).state = (p.lane l).state := by rw [hx]
  have hv : (q.lane l).visit = (p.lane l).visit := by rw [hx]
  have mod : ∀ f : Lane → Lane, (∀ x y : PerEnd EndState, ∀ z : Lane, f { z with ends := y } = { f z with ends := y }) →
      (∀ z, (f z).ends = z.ends) → (p.modLane l f).EndsMoved (q.modLane l f) := by
    intro f hf1 hf2
    refine ⟨?_, ?_, ?_⟩
    · show { q with lanes := _ } = _
      rw [hr]; rfl
    · intro m
      by_cases hm : m = l
      · subst hm
        rw [lane_modLane_self, lane_modLane_self, hf2]
        rw [hx]
        exact hf1 (q.lane m).ends (q.lane m).ends (p.lane m)
      · have e1 : (q.modLane l f).lane m = q.lane m := by cases l <;> cases m <;> first | rfl | exact absurd rfl hm
        have e2 : (p.modLane l f).lane m = p.lane m := by cases l <;> cases m <;> first | rfl | exact absurd rfl hm
        rw [e1, e2]; exact hl m
    · intro m e
      unfold Part.laneEnd
      by_cases hm : m = l
      · subst hm
        rw [lane_modLane_self, lane_modLane_self, hf2, hf2]
        exact hf m e
      · have e1 : (q.modLane l f).lane m = q.lane m := by cases l <;> cases m <;> first | rfl | exact absurd rfl hm
        have e2 : (p.modLane l f).lane m = p.lane m := by cases l <;> cases m <;> first | rfl | exact absurd rfl hm
        rw [e1, e2]; exact hf m e
  unfold Part.barrierLeaves
  dsimp only
  rw [hc, hs, hv, hw]
  split
  · split
    · have k := mod (fun y => { y with
        causes := .empty, state := .closed, blocks := { y.blocks with closeRequested := false } })
        (fun _ _ _ => rfl) (fun _ => rfl)
      obtain ⟨k1, k2, k3⟩ := k
      refine ⟨?_, k2, k3⟩
      rw [k1]; rfl
    · exact mod _ (fun _ _ _ => rfl) (fun _ => rfl)
  · exact ⟨hr, hl, hf⟩

/-- BARRIER leaves as laneClear takes it out. -/
theorem barrierLeaves_eq (p : Part) (l : LaneId) :
    p.barrierLeaves l = if p.barriersWell l then p.laneClear l .barrier else p := by
  unfold Part.barrierLeaves Part.laneClear
  dsimp only
  by_cases hb : (p.lane l).causes.barrier = true
  · by_cases hw : p.barriersWell l = true
    · have e : (p.lane l).causes.has .barrier = true := hb
      rw [if_pos ⟨hb, hw⟩, if_pos hw, if_pos e]
      simp only [lane_modLane_self]
      have hv : (p.modLane l fun x => { x with causes := x.causes.put false .barrier }).visit l = (p.lane l).visit := by
        unfold Part.visit; rw [lane_modLane_self]
      rw [hv]
      have hput : (p.lane l).causes.put false .barrier = { (p.lane l).causes with barrier := false } := rfl
      rw [hput]
      by_cases h : { (p.lane l).causes with barrier := false } = LaneCauses.empty ∧ (p.lane l).state = .fault ∧
          (p.lane l).visit.isNone = true
      · rw [if_pos h, if_pos h]
        unfold Part.enterLaneState
        rw [if_neg (by rw [lane_modLane_self]; simp [h.2.1])]
        simp only [lane_modLane_self]
        rw [hput, h.1]
        congr 1
        unfold Part.modLane
        beta_reduce
        rw [hput, h.1]
        cases l <;> rfl
      · rw [if_neg h, if_neg h]; rfl
    · rw [if_neg (fun h => hw h.2), if_neg hw]
  · have e : ¬ (p.lane l).causes.has .barrier = true := hb
    rw [if_neg (fun h => hb h.1), if_neg e]
    simp

/-- The transmitter changes nothing of what waits. -/
theorem kick_waiting (k : Link) : k.kick.waiting = k.waiting := by
  unfold Link.kick
  split
  · rfl
  · rename_i ht
    split <;> simp [Link.waiting, *]

theorem kick_requests (k : Link) : k.kick.outstanding = k.outstanding ∧ k.kick.restart = k.restart ∧
    k.kick.drops = k.drops ∧ k.kick.nextNotice = k.nextNotice ∧ k.kick.lost = k.lost := by
  unfold Link.kick
  split
  · exact ⟨rfl, rfl, rfl, rfl, rfl⟩
  · split <;> exact ⟨rfl, rfl, rfl, rfl, rfl⟩

theorem queueNotice_requests (k : Link) (n : Notice) : (k.queueNotice n).outstanding = k.outstanding ∧
    (k.queueNotice n).restart = k.restart ∧ (k.queueNotice n).drops = k.drops := by
  unfold Link.queueNotice
  split
  · split <;> exact ⟨rfl, rfl, rfl⟩
  · split <;> exact ⟨rfl, rfl, rfl⟩

theorem notify_requests (p : Part) (b : NoticeBody) : (p.notify b).link.outstanding = p.link.outstanding ∧
    (p.notify b).link.restart = p.link.restart ∧ (p.notify b).link.drops = p.link.drops := by
  have h := queueNotice_requests { p.link with nextNotice := p.link.nextNotice + 1 }
    { number := p.link.nextNotice, time := p.siteTime, valid := p.clock.valid, body := b }
  exact h

/-- Everything that BARRIER's leaving can change. -/
theorem barrierLeaves_facts (p : Part) (l : LaneId) :
    let q := p.barrierLeaves l
    q = { p with lanes := q.lanes, link := q.link } ∧
      (∀ m, q.lane m = { p.lane m with
        state := (q.lane m).state, causes := (q.lane m).causes, blocks := (q.lane m).blocks }) ∧
      q.lane l.other = p.lane l.other ∧
      q.link.outstanding = p.link.outstanding ∧ q.link.restart = p.link.restart ∧ q.link.drops = p.link.drops := by
  unfold Part.barrierLeaves
  dsimp only
  split
  · split
    · have h := notify_requests (p.modLane l fun y => { y with
        causes := .empty, state := .closed, blocks := { y.blocks with closeRequested := false } })
        (.laneState l .closed .empty)
      refine ⟨rfl, fun m => ?_, ?_, h⟩
      · cases l <;> cases m <;> rfl
      · cases l <;> rfl
    · refine ⟨rfl, fun m => ?_, ?_, rfl, rfl, rfl⟩
      · cases l <;> cases m <;> rfl
      · cases l <;> rfl
  · exact ⟨rfl, fun _ => rfl, rfl, rfl, rfl, rfl⟩

/-- A lane that has no BARRIER, or has a failure recorded, is left alone. -/
theorem barrierLeaves_id (p : Part) (l : LaneId) (h : (p.lane l).causes.barrier = false ∨ p.barriersWell l = false) :
    p.barrierLeaves l = p := by
  unfold Part.barrierLeaves
  dsimp only
  rw [if_neg]
  rintro ⟨a, b⟩
  rcases h with h | h
  · rw [h] at a; cases a
  · rw [h] at b; cases b

theorem barrierLeaves_laneEnd (p : Part) (l m : LaneId) (e : LaneEnd) :
    (p.barrierLeaves l).laneEnd m e = p.laneEnd m e := by
  unfold Part.laneEnd
  rw [(barrierLeaves_facts p l).2.1 m]

theorem checkLane_settled (p : Part) (l : LaneId) (h : ((p.adopted l).lanes.get l).settled) : p.checkLane l = p := by
  unfold Part.checkLane
  rw [if_pos]
  rcases h with h | h <;> simp [h]

/-- The end of a step for one lane whose settings in use are settled. -/
theorem driveLane_settled (p : Part) (l : LaneId) (h : ((p.adopted l).lanes.get l).settled) :
    p.driveLane l = ((p.driveEnd l .a).driveEnd l .b).barrierLeaves l := by
  unfold Part.driveLane
  have e : (if p.drivesBySettings l then p.checkLane l else p) = p := by
    split
    · exact checkLane_settled p l h
    · rfl
  simp only [e]
  rw [barrierLeaves_eq]
  unfold Part.barriersWell
  split
  · rename_i hf
    rw [if_neg]
    simp only [Bool.or_eq_true] at hf
    rcases hf with hf | hf <;> simp [hf]
  · rename_i hf
    rw [if_pos]
    simp only [Bool.or_eq_true, not_or, Bool.not_eq_true] at hf
    simp [hf.1, hf.2]

/-- What the lane of `p` wants does not depend on what is driven. -/
theorem driveEnd_wanted (p : Part) (l m : LaneId) (e e' : LaneEnd) : (p.driveEnd l e).wanted m e' = p.wanted m e' := by
  cases l <;> cases m <;> cases e <;> rfl

theorem driveEnd_moveLimit (p : Part) (l m : LaneId) (e : LaneEnd) : (p.driveEnd l e).moveLimit m = p.moveLimit m := by
  cases l <;> cases m <;> cases e <;> rfl

theorem driveEnd_laneEnd (p : Part) (l m : LaneId) (e e' : LaneEnd) :
    (p.driveEnd l e).laneEnd m e' = if m = l ∧ e' = e then p.driven l e else p.laneEnd m e' :=
  laneEnd_modEnd p l m e e' _

theorem driveLane_laneEnd (p : Part) (l m : LaneId) (e : LaneEnd) (h : ((p.adopted l).lanes.get l).settled) :
    (p.driveLane l).laneEnd m e = if m = l then p.driven l e else p.laneEnd m e := by
  rw [driveLane_settled p l h, barrierLeaves_laneEnd]
  have hb : (p.driveEnd l .a).driven l .b = p.driven l .b := by
    unfold Part.driven
    rw [driveEnd_wanted, driveEnd_moveLimit, driveEnd_laneEnd]
    simp
  rw [driveEnd_laneEnd, driveEnd_laneEnd, hb]
  cases e <;> by_cases hm : m = l <;> simp [hm]

/-- Lane 0's end of the step leaves lane 1, the tables and the time alone. -/
theorem driveLane_zero (p : Part) (h : p.settingsSettled) :
    (p.driveLane .l0).lane .l1 = p.lane .l1 ∧ (p.driveLane .l0).adopted .l1 = p.adopted .l1 ∧
      (p.driveLane .l0).phase = p.phase ∧ (p.driveLane .l0).clock = p.clock := by
  rw [driveLane_settled p .l0 h.1]
  set q := (p.driveEnd .l0 .a).driveEnd .l0 .b with hq
  have f := barrierLeaves_facts q .l0
  dsimp only at f
  have hl : (q.barrierLeaves .l0).lane .l1 = p.lane .l1 := f.2.2.1
  have ht : (q.barrierLeaves .l0).tables = p.tables := by rw [f.1]; rfl
  refine ⟨hl, ?_, by rw [f.1]; rfl, by rw [f.1]; rfl⟩
  unfold Part.adopted
  rw [hl, ht]

/-- What lane 1 wants is not changed by lane 0's end of the step. -/
theorem driveLane_driven_other (p : Part) (e : LaneEnd) (h : p.settingsSettled) :
    (p.driveLane .l0).driven .l1 e = p.driven .l1 e := by
  obtain ⟨hl, ha, hp, hc⟩ := driveLane_zero p h
  unfold Part.driven Part.wanted Part.moveLimit Part.start Part.now Part.settings Part.laneEnd
  rw [ha, hl, hp, hc]

/-- The end of a step before the transmitter: the lanes as BARRIER leaves them behind, with their ends moved. -/
theorem drives_moved (p : Part) (h : p.settingsSettled) :
    ((p.barrierLeaves .l0).barrierLeaves .l1).EndsMoved ((p.driveLane .l0).driveLane .l1) := by
  have h1 : ((p.driveLane .l0).adopted .l1).lanes.get .l1 |>.settled := by
    rw [(driveLane_zero p h).2.1]; exact h.2.1
  rw [driveLane_settled _ .l1 h1]
  refine Part.EndsMoved.barrierLeaves (Part.EndsMoved.trans ?_ (driveEnds_moved _ .l1)) .l1
  rw [driveLane_settled p .l0 h.1]
  exact (driveEnds_moved p .l0).barrierLeaves .l0

/-- The end of a step, where the settings in use are settled. -/
theorem finish_closes (p : Part) (h : p.settingsSettled) : p.Closes p.finish := by
  have hm := drives_moved p h
  have h1 : ((p.driveLane .l0).adopted .l1).lanes.get .l1 |>.settled := by
    rw [(driveLane_zero p h).2.1]; exact h.2.1
  have he : ∀ l e, ((p.driveLane .l0).driveLane .l1).laneEnd l e = p.driven l e := by
    intro l e
    rw [driveLane_laneEnd _ _ _ _ h1]
    cases l
    · simp only [reduceCtorEq, if_false]
      rw [driveLane_laneEnd _ _ _ _ h.1]
      rfl
    · simp only [if_true]
      rw [driveLane_driven_other p e h]
  have a := barrierLeaves_facts p .l0
  have b := barrierLeaves_facts (p.barrierLeaves .l0) .l1
  dsimp only at a b
  unfold Part.finish
  generalize (p.driveLane .l0).driveLane .l1 = q at hm he ⊢
  generalize hr : (p.barrierLeaves .l0).barrierLeaves .l1 = r at hm b
  have hk : q.kick.endMarking = { q with link := q.kick.link, store := { q.store with marking := [] } } := by
    unfold Part.kick; split <;> rfl
  have hlink : q.kick.link.waiting = q.link.waiting ∧ q.kick.link.outstanding = q.link.outstanding ∧
      q.kick.link.restart = q.link.restart ∧ q.kick.link.drops = q.link.drops ∧
      q.kick.link.nextNotice = q.link.nextNotice ∧ q.kick.link.lost = q.link.lost := by
    unfold Part.kick
    split
    · exact ⟨rfl, rfl, rfl, rfl, rfl, rfl⟩
    · exact ⟨kick_waiting q.link, kick_requests q.link⟩
  have hke : q.kick.endMarking.link = q.kick.link := rfl
  have hql : q.link = r.link := by rw [hm.rest]
  have hlane : ∀ l, q.kick.endMarking.lane l = q.lane l := fun l => by rw [hk]; rfl
  refine ⟨?_, ?_, ?_, ?_, ?_, ?_⟩
  · rw [hk, hm.rest, b.1, a.1]
  · intro l
    rw [hlane, hm.lane l, b.2.1 l, a.2.1 l]
  · intro l e
    rw [← he l e]; unfold Part.laneEnd; rw [hlane]
  · intro l
    rw [hr, hlane, hm.lane l]
    exact ⟨rfl, rfl, rfl⟩
  · rw [hke, hlink.2.1, hlink.2.2.1, hlink.2.2.2.1, hql]
    exact ⟨b.2.2.2.1.trans a.2.2.2.1, b.2.2.2.2.1.trans a.2.2.2.2.1, b.2.2.2.2.2.trans a.2.2.2.2.2⟩
  · rw [hr, hke, hlink.1, hlink.2.2.2.2.1, hlink.2.2.2.2.2, hql]
    exact ⟨rfl, rfl, rfl⟩

/-- A command that is State.run of `f` ends as `f` makes the part, closed. -/
theorem run_endsAs (c : Instr) (s : State) (f : Part → Part) (hc : exec c s = s.run f)
    (h : (f s.toPart).settingsSettled) : endsAs c s (f s.toPart) :=
  ⟨_, hc, rfl, rfl, finish_closes _ h⟩

/-- A request that is taken is handed to its owner with its outstanding entry. -/
theorem admitRequest_takes (p : Part) (corr : U16) (r : Req) (owner : Part → Part) (h : p.takes corr)
    (target : Byte := 0) : p.admitRequest corr r owner target = owner (p.admitted corr r target) := by
  obtain ⟨h1, h2, h3, h4, h5⟩ := h
  have h6 : (p.link.outstanding.any fun o => decide (o.corr = corr)) = false := by
    rw [List.any_eq_false]
    intro o ho
    simpa using h5 o ho
  simp [Part.admitRequest, Part.admitted, h1, h3, h6, Nat.not_le.mpr h2, Nat.not_le.mpr h4, Part.modLink]

/-- Settled settings stay so while the tables and what each lane has adopted are left alone. -/
theorem settled_of {p q : Part} (h : p.settingsSettled) (ht : q.tables = p.tables)
    (h0 : (q.lane .l0).adoptedActive = (p.lane .l0).adoptedActive)
    (h1 : (q.lane .l1).adoptedActive = (p.lane .l1).adoptedActive) : q.settingsSettled := by
  unfold Part.settingsSettled Part.adopted Part.siteImage at *
  rw [ht, h0, h1]
  exact h

/-- A request that is taken ends as its owner makes the part, closed. -/
theorem request_endsAs (c : Instr) (s : State) (corr : U16) (r : Req) (owner : Part → Part) (q : Part)
    (target : Byte) (hc : exec c s = s.run fun p => p.admitRequest corr r owner target) (ht : s.toPart.takes corr)
    (hq : owner (s.toPart.admitted corr r target) = q) (hs : q.settingsSettled) : endsAs c s q := by
  have e : s.toPart.admitRequest corr r owner target = q := by
    rw [admitRequest_takes _ _ _ _ ht target, hq]
  have h := run_endsAs c s (fun p => p.admitRequest corr r owner target) hc (by simpa [e] using hs)
  simpa [e] using h

end Sys2Proof.Machine
end

