-- ==== Sys2Proof/Laws/Memory.lean ====
section
/-! SUPPORT. The record memory: every write keeps its canonical form, and what a byte reads as after a write. -/

namespace Sys2Proof.Machine

theorem memCells_bounds (a : Nat) (bs : List Byte) :
    ∀ c ∈ memCells a bs, a ≤ c.1 ∧ c.1 < a + bs.length ∧ c.1 < memSize ∧ c.2 ≠ unwritten := by
  induction bs generalizing a with
  | nil => intro c hc; simp [memCells] at hc
  | cons b bs ih =>
    intro c hc
    simp only [memCells] at hc
    split at hc
    · have h := ih (a + 1) c hc
      simp only [List.length_cons]
      exact ⟨by omega, by omega, h.2.2⟩
    · rename_i hb
      rcases List.mem_cons.mp hc with h | h
      · subst h
        simp only [List.length_cons]
        exact ⟨le_refl _, by omega, by omega, fun e => hb (Or.inl e)⟩
      · have h := ih (a + 1) c h
        simp only [List.length_cons]
        exact ⟨by omega, by omega, h.2.2⟩

theorem memCells_sorted (a : Nat) (bs : List Byte) : (memCells a bs).Pairwise (fun x y => x.1 < y.1) := by
  induction bs generalizing a with
  | nil => simp [memCells]
  | cons b bs ih =>
    simp only [memCells]
    split
    · exact ih (a + 1)
    · refine List.pairwise_cons.mpr ⟨fun c hc => ?_, ih (a + 1)⟩
      have h := memCells_bounds (a + 1) bs c hc
      show a < c.1
      omega

/-- A write keeps the canonical form of the memory. -/
theorem memWrite_wf (m : List Host.Cell) (a : Nat) (bs : List Byte) (h : Memory.wf m) : Memory.wf (memWrite m a bs) := by
  obtain ⟨hs, hm⟩ := h
  constructor
  · unfold memWrite
    rw [List.append_assoc, List.pairwise_append, List.pairwise_append]
    refine ⟨hs.filter _, ⟨memCells_sorted a bs, hs.filter _, ?_⟩, ?_⟩
    · intro x hx y hy
      have h1 := memCells_bounds a bs x hx
      have h2 := List.of_mem_filter hy
      simp only [decide_eq_true_eq] at h2
      omega
    · intro x hx y hy
      have h1 := List.of_mem_filter hx
      simp only [decide_eq_true_eq] at h1
      rcases List.mem_append.mp hy with hy | hy
      · have h2 := memCells_bounds a bs y hy
        omega
      · have h2 := List.of_mem_filter hy
        simp only [decide_eq_true_eq] at h2
        omega
  · intro c hc
    unfold memWrite at hc
    rcases List.mem_append.mp hc with hc | hc
    · rcases List.mem_append.mp hc with hc | hc
      · exact hm c (List.mem_of_mem_filter hc)
      · have h := memCells_bounds a bs c hc
        exact ⟨h.2.2.1, h.2.2.2⟩
    · exact hm c (List.mem_of_mem_filter hc)

theorem memRead_append_of_absent (m n : List Host.Cell) (x : Nat) (h : ∀ c ∈ m, c.1 ≠ x) :
    memRead (m ++ n) x = memRead n x := by
  induction m with
  | nil => rfl
  | cons c m ih =>
    simp only [List.cons_append, memRead]
    rw [if_neg (h c (by simp))]
    exact ih fun d hd => h d (by simp [hd])

theorem memRead_of_absent (m : List Host.Cell) (x : Nat) (h : ∀ c ∈ m, c.1 ≠ x) : memRead m x = unwritten := by
  have := memRead_append_of_absent m [] x h
  simpa [memRead] using this

theorem memRead_filter (m : List Host.Cell) (f : Nat → Bool) (x : Nat) (h : f x = true) :
    memRead (m.filter fun c => f c.1) x = memRead m x := by
  induction m with
  | nil => rfl
  | cons c m ih =>
    by_cases hc : f c.1 = true
    · simp only [List.filter_cons, hc, if_true, memRead, ih]
    · have hx : c.1 ≠ x := fun e => hc (e ▸ h)
      simp only [List.filter_cons, hc, if_false, memRead, ih, if_neg hx, Bool.false_eq_true]

theorem memRead_append_of_absent_right (m n : List Host.Cell) (x : Nat) (h : ∀ c ∈ n, c.1 ≠ x) :
    memRead (m ++ n) x = memRead m x := by
  induction m with
  | nil => exact memRead_of_absent n x h
  | cons c m ih => simp only [List.cons_append, memRead, ih]

theorem memRead_memCells (a : Nat) (bs : List Byte) (x : Nat) (h1 : a ≤ x) (h2 : x < memSize) :
    memRead (memCells a bs) x = bs.getD (x - a) unwritten := by
  induction bs generalizing a with
  | nil => simp [memCells, memRead]
  | cons b bs ih =>
    by_cases hx : x = a
    · subst hx
      simp only [memCells, Nat.sub_self, List.getD_cons_zero]
      split
      · rename_i hb
        have hb' : b = unwritten := hb.resolve_right (by omega)
        rw [hb']
        refine memRead_of_absent _ _ fun c hc => ?_
        have := memCells_bounds (x + 1) bs c hc
        omega
      · simp [memRead]
    · have hlt : a + 1 ≤ x := by omega
      have e : x - a = (x - (a + 1)) + 1 := by omega
      simp only [memCells, e, List.getD_cons_succ]
      split
      · exact ih (a + 1) hlt
      · simp only [memRead]
        rw [if_neg (by omega)]
        exact ih (a + 1) hlt

/-- Inside a write a byte reads as the byte written. -/
theorem memRead_memWrite_inside (m : List Host.Cell) (a : Nat) (bs : List Byte) (x : Nat) (h1 : a ≤ x)
    (h2 : x < a + bs.length) (h3 : x < memSize) : memRead (memWrite m a bs) x = bs.getD (x - a) unwritten := by
  unfold memWrite
  rw [List.append_assoc, memRead_append_of_absent, memRead_append_of_absent_right, memRead_memCells a bs x h1 h3]
  · intro c hc
    have := List.of_mem_filter hc
    simp only [decide_eq_true_eq] at this
    omega
  · intro c hc
    have := List.of_mem_filter hc
    simp only [decide_eq_true_eq] at this
    omega

/-- Outside a write a byte reads as before. -/
theorem memRead_memWrite_outside (m : List Host.Cell) (a : Nat) (bs : List Byte) (x : Nat)
    (h : x < a ∨ a + bs.length ≤ x) : memRead (memWrite m a bs) x = memRead m x := by
  unfold memWrite
  rcases h with h | h
  · rw [List.append_assoc, memRead_append_of_absent_right]
    · exact memRead_filter m (fun y => decide (y < a)) x (by simpa using h)
    · intro c hc
      rcases List.mem_append.mp hc with hc | hc
      · have := memCells_bounds a bs c hc
        omega
      · have := List.of_mem_filter hc
        simp only [decide_eq_true_eq] at this
        omega
  · rw [memRead_append_of_absent]
    · exact memRead_filter m (fun y => decide (a + bs.length ≤ y)) x (by simpa using h)
    · intro c hc
      rcases List.mem_append.mp hc with hc | hc
      · have := List.of_mem_filter hc
        simp only [decide_eq_true_eq] at this
        omega
      · have := memCells_bounds a bs c hc
        omega

/-- A run of bytes, byte by byte. -/
theorem memBytes_eq_map (m : List Host.Cell) (a n : Nat) :
    memBytes m a n = (List.range n).map fun i => memRead m (a + i) := by
  unfold memBytes
  refine List.map_congr_left fun i hi => ?_
  rw [List.mem_range] at hi
  exact memRead_filter m (fun x => decide (a ≤ x ∧ x < a + n)) (a + i) (by simp; omega)

/-- What has been written is read back. -/
theorem memBytes_memWrite_self (m : List Host.Cell) (a : Nat) (bs : List Byte) (h : a + bs.length ≤ memSize) :
    memBytes (memWrite m a bs) a bs.length = bs := by
  rw [memBytes_eq_map]
  refine List.ext_getElem (by simp) fun i h1 h2 => ?_
  rw [List.getElem_map, List.getElem_range, memRead_memWrite_inside m a bs (a + i) (by omega) (by omega) (by omega)]
  simp [List.getElem?_eq_getElem h2]

/-- A write leaves the bytes outside it alone. -/
theorem memBytes_memWrite_apart (m : List Host.Cell) (a : Nat) (bs : List Byte) (x n : Nat)
    (h : x + n ≤ a ∨ a + bs.length ≤ x) : memBytes (memWrite m a bs) x n = memBytes m x n := by
  rw [memBytes_eq_map, memBytes_eq_map]
  refine List.map_congr_left fun i hi => ?_
  rw [List.mem_range] at hi
  exact memRead_memWrite_outside m a bs (x + i) (by omega)

/-- A valid record that has been written into a slot is what a reader finds there. -/
theorem readSlot_memWrite_self (m : List Host.Cell) (k : SlotKind) (i : Nat) (bs : List Byte) (hl : bs.length = k.size)
    (ha : k.address i + k.size ≤ memSize) (hv : slotValid k bs = true) :
    readSlot (memWrite m (k.address i) bs) k i = some bs := by
  have hb : memBytes (memWrite m (k.address i) bs) (k.address i) k.size = bs := by
    rw [← hl]; exact memBytes_memWrite_self m _ bs (by omega)
  have hp : 0 < bs.length := by rw [hl]; cases k <;> decide
  have h0 : memRead (memWrite m (k.address i) bs) (k.address i) = 0xC3 := by
    rw [memRead_memWrite_inside m _ bs _ (le_refl _) (by omega) (by omega), Nat.sub_self]
    match bs, hp with
    | b :: cs, _ =>
      have hf : field (b :: cs) 0 2 = writtenMarker := by
        unfold slotValid at hv; simp only [Bool.and_eq_true, beq_iff_eq] at hv; exact hv.1.1
      have hm : b.toNat + 256 * readLe (cs.take 1) = 0x5AC3 := hf
      have := b.isLt
      show b = 0xC3
      apply BitVec.eq_of_toNat_eq
      show b.toNat = 0xC3
      omega
  unfold readSlot
  rw [if_pos h0, hb]
  simp [hv]

/-- A write leaves the slots outside it alone. -/
theorem readSlot_memWrite_apart (m : List Host.Cell) (a : Nat) (bs : List Byte) (k : SlotKind) (i : Nat)
    (h : k.address i + k.size ≤ a ∨ a + bs.length ≤ k.address i) :
    readSlot (memWrite m a bs) k i = readSlot m k i := by
  have hp : 0 < k.size := by cases k <;> decide
  unfold readSlot
  rw [memRead_memWrite_outside m a bs _ (by omega), memBytes_memWrite_apart m a bs _ _ h]

end Sys2Proof.Machine
end

