-- ==== Sys2Proof/Laws/Shared.lean ====
section
/-! SUPPORT. What each operation that the commands share can do, said once. -/

namespace Sys2Proof.Machine

/-- A command that is State.run of `f` ends as the part that `f` makes, closed. -/
theorem endsAs_run (c : Instr) (s : State) (f : Part → Part) (q : Part) (hc : exec c s = s.run f)
    (hq : f s.toPart = q) (h : q.settingsSettled) : endsAs c s q := by
  subst hq; exact run_endsAs c s f hc h

theorem adopted_modEnd (p : Part) (l : LaneId) (e : LaneEnd) (f : EndState → EndState) (m : LaneId) :
    (p.modEnd l e f).adopted m = p.adopted m := by cases l <;> cases m <;> cases e <;> rfl

theorem settled_modEnd {p : Part} (h : p.settingsSettled) (l : LaneId) (e : LaneEnd) (f : EndState → EndState) :
    (p.modEnd l e f).settingsSettled := by
  refine settled_of h rfl ?_ ?_ <;> cases l <;> cases e <;> rfl

theorem modEnd_modEnd (p : Part) (l : LaneId) (e : LaneEnd) (f g : EndState → EndState) :
    (p.modEnd l e f).modEnd l e g = p.modEnd l e (fun x => g (f x)) := by cases l <;> cases e <;> rfl

theorem settings_settled {p : Part} (h : p.settingsSettled) (l : LaneId) : ((p.adopted l).lanes.get l).settled := by
  cases l; exact h.1; exact h.2.1

theorem settings_modEnd (p : Part) (l : LaneId) (e : LaneEnd) (f : EndState → EndState) (m : LaneId) :
    (p.modEnd l e f).settings m = p.settings m := by unfold Part.settings; rw [adopted_modEnd]

theorem modDeck_modDeck (p : Part) (d : DeckId) (f g : Deck → Deck) :
    (p.modDeck d f).modDeck d g = p.modDeck d (fun x => g (f x)) := by
  simp [Part.modDeck, Part.setDeck, Part.deck, Vector.set_set]

theorem modLane_modLane (p : Part) (l : LaneId) (f g : Lane → Lane) :
    (p.modLane l f).modLane l g = p.modLane l (fun x => g (f x)) := by cases l <;> rfl

theorem modEnd_congr (p : Part) (l : LaneId) (e : LaneEnd) (f g : EndState → EndState) (h : f (p.laneEnd l e) = g (p.laneEnd l e)) :
    p.modEnd l e f = p.modEnd l e g := by unfold Part.modEnd; rw [h]

theorem modDeck_congr (p : Part) (d : DeckId) (f g : Deck → Deck) (h : f (p.deck d) = g (p.deck d)) :
    p.modDeck d f = p.modDeck d g := by unfold Part.modDeck; rw [h]

theorem visit_modEnd (p : Part) (l : LaneId) (e : LaneEnd) (f : EndState → EndState) (m : LaneId) :
    (p.modEnd l e f).visit m = p.visit m := by cases l <;> cases m <;> cases e <;> rfl

theorem settled_elapse {p : Part} (h : p.settingsSettled) (n) : (p.elapse n).settingsSettled := settled_of h rfl rfl rfl

/-- A cause that joins the empty cause set of a lane without a visit brings FAULT (R36). -/
theorem laneRaise_noVisit (p : Part) (l : LaneId) (c : LaneCause) (hc : (p.lane l).causes = .empty) (hv : p.visit l = none)
   (hs : (p.lane l).state = .closed ∨ (p.lane l).state = .opened) :
   p.laneRaise l c = (p.modLane l fun x => { x with state := .fault, causes := LaneCauses.empty.put true c }).notify (.laneState l .fault (LaneCauses.empty.put true c)) := by
  unfold Part.laneRaise
  have e1 : (p.lane l).causes.has c = false := by rw [hc]; cases c <;> rfl
  rw [if_neg (by simp [e1])]
  dsimp only
  rw [if_neg (by simp [hc])]
  have hk : ((p.modLane l fun x => { x with causes := x.causes.put true c }).enterLaneState l .fault) =
      (p.modLane l fun x => { x with state := .fault, causes := LaneCauses.empty.put true c }).notify (.laneState l .fault (LaneCauses.empty.put true c)) := by
    unfold Part.enterLaneState
    rw [if_neg]
    · simp only [lane_modLane_self, modLane_modLane, hc]
      congr 1
      show p.setLane l { p.lane l with state := .fault, causes := (p.lane l).causes.put true c } = _
      unfold Part.modLane; beta_reduce; rw [hc]
    · simp only [lane_modLane_self]; rcases hs with h | h <;> simp [h]
  rcases hs with h | h
  · rw [h]; exact hk
  · rw [h]; dsimp only; rw [hk]
    unfold Part.visitFault Part.abortVisit Part.visitState
    have : ((p.modLane l fun x => { x with state := .fault, causes := LaneCauses.empty.put true c }).notify (.laneState l .fault (LaneCauses.empty.put true c))).visit l = none := by
      simp only [visit_notify]; unfold Part.visit; rw [lane_modLane_self]; exact hv
    rw [this]; simp

theorem lane_modEnd_stateAndCauses (p : Part) (l : LaneId) (e : LaneEnd) (f : EndState → EndState) :
   ((p.modEnd l e f).lane l).causes = (p.lane l).causes ∧ ((p.modEnd l e f).lane l).state = (p.lane l).state := by
  cases l <;> cases e <;> exact ⟨rfl, rfl⟩

theorem settled_modLane {p : Part} (h : p.settingsSettled) (l : LaneId) (f : Lane → Lane) (hf : ∀ x, (f x).adoptedActive = x.adoptedActive) :
    (p.modLane l f).settingsSettled := by
  refine settled_of h rfl ?_ ?_ <;> cases l <;> first | rfl | exact hf _

/-- The same of a change that is said of the lane as it stands. -/
theorem settled_modLane_at {p : Part} (h : p.settingsSettled) (l : LaneId) (f : Lane → Lane)
    (hf : (f (p.lane l)).adoptedActive = (p.lane l).adoptedActive) : (p.modLane l f).settingsSettled := by
  refine settled_of h rfl ?_ ?_ <;> cases l <;> first | rfl | exact hf

theorem settled_notify {p : Part} (h : p.settingsSettled) (b) : (p.notify b).settingsSettled := settled_of h rfl rfl rfl

/-- A window restart of a deck that has no step in flight. -/
theorem windowRestart_idle (p : Part) (d : DeckId) (h : p.inFlightOn d = none) : p.windowRestart d = p.modDeck d Deck.restart := by
  unfold Part.windowRestart
  have : (p.modDeck d Deck.restart).inFlightOn d = none := h
  simp [this]

/-- A lane without a visit does not react to its decks. -/
theorem laneReact_noVisit (p : Part) (d : DeckId) (g b) (h : p.visit (laneOf d) = none) : p.laneReact d g b = p := by
  simp [Part.laneReact, Part.visitState, h]

/-- Everything that handing a record to the trail can change: the trail, and TRAIL_FULL in the block sets. -/
theorem handTrail_facts (p : Part) (o : Option DeckId) (b : TrailBody) :
  (p.handTrail o b) = { p with lanes := (p.handTrail o b).lanes, audit := { p.audit with trail := p.handed o b } } ∧
   ∀ l, sameButTrailFull (p.lane l) ((p.handTrail o b).lane l) := by
  unfold Part.handTrail Part.handed
  dsimp only
  split
  · refine ⟨rfl, fun l => by cases l <;> rfl⟩
  · refine ⟨rfl, fun l => by cases l <;> rfl⟩

theorem sameButTrailFull_refl (x : Lane) : sameButTrailFull x x := rfl

theorem sameButTrailFull_trans {x y z : Lane} (h : sameButTrailFull x y) (k : sameButTrailFull y z) : sameButTrailFull x z := by
  unfold sameButTrailFull at *; rw [h] at k; exact k

theorem inFlightOn_handTrail (p : Part) (o : Option DeckId) (b : TrailBody) (d) : (p.handTrail o b).inFlightOn d = p.inFlightOn d := by
  have h := (handTrail_facts p o b).1
  rw [h]; rfl

theorem inFlightOn_modDeck (p : Part) (e f) (d) : (p.modDeck e f).inFlightOn d = p.inFlightOn d := rfl

/-- Part.serviceHead on a deck that has no step in flight. -/
theorem serviceHead_facts (p : Part) (d : DeckId) (n : ServiceState) (h : p.inFlightOn d = none) :
    let q := p.serviceHead d n
    let x := ({ p.deck d with service := n } : Deck).restart
    q.deck d = (if n = .trade then x.zeroFromCal else x) ∧ (∀ e, e ≠ d → q.deck e = p.deck e) ∧
    (∀ l, sameButTrailFull (p.lane l) (q.lane l)) ∧
    q = { p with decks := q.decks, lanes := q.lanes, audit := { p.audit with trail := p.handed (some d) (.service (p.deck d).service n (p.deck d).causes) } } := by
  unfold Part.serviceHead
  dsimp only
  set p1 := p.modDeck d fun x => { x with service := n } with hp1
  have hc : (p1.deck d).causes = (p.deck d).causes := by simp [hp1]
  rw [hc]
  set p2 := p1.handTrail (some d) (.service (p.deck d).service n (p.deck d).causes) with hp2
  have hf := handTrail_facts p1 (some d) (.service (p.deck d).service n (p.deck d).causes)
  rw [← hp2] at hf
  have hw : p2.windowRestart d = p2.modDeck d Deck.restart := windowRestart_idle _ _ (by rw [hp2, inFlightOn_handTrail]; exact h)
  rw [hw]
  have hd2 : p2.decks = p1.decks := by rw [hf.1]
  obtain ⟨L, hL⟩ : ∃ L, p2 = { p1 with lanes := L, audit := { p1.audit with trail := p1.handed (some d) (.service (p.deck d).service n (p.deck d).causes) } } := ⟨_, hf.1⟩
  have hdk : ∀ e, p2.deck e = p1.deck e := fun e => by unfold Part.deck; simp only [hd2]
  split
  · refine ⟨?_, ?_, ?_, ?_⟩
    · simp [hdk, hp1]
    · intro e he; simp [deck_modDeck, he, hdk, hp1]
    · intro l; exact hf.2 l
    · rw [hL]; rfl
  · refine ⟨?_, ?_, ?_, ?_⟩
    · simp [hdk, hp1]
    · intro e he; simp [deck_modDeck, he, hdk, hp1]
    · intro l; exact hf.2 l
    · rw [hL]; rfl

/-- A mark that is set joins the queue and changes nothing else of it. -/
theorem mem_insertMark (m : List DeckId) (d : DeckId) (ops : List TableOp) (o : TableOp) :
    o ∈ insertMark m d ops ↔ o = .image d ∨ o ∈ ops := by
  induction ops with
  | nil => simp [insertMark]
  | cons x xs ih =>
    cases x with
    | image e =>
      unfold insertMark
      split
      · simp
      · simp only [List.mem_cons, ih]; tauto
    | _ => simp only [insertMark, List.mem_cons, ih]; tauto

/-- The first mark of a step stands at the end of the queue. -/
theorem insertMark_first (d : DeckId) (ops : List TableOp) : insertMark [] d ops = ops ++ [.image d] := by
  induction ops with
  | nil => rfl
  | cons x xs ih => cases x <;> simp [insertMark, ih]

/-- The marks of a queue that are among those the step has set. -/
def marksOf (marking : List DeckId) (ops : List TableOp) : List DeckId :=
  ops.filterMap fun o =>
    match o with
    | .image e => if e ∈ marking then some e else none
    | _ => none

/-- The marks that a step sets stand in deck order, lowest first (R146). -/
theorem insertMark_sorted (m : List DeckId) (d : DeckId) (ops : List TableOp) (hd : TableOp.image d ∉ ops)
    (h : (marksOf m ops).Pairwise (· < ·)) : (marksOf (d :: m) (insertMark m d ops)).Pairwise (· < ·) := by
  have same : ∀ xs : List TableOp, TableOp.image d ∉ xs → marksOf (d :: m) xs = marksOf m xs := by
    intro xs hx
    unfold marksOf
    refine List.filterMap_congr fun o ho => ?_
    cases o with
    | image e =>
      have : e ≠ d := fun he => hx (he ▸ ho)
      simp [this]
    | _ => rfl
  have mem : ∀ (xs : List TableOp) (e : DeckId), e ∈ marksOf (d :: m) (insertMark m d xs) → e = d ∨ e ∈ marksOf (d :: m) xs := by
    intro xs e he
    unfold marksOf at *
    rw [List.mem_filterMap] at *
    obtain ⟨o, ho, hoe⟩ := he
    rcases (mem_insertMark m d xs o).mp ho with rfl | ho
    · left; simpa using hoe.symm
    · exact .inr ⟨o, ho, hoe⟩
  induction ops with
  | nil => simp [insertMark, marksOf]
  | cons x xs ih =>
    have hx : TableOp.image d ∉ xs := fun hc => hd (List.mem_cons_of_mem _ hc)
    have hne : x ≠ .image d := fun hc => hd (hc ▸ List.mem_cons_self ..)
    cases x with
    | image e =>
      have hed : e ≠ d := fun hc => hne (hc ▸ rfl)
      by_cases hm : e ∈ m
      · have h1 : marksOf m (.image e :: xs) = e :: marksOf m xs := by simp [marksOf, hm]
        rw [h1, List.pairwise_cons] at h
        unfold insertMark
        by_cases hlt : d < e
        · rw [if_pos ⟨hlt, hm⟩]
          have h2 : marksOf (d :: m) (.image d :: .image e :: xs) = d :: e :: marksOf (d :: m) xs := by simp [marksOf, hm]
          rw [h2, same xs hx, List.pairwise_cons]
          refine ⟨fun a ha => ?_, List.pairwise_cons.mpr h⟩
          rcases List.mem_cons.mp ha with rfl | ha
          · exact hlt
          · exact lt_trans hlt (h.1 a ha)
        · rw [if_neg (fun hc => hlt hc.1)]
          have h2 : marksOf (d :: m) (.image e :: insertMark m d xs) = e :: marksOf (d :: m) (insertMark m d xs) := by
            simp [marksOf, hm]
          rw [h2, List.pairwise_cons]
          refine ⟨fun a ha => ?_, ih hx h.2⟩
          rcases mem xs a ha with rfl | ha
          · exact lt_of_le_of_ne (not_lt.mp hlt) hed
          · rw [same xs hx] at ha; exact h.1 a ha
      · have h1 : marksOf m (.image e :: xs) = marksOf m xs := by simp [marksOf, hm]
        rw [h1] at h
        unfold insertMark
        rw [if_neg (fun hc => hm hc.2)]
        have h2 : marksOf (d :: m) (.image e :: insertMark m d xs) = marksOf (d :: m) (insertMark m d xs) := by
          simp [marksOf, hm, hed]
        rw [h2]; exact ih hx h
    | _ => exact ih hx h

/-- Everything that setting a deck's image write mark can do (R146): the queue of the table image writer has the mark, at
its end where the step has set no mark before. -/
theorem markImage_facts (p : Part) (d : DeckId) :
    let q := p.markImage d
    q = { p with store := { p.store with tableQueue := q.store.tableQueue, marking := q.store.marking } } ∧
      ((p.deck d).cal.isSome = true → TableOp.image d ∈ q.store.tableQueue) ∧
      (p.store.marking = [] → (p.deck d).cal.isSome = true → TableOp.image d ∉ p.store.tableQueue →
        q.store = { p.store with tableQueue := p.store.tableQueue ++ [.image d], marking := [d] }) := by
  dsimp only
  unfold Part.markImage
  split
  · rename_i h
    refine ⟨rfl, fun hc => ?_, fun _ hc hn => ?_⟩
    · rcases h with h | h
      · cases hx : (p.deck d).cal <;> simp_all
      · exact h
    · rcases h with h | h
      · cases hx : (p.deck d).cal <;> simp_all
      · exact absurd h hn
  · refine ⟨rfl, fun _ => (mem_insertMark _ _ _ _).mpr (.inl rfl), fun hs _ _ => ?_⟩
    unfold Part.modStore
    dsimp only
    rw [hs, insertMark_first]

/-- Everything that judging the persisted state can change. -/
theorem judgePersisted_facts (p : Part) (d : DeckId) :
   let q := p.judgePersisted d
   q = { p with decks := q.decks, store := q.store } ∧ (∀ e, e ≠ d → q.deck e = p.deck e) ∧
   q.deck d = { p.deck d with persisted := (p.deck d).persistedValue } := by
  unfold Part.judgePersisted
  dsimp only
  split
  · rename_i h; rw [h]; exact ⟨rfl, fun _ _ => rfl, rfl⟩
  · have hm : ∀ q : Part, (q.markImage d) = { q with store := (q.markImage d).store } := by
      intro q; rw [(markImage_facts q d).1]
    refine ⟨?_, ?_, ?_⟩
    · conv_lhs => rw [hm]
      rw [show ((p.modDeck d fun x => { x with persisted := (p.deck d).persistedValue }).markImage d).decks = (p.modDeck d fun x => { x with persisted := (p.deck d).persistedValue }).decks by rw [hm]]
      rfl
    · intro e he
      show ((p.modDeck d fun x => { x with persisted := (p.deck d).persistedValue }).markImage d).deck e = _
      unfold Part.deck
      rw [hm]
      have := deck_modDeck p d e (fun x => { x with persisted := (p.deck d).persistedValue })
      rw [if_neg he] at this; exact this
    · unfold Part.deck
      rw [hm]
      have := deck_modDeck_self p d (fun x => { x with persisted := (p.deck d).persistedValue })
      exact this

/-- Everything that steps 4 and 5 of R144 can change. -/
theorem serviceTail_facts (p : Part) (d : DeckId) (o n : ServiceState) :
   let q := p.serviceTail d o n
   q = { p with decks := q.decks, store := q.store, link := q.link } ∧ (∀ e, e ≠ d → q.deck e = p.deck e) ∧
   q.deck d = { p.deck d with persisted := (p.deck d).persistedValue } := by
  unfold Part.serviceTail
  have h := judgePersisted_facts p d
  dsimp only at *
  refine ⟨?_, fun e he => ?_, ?_⟩
  · rw [h.1]; rfl
  · rw [deck_notify]; exact h.2.1 e he
  · rw [deck_notify]; exact h.2.2

/-- What handing over a notice leaves of the link depends on the link and the clock alone. -/
theorem link_notify {p q : Part} (h : q.link = p.link) (k : q.clock = p.clock) (b) : (q.notify b).link = (p.notify b).link := by
  unfold Part.notify Part.modLink Part.siteTime; simp only [h, k]

/-- Everything that raising a cause on a deck in TRADE of an idle lane brings (R142-R144, R36). -/
theorem raiseCause_trade (p : Part) (d : DeckId) (c : DeckCause) (h : p.tradesIdle d) (hc : (p.deck d).causes.has c = false) :
    let causes := (p.deck d).causes.add c
    let q := p.raiseCause d c
    p.faultsDeck q d (p.deck d) causes ∧
    q.link = p.told [.laneState (laneOf d) .fault { LaneCauses.empty with deckFault := true }, .deckService d .trade .fault causes] ∧
    q.visit (laneOf d) = none ∧ (∀ l, (q.lane l).adoptedActive = (p.lane l).adoptedActive) ∧ q.monitor = p.monitor := by
  obtain ⟨ht, hi, hv, hlc, hls⟩ := h
  dsimp only
  unfold Part.raiseCause
  rw [if_neg (by simp [hc])]
  dsimp only
  rw [if_pos ht]
  set p0 := p.modDeck d fun x => { x with causes := x.causes.add c } with hp0
  have hold : (p0.deck d).service = .trade := by rw [hp0]; simpa using ht
  unfold Part.changeService
  dsimp only
  rw [hold, if_neg (by decide)]
  have hf := serviceHead_facts p0 d .fault hi
  dsimp only at hf
  simp only [if_false, reduceCtorEq] at hf
  generalize hh : p0.serviceHead d .fault = ph at hf ⊢
  obtain ⟨h1, h2, h3, h4⟩ := hf
  have hl : ∀ l, sameButTrailFull (p.lane l) (ph.lane l) := h3
  have hlp := hl (laneOf d)
  have hcau : (ph.lane (laneOf d)).causes = .empty := by rw [hlp]; exact hlc
  have hvis : ph.visit (laneOf d) = none := by unfold Part.visit; rw [hlp]; exact hv
  have hsta : (ph.lane (laneOf d)).state = .closed ∨ (ph.lane (laneOf d)).state = .opened := by rw [hlp]; exact hls
  rw [if_pos rfl, laneRaise_noVisit ph (laneOf d) .deckFault hcau hvis hsta]
  generalize hpl : ((ph.modLane (laneOf d) fun x => { x with state := .fault, causes := LaneCauses.empty.put true .deckFault }).notify (.laneState (laneOf d) .fault (LaneCauses.empty.put true .deckFault))) = pl
  have ht2 := serviceTail_facts pl d .trade .fault
  dsimp only at ht2
  generalize hq : pl.serviceTail d .trade .fault = q at ht2 ⊢
  obtain ⟨t1, t2, t3⟩ := ht2
  have hpd : ∀ e, pl.deck e = ph.deck e := by intro e; rw [← hpl]; rfl
  have hqlane : ∀ l, q.lane l = pl.lane l := by intro l; rw [t1]; rfl
  have hpdl : (pl.deck d) = ({ p.deck d with causes := (p.deck d).causes.add c, service := .fault } : Deck).restart := by
    rw [hpd, h1, hp0]; simp
  have hlink0 : ph.link = p.link := by rw [h4]; rfl
  have hclock0 : ph.clock = p.clock := by rw [h4]; rfl
  have hplother : pl.lane (laneOf d).other = ph.lane (laneOf d).other := by rw [← hpl]; simp
  have hplself : pl.lane (laneOf d) = { ph.lane (laneOf d) with state := .fault, causes := { LaneCauses.empty with deckFault := true } } := by
    rw [← hpl]; simp; rfl
  unfold Part.faultsDeck
  dsimp only
  and_intros
  · rw [t3, hpdl]
  · intro e he; rw [t2 e he, hpd, h2 e he, hp0]; simp [deck_modDeck, he]
  · rw [hqlane, hplself]
  · rw [hqlane, hplself]
  · rw [hqlane, hplother]; exact hl _
  · rw [t1]; show pl.audit = _
    rw [← hpl]; show ph.audit = _
    rw [h4]
    simp only [hp0, deck_modDeck_self, ht]
    rfl
  · rw [t1, ← hpl]; show ph.clock = _; exact hclock0
  · rw [t1, ← hpl]; show ph.pairing = _; rw [h4]; rfl
  · rw [t1, ← hpl]; show ph.tickets = _; rw [h4]; rfl
  · rw [t1, ← hpl]; show ph.tables = _; rw [h4]; rfl
  · rw [← hq]
    unfold Part.serviceTail
    dsimp only
    have hj := judgePersisted_facts pl d
    dsimp only at hj
    have hjl : (pl.judgePersisted d).link = pl.link := by rw [hj.1]
    have hjc : (pl.judgePersisted d).clock = pl.clock := by rw [hj.1]
    have hjd : ((pl.judgePersisted d).deck d).causes = (p.deck d).causes.add c := by rw [hj.2.2, hpdl]; rfl
    rw [hjd]
    unfold Part.told
    simp only [List.foldl_cons, List.foldl_nil]
    refine link_notify ?_ ?_ _
    · rw [hjl, ← hpl]; exact link_notify hlink0 hclock0 _
    · rw [hjc, ← hpl]; exact hclock0
  · unfold Part.visit; rw [hqlane, hplself]; exact hvis
  · intro l
    rw [hqlane]
    by_cases h : l = laneOf d
    · rw [h, hplself]; show (ph.lane (laneOf d)).adoptedActive = _; rw [hlp]
    · have : l = (laneOf d).other := by revert h; cases l <;> cases laneOf d <;> simp [LaneId.other]
      rw [this, hplother, hl (laneOf d).other]
  · rw [t1, ← hpl]; show ph.monitor = _; rw [h4]; rfl

/-! ## The port and the hold -/

/-- A part that is as before but for what nothing of the settings in use hangs on: the lanes, and the active and previous
settings images, stand as they stood. -/
def Part.sameInUse (p q : Part) : Prop :=
  q.lanes = p.lanes ∧ q.tables.settingsActive = p.tables.settingsActive ∧
    q.tables.settingsPrevious = p.tables.settingsPrevious

theorem settled_sameInUse {p q : Part} (h : p.settingsSettled) (k : p.sameInUse q) : q.settingsSettled := by
  obtain ⟨k1, k2, k3⟩ := k
  unfold Part.settingsSettled Part.adopted Part.siteImage Part.lane at *
  rw [k1, k2, k3]
  exact h

theorem sameInUse_noteParity {α : Type} {p q : Part} (k : p.sameInUse q) (z : Slot α) (w : ParityAt) :
    p.sameInUse (q.noteParity z w) := by
  unfold Part.noteParity
  split
  · exact k
  · exact k

/-- A read of a staged entry touches no settings in use. -/
theorem sameInUse_readStagedClass {p q : Part} (k : p.sameInUse q) (i : Nat) : p.sameInUse (q.readStagedClass i) := by
  unfold Part.readStagedClass
  split
  · exact k
  · refine sameInUse_noteParity ?_ _ _
    exact k

theorem sameInUse_readStagedLane {p q : Part} (k : p.sameInUse q) (l : LaneId) : p.sameInUse (q.readStagedLane l) := by
  unfold Part.readStagedLane
  refine sameInUse_noteParity ?_ _ _
  exact k

theorem sameInUse_readStagedSite {p q : Part} (k : p.sameInUse q) : p.sameInUse q.readStagedSite := by
  unfold Part.readStagedSite
  refine sameInUse_noteParity ?_ _ _
  exact k

/-- The reads that the record of a commit brings touch no settings in use. -/
theorem sameInUse_readForRecord (p : Part) (o : TableOp) : p.sameInUse (p.readForRecord o) := by
  have k : p.sameInUse p := ⟨rfl, rfl, rfl⟩
  cases o with
  | classRecord i => exact sameInUse_readStagedClass k i
  | settingsImage => exact sameInUse_readStagedSite (sameInUse_readStagedLane (sameInUse_readStagedLane k .l0) .l1)
  | registerRecord => exact k
  | image d => exact k
  | calWrite d => exact k

/-- A grant changes neither the lanes nor the settings in use. -/
theorem sameInUse_grant (p : Part) : p.sameInUse p.grant := by
  unfold Part.grant
  split
  · split
    · exact ⟨rfl, rfl, rfl⟩
    · unfold Part.grantClaim
      split
      case h_6 => exact sameInUse_readForRecord p _
      all_goals try exact ⟨rfl, rfl, rfl⟩
      all_goals
        unfold Part.grantFetch
        dsimp only
        split <;> exact ⟨rfl, rfl, rfl⟩
  · exact ⟨rfl, rfl, rfl⟩

theorem settled_grant {p : Part} (h : p.settingsSettled) : p.grant.settingsSettled :=
  settled_sameInUse h (sameInUse_grant p)

/-- The reads not begun are refused, in their order (R174). -/
theorem refuse_reads (rs : List PendingRead) (p : Part) :
    rs.foldl (fun q r => q.refuse r.corr .holdRead .noHold) p = { p with link := { p.link with
      responses := p.link.responses ++ rs.map fun r => ⟨r.corr, 31, .refused .noHold, false, false⟩ } } := by
  induction rs generalizing p with
  | nil => simp
  | cons r rs ih =>
    rw [List.foldl_cons, ih]
    simp [Part.refuse, Part.respond, Part.modLink]
    rfl

/-- The releases that waited are answered DONE, in their order (R174). -/
theorem done_releases (cs : List U16) (p : Part) :
    cs.foldl (fun q c => q.done c .storeRelease) p = { p with link := { p.link with
      responses := p.link.responses ++ cs.map fun c => ⟨c, 30, .done .none, false, false⟩ } } := by
  induction cs generalizing p with
  | nil => simp
  | cons c cs ih =>
    rw [List.foldl_cons, ih]
    simp [Part.done, Part.respond, Part.modLink]
    rfl

/-! ## Resets -/

/-- Outside the running phase a barrier that is at STOP with no timer and no failure stays so. -/
theorem driveEnd_stopped (p : Part) (l : LaneId) (e : LaneEnd) (hp : p.phase ≠ .running)
    (h : (p.laneEnd l e).barrier.driven = .stop) (ht : (p.laneEnd l e).barrier.timer = .stopped) : p.driveEnd l e = p := by
  have hw : p.wanted l e = .stop := by
    unfold Part.wanted Lane.outputs; rw [if_pos hp]
  have hd : (p.laneEnd l e).barrier.drive .stop (p.laneEnd l e).beamLevel (p.moveLimit l) = (p.laneEnd l e).barrier := by
    have hf : (p.laneEnd l e).barrier.follow .stop (p.laneEnd l e).beamLevel = .stop := rfl
    unfold Barrier.drive
    simp only [hf, h, if_true, ht]
    rw [← h, ← ht]
  unfold Part.driveEnd
  dsimp only
  rw [hw]
  unfold Part.modEnd
  beta_reduce
  rw [hd]
  obtain ⟨⟩ := p
  cases l <;> cases e <;> rfl

/-- The same of a lane that does not admit and has no BARRIER cause: its outputs change nothing. -/
theorem driveLane_stopped (p : Part) (l : LaneId) (hp : p.phase ≠ .running) (hs : (p.lane l).admits = false)
    (hc : (p.lane l).causes.barrier = false) (h : ∀ e, (p.laneEnd l e).barrier.driven = .stop)
    (ht : ∀ e, (p.laneEnd l e).barrier.timer = .stopped) : p.driveLane l = p := by
  have hw : ∀ e, p.wanted l e = .stop := fun e => by
    unfold Part.wanted Lane.outputs; rw [if_pos hp]
  have hst : ∀ e, (p.laneEnd l e).barrier.starts .stop (p.laneEnd l e).beamLevel = false := fun e => by
    unfold Barrier.starts
    have hf : (p.laneEnd l e).barrier.follow .stop (p.laneEnd l e).beamLevel = .stop := rfl
    simp [hf]
  have hd : p.drivesBySettings l = false := by
    unfold Part.drivesBySettings
    dsimp only
    rw [hw, hw, hst, hst, hs]; rfl
  have hl : p.laneClear l .barrier = p := by
    unfold Part.laneClear
    rw [if_neg]
    intro hb
    exact Bool.false_ne_true (hc.symm.trans hb)
  unfold Part.driveLane
  simp only [hd, Bool.false_eq_true, if_false, driveEnd_stopped p l _ hp (h _) (ht _), hl, ite_self]

/-- What the start of a reset leaves is closed already: the end of the step changes nothing. -/
theorem clear_finish (p : Part) (phase : Phase) (cause : ResetCause) (clock : Clock) (hp : phase ≠ .running) :
    (p.clear phase cause clock).finish = p.clear phase cause clock := by
  have k : ∀ l, (p.clear phase cause clock).driveLane l = p.clear phase cause clock := by
    intro l
    refine driveLane_stopped _ l hp ?_ ?_ ?_ ?_
    · cases l <;> rfl
    · cases l <;> rfl
    · intro e; cases l <;> cases e <;> rfl
    · intro e; cases l <;> cases e <;> rfl
  unfold Part.finish
  rw [k, k]
  unfold Part.kick
  split
  · rfl
  · rfl

/-- A slot that was cut off is not longer than the write. -/
theorem tornBytes_length_le (k : SlotKind) (fresh n : Nat) : (tornBytes k fresh n).length ≤ n := by
  unfold tornBytes
  dsimp only
  split
  · rename_i h
    cases n with
    | zero =>
      simp only [slotBytes, slotValid, Bool.and_eq_true, beq_iff_eq, List.range_zero, List.map_nil] at h
      exact absurd h.1.1 (by decide)
    | succ n => simp [slotBytes]
  · simp [slotBytes]

/-- A reset changes no byte of the record memory but those of a write that it cuts off. -/
theorem cutMemory_read (s : State) (a : Nat) (h : ¬ s.cutWrite a) : memRead s.cutMemory a = memRead s.mem a := by
  unfold State.cutMemory
  split
  · rfl
  · rename_i o ho
    split
    · rfl
    · rename_i hn
      split
      · rfl
      · apply memRead_memWrite_outside
        by_contra hc
        have := tornBytes_length_le (s.place o.kind).2.1 s.fresh o.bytes.length
        refine h ⟨o, ho, fun hk => hn (by rw [hk]; rfl), by omega, by omega⟩

end Sys2Proof.Machine
end

