-- ==== Sys2Proof/Laws/Requests.lean ====
section
/-! SUPPORT. What a request that is taken leaves as it is, and what the operations on slots, tickets and lane states that
the requests share can do. -/

namespace Sys2Proof.Machine

/-! ## A request that is taken has its outstanding entry, and changes nothing else by that -/

@[simp] theorem admitted_lane (p : Part) (c r t l) : (p.admitted c r t).lane l = p.lane l := rfl
@[simp] theorem admitted_deck (p : Part) (c r t d) : (p.admitted c r t).deck d = p.deck d := rfl
@[simp] theorem admitted_visit (p : Part) (c r t l) : (p.admitted c r t).visit l = p.visit l := rfl
@[simp] theorem admitted_clock (p : Part) (c r t) : (p.admitted c r t).clock = p.clock := rfl
@[simp] theorem admitted_pairing (p : Part) (c r t) : (p.admitted c r t).pairing = p.pairing := rfl
@[simp] theorem admitted_tickets (p : Part) (c r t) : (p.admitted c r t).tickets = p.tickets := rfl
@[simp] theorem admitted_tables (p : Part) (c r t) : (p.admitted c r t).tables = p.tables := rfl
@[simp] theorem admitted_audit (p : Part) (c r t) : (p.admitted c r t).audit = p.audit := rfl
@[simp] theorem admitted_store (p : Part) (c r t) : (p.admitted c r t).store = p.store := rfl
@[simp] theorem admitted_phase (p : Part) (c r t) : (p.admitted c r t).phase = p.phase := rfl
@[simp] theorem admitted_slot (p : Part) (c r t i) : (p.admitted c r t).slot i = p.slot i := rfl
@[simp] theorem admitted_settings (p : Part) (c r t l) : (p.admitted c r t).settings l = p.settings l := rfl
@[simp] theorem admitted_site (p : Part) (c r t) : (p.admitted c r t).site = p.site := rfl
@[simp] theorem admitted_siteTime (p : Part) (c r t) : (p.admitted c r t).siteTime = p.siteTime := rfl
@[simp] theorem admitted_stagingFull (p : Part) (c r t) : (p.admitted c r t).stagingFull = p.stagingFull := rfl
@[simp] theorem admitted_visitState (p : Part) (c r t l) : (p.admitted c r t).visitState l = p.visitState l := rfl

theorem settled_admitted {p : Part} (h : p.settingsSettled) (c r t) : (p.admitted c r t).settingsSettled := settled_of h rfl rfl rfl
theorem settled_respond {p : Part} (h : p.settingsSettled) (c r o) : (p.respond c r o).settingsSettled := settled_of h rfl rfl rfl
theorem settled_done {p : Part} (h : p.settingsSettled) (c r d) : (p.done c r d).settingsSettled := settled_of h rfl rfl rfl
theorem settled_refuse {p : Part} (h : p.settingsSettled) (c r d) : (p.refuse c r d).settingsSettled := settled_of h rfl rfl rfl

/-- A lane number names its lane. -/
theorem laneTarget_of {b : Byte} {l : LaneId} (h : b.toNat = l.toNat) : laneTarget b = some l := by
  unfold laneTarget; rw [h]; cases l <;> rfl

/-- A change of a lane says what it makes of the lane as it stands. -/
theorem modLane_congr (p : Part) (l : LaneId) (f g : Lane → Lane) (h : f (p.lane l) = g (p.lane l)) :
    p.modLane l f = p.modLane l g := by unfold Part.modLane; rw [h]

/-- A change of lane state to another one (R41). -/
theorem enterLaneState_ne (p : Part) (l : LaneId) (st : LaneState) (h : (p.lane l).state ≠ st) :
    p.enterLaneState l st = (p.modLane l fun x => ({ x with
      state := st
      blocks := if st = .closed then { x.blocks with closeRequested := false } else x.blocks } : Lane)).notify
        (.laneState l st (p.lane l).causes) := by
  unfold Part.enterLaneState
  rw [if_neg h]
  simp

/-- LANE_CLOSE leaves the stop latch alone (R39). -/
theorem clearStop_none (p : Part) (l : LaneId) (h : (p.lane l).stopLatch = false ∨ (p.lane l).stopInput = true) : p.clearStop l = p := by
  unfold Part.clearStop; rw [if_neg]; rcases h with h | h <;> simp [h]

/-- Settled settings stay so while the tables and what each lane has adopted are left alone. -/
theorem settled_lane {p q : Part} (h : p.settingsSettled) (ht : q.tables = p.tables) (hl : ∀ l, (q.lane l).adoptedActive = (p.lane l).adoptedActive) : q.settingsSettled :=
  settled_of h ht (hl .l0) (hl .l1)

/-- What the slots hold after a slot is set. -/
theorem slot_setSlot (p : Part) (i : Nat) (e : Option PendingEntry) (h : i < 64) (j : Nat) :
    (p.setSlot i e).slot j = if j = i then e else p.slot j := by
  have : (p.setSlot i e).pairing.slots = p.pairing.slots.setIfInBounds i e := by
    unfold Part.setSlot Part.markDirty; split <;> rfl
  unfold Part.slot
  rw [this]
  by_cases hj : j = i
  · subst hj; rw [Vector.getElem?_setIfInBounds]; simp [h]
  · rw [Vector.getElem?_setIfInBounds]; simp [hj, Ne.symm hj]

/-- A slot that is set is dirty (R108). -/
theorem dirty_setSlot (p : Part) (i : Nat) (e : Option PendingEntry) : i ∈ (p.setSlot i e).pairing.dirty := by
  unfold Part.setSlot Part.markDirty
  split
  · assumption
  · simp [Part.modPairing]

/-- Setting a slot changes the pairing unit alone. -/
theorem setSlot_rest (p : Part) (i : Nat) (e : Option PendingEntry) : p.setSlot i e = { p with pairing := (p.setSlot i e).pairing } := by
  unfold Part.setSlot Part.markDirty; split <;> rfl

/-- Slots 0 to 63 exist. -/
theorem slot_lt {p : Part} {i : Nat} {e} (h : p.slot i = some e) : i < 64 := by
  unfold Part.slot at h
  by_contra hc
  have : p.pairing.slots[i]? = none := by simp; omega
  rw [this] at h; cases h

/-- The slot found for a vehicle holds its entry. -/
theorem find_slot {p : Part} {v i e} (h : p.pairing.find v = some (i, e)) : p.slot i = some e ∧ e.vehicle = v := by
  unfold Pairing.find at h
  rw [List.findSome?_eq_some_iff] at h
  obtain ⟨l1, x, l2, hl, hx, -⟩ := h
  have hm : x ∈ p.pairing.slots.toList.zipIdx := by rw [hl]; simp
  rw [List.mem_zipIdx_iff_getElem?] at hm
  cases h1 : x.1 with
  | none => rw [h1] at hx; cases hx
  | some y =>
    rw [h1] at hx
    simp only [Option.bind_some] at hx
    split at hx
    · rename_i hv
      cases hx
      refine ⟨?_, hv⟩
      unfold Part.slot
      have : p.pairing.slots[x.2]? = some x.1 := by simpa using hm
      rw [this, h1]; rfl
    · cases hx

/-- Everything that issuing a ticket can change: the staging queue, and STORE_BUSY in the block sets (R114, R115). -/
theorem issueTicket_facts (p : Part) (t : Ticket) (g) (h : p.tickets.staging.length < 8) :
   let q := p.issueTicket t g
   q = { p with lanes := q.lanes, tickets := q.tickets } ∧ q.tickets = { p.tickets with staging := p.tickets.staging ++ [⟨t, g⟩] } ∧
   ∀ l, q.lane l = { p.lane l with blocks := { (p.lane l).blocks with storeBusy := (p.lane l).blocks.storeBusy || decide (p.tickets.staging.length = 7) } } := by
  unfold Part.issueTicket
  dsimp only
  have e : (p.modTickets fun x => { x with staging := x.staging ++ [⟨t, g⟩] }).stagingFull = decide (p.tickets.staging.length = 7) := by
    unfold Part.stagingFull; simp [Part.modTickets]; omega
  rw [e]
  by_cases h7 : p.tickets.staging.length = 7
  · simp only [h7, decide_true, if_true, Bool.or_true]
    refine ⟨rfl, rfl, fun l => by cases l <;> rfl⟩
  · simp only [h7, decide_false, Bool.or_false]
    refine ⟨rfl, rfl, fun l => by cases l <;> rfl⟩
/-- A read of settings that are settled changes nothing. -/
theorem checkLane_id {p : Part} (h : p.settingsSettled) (l) : p.checkLane l = p := checkLane_settled p l (settings_settled h l)

/-! ## Aborted visits -/

/-- R101: what releasing a visit's pending entry does to the slots. -/
theorem releasePending_releases (p : Part) (v : Visit) : p.releases (p.releasePending v) v := by
  unfold Part.releases Part.releasePending
  cases hi : v.pendingIndex with
  | none => exact ⟨fun _ _ => rfl, fun i e h => by cases h⟩
  | some i =>
    cases hs : p.slot i with
    | none => exact ⟨fun _ _ => by simp only [hs], fun j e hj he => by cases hj; rw [hs] at he; cases he⟩
    | some e =>
      simp only [hs]
      cases hst : e.state with
      | opened g =>
        simp only
        refine ⟨fun _ _ => trivial, fun j e' hj he => ?_⟩
        cases hj; rw [hs] at he; cases he
        simp [hst]
      | reserved =>
        simp only
        refine ⟨fun j hj => ?_, fun j e' hj he => ?_⟩
        · rw [slot_setSlot p i none (slot_lt hs), if_neg (fun h => hj (by rw [h]))]
        · cases hj; rw [hs] at he; cases he
          simp [hst, slot_setSlot p i none (slot_lt hs), dirty_setSlot]
      | claimed g l =>
        simp only
        refine ⟨fun j hj => ?_, fun j e' hj he => ?_⟩
        · rw [slot_setSlot p i _ (slot_lt hs), if_neg (fun h => hj (by rw [h]))]
        · cases hj; rw [hs] at he; cases he
          simp [hst, slot_setSlot p i _ (slot_lt hs), dirty_setSlot]

/-- Releasing a visit's pending entry changes the pairing unit alone. -/
theorem releasePending_rest (p : Part) (v : Visit) : p.releasePending v = { p with pairing := (p.releasePending v).pairing } := by
  unfold Part.releasePending
  (repeat' split) <;> first | rfl | exact setSlot_rest p _ _

/-- The clear timer that a visit starts with in EXITING or CLEARING (R67). -/
theorem clearTimerAtEntry_eq (p : Part) (l : LaneId) : p.clearTimerAtEntry l = p.clearsFrom l := by
  unfold Part.clearTimerAtEntry Part.clearsFrom Part.beamsClear
  cases (p.laneEnd l .a).beamLevel <;> cases (p.laneEnd l .b).beamLevel <;> rfl

/-- Everything that aborting a visit on the decks can change: its lane enters CLEARING, its pending entry is released, and
VISIT_ABORTED is handed over (R69, R101). -/
theorem abortVisit_facts (p : Part) (l : LaneId) (v : Visit) (r : AbortReason) (hv : p.visit l = some v)
    (hst : v.state = .entering ∨ v.state = .settling ∨ v.state = .held) :
    let q := p.abortVisit l r
    q = { p with lanes := q.lanes, link := q.link, pairing := q.pairing } ∧
      q.lane l = (p.lane l).aborts v r (p.clearsFrom l) ∧ p.releases q v ∧
      q.link = p.told [.visitAborted l v.count v.vehicle v.kind r] ∧ q.lane l.other = p.lane l.other := by
  have e : p.abortVisit l r = (p.abortEffect l v r).enterClearing l := by
    unfold Part.abortVisit
    rw [hv]
    rcases hst with h | h | h <;> simp [h]
  dsimp only
  rw [e]
  unfold Part.enterClearing
  rw [clearTimerAtEntry_eq]
  have hr : p.abortEffect l v r = { (p.setVisit l { v with abort := some r }).notify
      (.visitAborted l v.count v.vehicle v.kind r) with pairing := (p.abortEffect l v r).pairing } := by
    unfold Part.abortEffect; exact releasePending_rest _ v
  have hl : (p.abortEffect l v r).lane l = { p.lane l with visit := some { v with abort := some r } } := by
    rw [hr]
    show (p.setVisit l _).lane l = _
    unfold Part.setVisit
    rw [lane_modLane_self]
  have ho : (p.abortEffect l v r).lane l.other = p.lane l.other := by
    rw [hr]
    show (p.setVisit l _).lane l.other = _
    unfold Part.setVisit
    rw [lane_modLane_other]
  have hc : (p.abortEffect l v r).clearsFrom l = p.clearsFrom l := by
    unfold Part.clearsFrom Part.laneEnd
    rw [hl, show (p.abortEffect l v r).clock = p.clock by rw [hr]; rfl]
  refine ⟨?_, ?_, ?_, ?_, ?_⟩
  · rw [hr]; rfl
  · rw [lane_modLane_self, hl, hc]; rfl
  · exact releasePending_releases ((p.setVisit l { v with abort := some r }).notify (.visitAborted l v.count v.vehicle v.kind r)) v
  · rw [hr]; rfl
  · rw [lane_modLane_other, ho]

end Sys2Proof.Machine
end

