-- ==== Sys2Proof/Laws/AuditSteps.lean ====
section
/-! SUPPORT. What the completion of an audit step can change (R152), and a window restart with a step in flight. -/

namespace Sys2Proof.Machine

theorem settled_handTrail {p : Part} (h : p.settingsSettled) (o : Option DeckId) (b : TrailBody) :
    (p.handTrail o b).settingsSettled :=
  settled_lane h (by rw [(handTrail_facts p o b).1]) fun l => by rw [(handTrail_facts p o b).2 l]

/-- The result that a reading gives a step (R152). -/
def resultOf (reading : Option Reading) : StepResult := (reading.map Reading.result).getD .noStable

/-- `q` is `p` after the step `n`, `st`, in flight in the session `x`, has completed with this reading. -/
structure Part.StepCompletes (p q : Part) (x : Session) (n : Nat) (st : AuditStepRec) (reading : Option Reading) : Prop where
  rest : q = { p with lanes := q.lanes, audit := q.audit, link := q.link }
  audit : q.audit = { p.audit with
    session := some { x with
      steps := x.steps.set (n - 1) { st with reading := reading, result := some (resultOf reading) }, inFlight := none }
    stepTimer := .stopped
    trail := p.handed (some x.deck) (.step n st.kind st.reference st.cell (resultOf reading) reading) }
  link : q.link = p.told [.stepDone x.deck n { st with reading := reading, result := some (resultOf reading) }]
  lanes : ∀ l, sameButTrailFull (p.lane l) (q.lane l)

theorem completeStep_facts (p : Part) (x : Session) (n : Nat) (st : AuditStepRec) (reading : Option Reading)
    (hx : p.audit.session = some x) (hn : x.inFlight = some n) (hs : x.steps[n - 1]? = some st) :
    p.StepCompletes (p.completeStep reading) x n st reading := by
  have e : p.completeStep reading = ((p.modAudit fun a => { a with
      session := some { x with
        steps := x.steps.set (n - 1) { st with reading := reading, result := some (resultOf reading) }, inFlight := none }
      stepTimer := .stopped }).handTrail (some x.deck)
        (.step n st.kind st.reference st.cell (resultOf reading) reading)).notify
          (.stepDone x.deck n { st with reading := reading, result := some (resultOf reading) }) := by
    unfold Part.completeStep
    rw [hx]
    dsimp only
    rw [hn]
    simp only [Option.bind_some, hs]
    cases reading <;> rfl
  have f := handTrail_facts (p.modAudit fun a => { a with
      session := some { x with
        steps := x.steps.set (n - 1) { st with reading := reading, result := some (resultOf reading) }, inFlight := none }
      stepTimer := .stopped }) (some x.deck) (.step n st.kind st.reference st.cell (resultOf reading) reading)
  rw [e]
  constructor
  · rw [f.1]; rfl
  · rw [f.1]; rfl
  · rw [f.1]; rfl
  · intro l; exact f.2 l

/-- A window restart of the session's deck completes the step in flight NO_STABLE (R10, R152). -/
theorem windowRestart_inFlight (p : Part) (x : Session) (n : Nat) (st : AuditStepRec) (hx : p.audit.session = some x)
    (hn : x.inFlight = some n) (hs : x.steps[n - 1]? = some st) :
    (p.modDeck x.deck Deck.restart).StepCompletes (p.windowRestart x.deck) x n st none := by
  have : (p.modDeck x.deck Deck.restart).inFlightOn x.deck = some n := by
    unfold Part.inFlightOn
    show p.audit.session.bind _ = _
    rw [hx]; simp [hn]
  unfold Part.windowRestart
  dsimp only
  rw [this]
  exact completeStep_facts (p.modDeck x.deck Deck.restart) x n st none hx hn hs

/-- A step that has completed leaves the settings as they are read. -/
theorem Part.StepCompletes.settled {p q : Part} {x n st r} (h : p.StepCompletes q x n st r) (hp : p.settingsSettled) :
    q.settingsSettled :=
  settled_lane hp (by rw [h.rest]) fun l => by rw [h.lanes l]

/-- No step is in flight once one has completed. -/
theorem Part.StepCompletes.idle {p q : Part} {x n st r} (h : p.StepCompletes q x n st r) (d : DeckId) :
    q.inFlightOn d = none := by
  unfold Part.inFlightOn
  rw [h.audit]
  simp

end Sys2Proof.Machine
end

