-- ==== Sys2Proof/Laws/Barriers.lean ====
section
/-! SUPPORT. What a read of the settings, with the lane fault that it may bring, leaves alone: every barrier and every
debounced beam level. -/

namespace Sys2Proof.Machine

/-- Every barrier and every debounced beam level of `q` is that of `p`. -/
def Part.sameBarriers (p q : Part) : Prop :=
  ∀ l e, (q.laneEnd l e).barrier = (p.laneEnd l e).barrier ∧ (q.laneEnd l e).beamLevel = (p.laneEnd l e).beamLevel

theorem sameBarriers_refl (p : Part) : p.sameBarriers p := fun _ _ => ⟨rfl, rfl⟩

theorem Part.sameBarriers.trans {p q r : Part} (h : p.sameBarriers q) (k : q.sameBarriers r) : p.sameBarriers r :=
  fun l e => ⟨(k l e).1.trans (h l e).1, (k l e).2.trans (h l e).2⟩

/-- A choice between two parts that both leave the barriers alone. -/
theorem sameBarriers_ite {p a b : Part} (c : Prop) [Decidable c] (ha : p.sameBarriers a) (hb : p.sameBarriers b) :
    p.sameBarriers (if c then a else b) := by split <;> assumption

theorem sameBarriers_lanes {p q r : Part} (h : p.sameBarriers q) (k : r.lanes = q.lanes) : p.sameBarriers r := by
  intro l e
  have := h l e
  unfold Part.laneEnd Part.lane at *
  rw [k]
  exact this

theorem sameBarriers_ends {p q r : Part} (h : p.sameBarriers q) (k : ∀ l, (r.lane l).ends = (q.lane l).ends) :
    p.sameBarriers r := by
  intro l e
  have := h l e
  unfold Part.laneEnd at *
  rw [k]
  exact this

section
variable {p q : Part} (h : p.sameBarriers q)
include h

theorem sameBarriers_notify (b : NoticeBody) : p.sameBarriers (q.notify b) := sameBarriers_lanes h rfl
theorem sameBarriers_modDeck (d : DeckId) (f : Deck → Deck) : p.sameBarriers (q.modDeck d f) := sameBarriers_lanes h rfl
theorem sameBarriers_modAudit (f : AuditUnit → AuditUnit) : p.sameBarriers (q.modAudit f) := sameBarriers_lanes h rfl
theorem sameBarriers_modTables (f : TableStore → TableStore) : p.sameBarriers (q.modTables f) := sameBarriers_lanes h rfl

/-- A change of a lane that leaves its ends alone. -/
theorem sameBarriers_modLane (l : LaneId) (f : Lane → Lane) (k : ∀ x, (f x).ends = x.ends) :
    p.sameBarriers (q.modLane l f) := by
  refine sameBarriers_ends h fun m => ?_
  rw [lane_modLane]
  split
  · rename_i e; subst e; exact k _
  · rfl

theorem sameBarriers_handTrail (o : Option DeckId) (b : TrailBody) : p.sameBarriers (q.handTrail o b) :=
  sameBarriers_ends h fun l => by rw [(handTrail_facts q o b).2 l]

theorem sameBarriers_enterLaneState (l : LaneId) (st : LaneState) : p.sameBarriers (q.enterLaneState l st) := by
  unfold Part.enterLaneState
  refine sameBarriers_ite _ h ?_
  dsimp only
  refine sameBarriers_notify ?_ _
  exact sameBarriers_modLane h l _ fun _ => rfl

theorem sameBarriers_laneClear (l : LaneId) (c : LaneCause) : p.sameBarriers (q.laneClear l c) := by
  unfold Part.laneClear
  have k := sameBarriers_modLane h l (fun x => { x with causes := x.causes.put false c }) fun _ => rfl
  exact sameBarriers_ite _ (sameBarriers_ite _ (sameBarriers_enterLaneState k l _) k) h

theorem sameBarriers_laneRaiseIdle (l : LaneId) (c : LaneCause) : p.sameBarriers (q.laneRaiseIdle l c) := by
  unfold Part.laneRaiseIdle
  have k := sameBarriers_modLane h l (fun x => { x with causes := x.causes.put true c }) fun _ => rfl
  exact sameBarriers_ite _ h (sameBarriers_ite _ (sameBarriers_enterLaneState k l _) k)

theorem sameBarriers_clearDeckFault (l : LaneId) : p.sameBarriers (q.clearDeckFault l) := by
  unfold Part.clearDeckFault
  exact sameBarriers_ite _ (sameBarriers_laneClear h l _) h

theorem sameBarriers_adopt (l : LaneId) : p.sameBarriers (q.adopt l) := by
  unfold Part.adopt
  dsimp only
  have h2 := sameBarriers_laneClear
    (sameBarriers_modLane h l (fun x => { x with adoptedActive := true, adoptedValid := true }) fun _ => rfl) l .settingsParity
  generalize ((q.modLane l fun x => { x with adoptedActive := true, adoptedValid := true }).laneClear l .settingsParity) = r at *
  have h3 := sameBarriers_ite ((r.tables.settingsActive.lanes.get l).damaged = true)
    (sameBarriers_laneRaiseIdle h2 l .settingsParity) h2
  exact sameBarriers_notify (sameBarriers_ite _ (sameBarriers_modTables h3 _) h3) _

theorem sameBarriers_completeStep (r : Option Reading) : p.sameBarriers (q.completeStep r) := by
  unfold Part.completeStep
  split
  · exact h
  · split
    · exact sameBarriers_notify (sameBarriers_handTrail (sameBarriers_modAudit h _) _ _) _
    · exact h

theorem sameBarriers_windowRestart (d : DeckId) : p.sameBarriers (q.windowRestart d) := by
  unfold Part.windowRestart
  exact sameBarriers_ite _ (sameBarriers_completeStep (sameBarriers_modDeck h d _) _) (sameBarriers_modDeck h d _)

theorem sameBarriers_serviceHead (d : DeckId) (n : ServiceState) : p.sameBarriers (q.serviceHead d n) := by
  unfold Part.serviceHead
  dsimp only
  have k := sameBarriers_windowRestart (sameBarriers_handTrail
    (sameBarriers_modDeck h d fun x => { x with service := n }) (some d) (.service (q.deck d).service n
      ((q.modDeck d fun x => { x with service := n }).deck d).causes)) d
  exact sameBarriers_ite _ (sameBarriers_modDeck k d _) k

theorem sameBarriers_markImage (d : DeckId) : p.sameBarriers (q.markImage d) := by
  unfold Part.markImage
  exact sameBarriers_ite _ h (sameBarriers_lanes h rfl)

theorem sameBarriers_serviceTail (d : DeckId) (o n : ServiceState) :
    p.sameBarriers (q.serviceTail d o n) :=
  sameBarriers_lanes h (by rw [(serviceTail_facts q d o n).1])

theorem sameBarriers_serviceToAudit (d : DeckId) : p.sameBarriers (q.serviceToAudit d) := by
  unfold Part.serviceToAudit
  have k := sameBarriers_serviceHead h d .audit
  exact sameBarriers_serviceTail (sameBarriers_ite _ (sameBarriers_clearDeckFault k _) k) d _ _

theorem sameBarriers_activate (s : Session) : p.sameBarriers (q.activate s) := by
  unfold Part.activate
  refine sameBarriers_notify (sameBarriers_markImage (sameBarriers_modDeck (sameBarriers_serviceToAudit
    (sameBarriers_handTrail (sameBarriers_enterLaneState ?_ _ _) _ _) _) _ _) _) _
  exact sameBarriers_modLane (sameBarriers_modAudit h _) _ _ fun _ => rfl

theorem sameBarriers_settleLaneState (l : LaneId) : p.sameBarriers (q.settleLaneState l) := by
  unfold Part.settleLaneState
  exact sameBarriers_ite _ (sameBarriers_enterLaneState h l _) h

theorem sameBarriers_startPendingAudit (l : LaneId) : p.sameBarriers (q.startPendingAudit l) := by
  unfold Part.startPendingAudit
  split
  · exact h
  · exact sameBarriers_ite _ (sameBarriers_activate h _) h

theorem sameBarriers_closeStep (l : LaneId) (c : Bool) : p.sameBarriers (q.closeStep l c) := by
  unfold Part.closeStep
  split
  · exact h
  · rename_i v hv
    dsimp only
    have h0 : p.sameBarriers (q.enterExitAxles l v.count (q.lane l).exitAxles) := sameBarriers_lanes h rfl
    have h1 := sameBarriers_modLane h0 l (fun x => x.enterExit.emptySlot) fun _ => rfl
    have h2 := sameBarriers_ite (c = true) (sameBarriers_notify h1
      (.visitClosed l v.count v.kind (v.capture.map (·.gross)) v.abort (q.lane l).exitAxles)) h1
    refine sameBarriers_startPendingAudit (sameBarriers_settleLaneState ?_ l) l
    generalize (if c = true then ((q.enterExitAxles l v.count (q.lane l).exitAxles).modLane l fun x => x.enterExit.emptySlot).notify
      (.visitClosed l v.count v.kind (v.capture.map (·.gross)) v.abort (q.lane l).exitAxles)
      else (q.enterExitAxles l v.count (q.lane l).exitAxles).modLane l fun x => x.enterExit.emptySlot) = r at h2 ⊢
    exact sameBarriers_ite _ h2 (sameBarriers_adopt h2 l)

theorem sameBarriers_setSlot (i : Nat) (e : Option PendingEntry) : p.sameBarriers (q.setSlot i e) :=
  sameBarriers_lanes h (by rw [setSlot_rest])

theorem sameBarriers_releasePending (v : Visit) : p.sameBarriers (q.releasePending v) := by
  unfold Part.releasePending
  repeat' split
  all_goals first | exact h | exact sameBarriers_setSlot h _ _

theorem sameBarriers_abortEffect (l : LaneId) (v : Visit) (r : AbortReason) :
    p.sameBarriers (q.abortEffect l v r) := by
  unfold Part.abortEffect
  dsimp only
  refine sameBarriers_releasePending (sameBarriers_notify ?_ _) v
  exact sameBarriers_modLane h l _ fun _ => rfl

theorem sameBarriers_enterClearing (l : LaneId) : p.sameBarriers (q.enterClearing l) :=
  sameBarriers_modLane h l _ fun _ => rfl

theorem sameBarriers_endAtOnce (l : LaneId) (r : AbortReason) : p.sameBarriers (q.endAtOnce l r) := by
  unfold Part.endAtOnce
  split
  · exact h
  · exact sameBarriers_closeStep (sameBarriers_abortEffect h l _ r) l false

/-- An abort of a visit leaves the barriers and the beam levels alone. -/
theorem sameBarriers_abortVisit (l : LaneId) (r : AbortReason) : p.sameBarriers (q.abortVisit l r) := by
  have k := fun v => sameBarriers_enterClearing (sameBarriers_abortEffect h l v r) l
  unfold Part.abortVisit
  split
  · exact h
  · split
    all_goals first | exact h | exact sameBarriers_endAtOnce h l r | exact k _

theorem sameBarriers_visitFault (l : LaneId) : p.sameBarriers (q.visitFault l) := by
  unfold Part.visitFault
  exact sameBarriers_ite _ (sameBarriers_enterClearing h l) (sameBarriers_abortVisit h l _)

/-- A lane fault leaves the barriers and the beam levels alone. -/
theorem sameBarriers_laneRaise (l : LaneId) (c : LaneCause) : p.sameBarriers (q.laneRaise l c) := by
  have k := sameBarriers_modLane h l (fun x => { x with causes := x.causes.put true c }) fun _ => rfl
  unfold Part.laneRaise
  refine sameBarriers_ite _ h (sameBarriers_ite _ k ?_)
  split
  · exact k
  · exact k
  · exact sameBarriers_enterLaneState k l _
  · exact sameBarriers_visitFault (sameBarriers_enterLaneState k l _) l

/-- A read of a lane's settings leaves the barriers and the beam levels alone. -/
theorem sameBarriers_checkLane (l : LaneId) : p.sameBarriers (q.checkLane l) := by
  unfold Part.checkLane
  exact sameBarriers_ite _ h (sameBarriers_laneRaise (sameBarriers_notify (sameBarriers_modTables h _) _) l _)

end

/-- A driven command that follows a wanted one is never LOWER onto a blocked beam, unless the barrier is DOWN (R30). -/
theorem drive_lowers (b : Barrier) (wanted : BarrierCommand) (blocked : Bool) (limit : Timer)
    (h1 : (b.drive wanted blocked limit).driven = .lower) (h2 : blocked = true) :
    (b.drive wanted blocked limit).position = .down := by
  have h : b.follow wanted blocked = .lower := h1
  show b.position = .down
  unfold Barrier.follow at h
  split at h
  · cases h
  · rename_i hc
    subst h
    by_contra hp
    exact hc ⟨rfl, h2, hp⟩

end Sys2Proof.Machine
end

