-- ==== Sys2Proof/Laws/Renumber.lean ====
section
/-! SUPPORT. The creation numbers of the pending-tare list (R96): what a new entry and a renumbering change. -/

namespace Sys2Proof.Machine

/-- The slots with their numbers are those of `Part.slot`. -/
theorem slots_zipIdx (p : Part) : p.pairing.slots.toList.zipIdx = (List.range 64).map fun j => (p.slot j, j) := by
  refine List.ext_getElem (by simp) fun n h1 h2 => ?_
  have hn : n < 64 := by simpa using h2
  simp [Part.slot, hn]

/-- The entries held, each with its slot, in slot order. -/
theorem entries_eq (p : Part) : p.pairing.entries = (List.range 64).filterMap fun j => (p.slot j).map fun e => (j, e) := by
  unfold Pairing.entries
  rw [slots_zipIdx, List.filterMap_map]
  rfl

/-- Marking slots dirty adds them to the dirty queue and changes nothing else (R108). -/
theorem markAll_facts (is : List Nat) : ∀ q : Part, ∃ ds : List Nat,
    is.foldl Part.markDirty q = q.modPairing (fun x => { x with dirty := ds }) ∧
      ∀ j, j ∈ is ∨ j ∈ q.pairing.dirty → j ∈ ds := by
  induction is with
  | nil => exact fun q => ⟨_, rfl, by simp⟩
  | cons i is ih =>
    intro q
    by_cases hi : i ∈ q.pairing.dirty
    · have e : q.markDirty i = q := if_pos hi
      obtain ⟨ds, a, b⟩ := ih q
      refine ⟨ds, by rw [List.foldl_cons, e, a], fun j hj => b j ?_⟩
      rw [List.mem_cons] at hj
      rcases hj with (rfl | hj) | hj
      exacts [.inr hi, .inl hj, .inr hj]
    · have e : q.markDirty i = q.modPairing fun x => { x with dirty := x.dirty ++ [i] } := if_neg hi
      obtain ⟨ds, a, b⟩ := ih (q.modPairing fun x => { x with dirty := x.dirty ++ [i] })
      refine ⟨ds, by rw [List.foldl_cons, e, a]; rfl, fun j hj => b j ?_⟩
      simp only [Part.modPairing, List.mem_append, List.mem_cons, List.not_mem_nil, or_false] at hj ⊢
      tauto

/-- Renumbering, where the next creation number has passed its limit (R96): all that it changes. -/
theorem renumber_facts (p : Part) (h : creationLimit < p.pairing.nextCreation) : p.renumber.renumbers p.slot ∧
    (∃ slots n dirty, p.renumber = p.modPairing fun x => { x with slots := slots, nextCreation := n, dirty := dirty }) ∧
      ∀ j, j ∈ p.pairing.dirty → j ∈ p.renumber.pairing.dirty := by
  unfold Part.renumber
  rw [if_neg (Nat.not_le.mpr h)]
  dsimp only
  obtain ⟨ds, a, b⟩ := markAll_facts (p.pairing.entries.map (·.1)) (p.modPairing fun x => { x with
    slots := p.pairing.slots.map fun s => s.map fun (e : PendingEntry) =>
      { e with creation := 1 + (p.pairing.entries.filter fun x => decide (x.2.creation < e.creation)).length }
    nextCreation := p.pairing.entries.length + 1 })
  rw [a]
  have rank : ∀ n, (p.pairing.entries.filter fun x => decide (x.2.creation < n)).length =
      (List.range 64).countP fun j => (p.slot j).any fun f => decide (f.creation < n) := by
    intro n
    rw [entries_eq, ← List.countP_eq_length_filter, List.countP_filterMap]
    congr 1
    funext j
    cases p.slot j <;> rfl
  refine ⟨⟨fun j hj => ?_, fun j hj hn => b j (.inl ?_), ?_⟩, ⟨_, _, _, rfl⟩, fun j hj => b j (.inr hj)⟩
  · show ((p.pairing.slots.map _)[j]?).join = ((p.pairing.slots[j]?).join).map _
    simp only [Vector.getElem?_map, rank]
    rcases p.pairing.slots[j]? with _ | _ | e <;> rfl
  · obtain ⟨e, he⟩ := Option.ne_none_iff_exists'.mp hn
    rw [entries_eq]
    simp only [List.mem_map, List.mem_filterMap, List.mem_range]
    exact ⟨(j, e), ⟨j, hj, by rw [he]; rfl⟩, rfl⟩
  · show p.pairing.entries.length + 1 = _
    rw [entries_eq, Nat.add_comm, List.length_filterMap_eq_countP]
    congr 2
    funext j
    cases p.slot j <;> rfl

/-- A new RESERVED entry in a slot (R96, R98): all that it changes. -/
theorem reserve_facts (p : Part) (i : Nat) (v : VehicleId) (r : Option Nat) (hi : i < 64) :
    let held := fun (j : Nat) => if j = i then some ⟨v, r, .reserved, p.pairing.nextCreation⟩ else p.slot j
    let q := p.reserve i v r
    (∃ slots n dirty, q = p.modPairing fun x => { x with slots := slots, nextCreation := n, dirty := dirty }) ∧
      i ∈ q.pairing.dirty ∧
      (p.pairing.nextCreation < 4294967295 → (∀ j, q.slot j = held j) ∧
        q.pairing.nextCreation = p.pairing.nextCreation + 1) ∧
      (p.pairing.nextCreation = 4294967295 → q.renumbers held) := by
  dsimp only
  unfold Part.reserve
  dsimp only
  set e : PendingEntry := ⟨v, r, .reserved, p.pairing.nextCreation⟩ with he
  generalize hs : p.setSlot i (some e) = s
  have dirty : i ∈ s.pairing.dirty := hs ▸ dirty_setSlot p i _
  have slots : ∀ j, s.slot j = if j = i then some e else p.slot j := fun j => hs ▸ slot_setSlot p i (some e) hi j
  have next : s.pairing.nextCreation = p.pairing.nextCreation := by
    rw [← hs]; unfold Part.setSlot Part.markDirty; split <;> rfl
  have rest : ∃ slots dirty, s = p.modPairing fun x => { x with slots := slots, dirty := dirty } := by
    rw [← hs]; unfold Part.setSlot Part.markDirty
    split
    · exact ⟨_, p.pairing.dirty, rfl⟩
    · exact ⟨_, _, rfl⟩
  set t := s.modPairing fun x => { x with nextCreation := x.nextCreation + 1 } with ht
  have tn : t.pairing.nextCreation = p.pairing.nextCreation + 1 := by rw [← next]; rfl
  obtain ⟨sl, ds, hr⟩ := rest
  by_cases hn : t.pairing.nextCreation ≤ creationLimit
  · have same : t.renumber = t := if_pos hn
    rw [same]
    refine ⟨⟨sl, p.pairing.nextCreation + 1, ds, ?_⟩, dirty, fun _ => ⟨slots, tn⟩, fun h => ?_⟩
    · rw [ht, hr]; rfl
    · rw [tn, h] at hn; exact absurd hn (by decide)
  · obtain ⟨a, ⟨sl2, n2, ds2, b⟩, c⟩ := renumber_facts t (Nat.not_le.mp hn)
    refine ⟨⟨sl2, n2, ds2, ?_⟩, c i dirty, fun h => ?_, fun _ => ?_⟩
    · rw [b, ht, hr]; rfl
    · rw [tn] at hn; unfold creationLimit at hn; omega
    · have e1 : t.slot = fun j => if j = i then some e else p.slot j := funext slots
      rw [← e1]; exact a

end Sys2Proof.Machine
end

