-- ==== Sys2Proof/Laws/Identity.lean ====
section
/-! SUPPORT. Everything that an identity brings to a visit (R53-R56): its classification, its consignment step, and a visit
that ends at once on a lane where nothing more follows (R69, R72). -/

namespace Sys2Proof.Machine

/-! ## The search of the register (R136) -/

/-- A search goes on behind a slot that it passes over. -/
theorem search_skips {hit : RegEntry → Prop} {f : RegEntry → Bool} (hf : ∀ r, f r = true ↔ hit r)
    {x : Nat × Slot (Option RegEntry)} (h : x.2.damaged = true ∨ x.2.parityOk = true ∧ ∀ r, x.2.val = some r → ¬ hit r)
    (rest : List (Nat × Slot (Option RegEntry))) (p : Part) :
    Part.searchRegister f (x :: rest) p = Part.searchRegister f rest p := by
  rcases hval : x.2.val with _ | r
  · rcases h with h | h <;> simp [Part.searchRegister, h, hval]
  · have miss : x.2.damaged = true ∨ f r = false := h.imp_right fun k => by
      rw [Bool.eq_false_iff, ne_eq, hf]; exact k.2 r hval
    rcases h with h | h <;> rcases miss with m | m <;> simp [Part.searchRegister, h, hval, m]

/-- A search goes on behind all the slots that it passes over. -/
theorem search_skips_all {hit : RegEntry → Prop} {f : RegEntry → Bool} (hf : ∀ r, f r = true ↔ hit r)
    (rest : List (Nat × Slot (Option RegEntry))) (p : Part) : ∀ before : List (Nat × Slot (Option RegEntry)),
    searchPasses hit before → Part.searchRegister f (before ++ rest) p = Part.searchRegister f rest p
  | [], _ => rfl
  | x :: xs, h => by
    rw [List.cons_append, search_skips hf (h x (by simp))]
    exact search_skips_all hf rest p xs fun y hy => h y (by simp [hy])

/-- A search that passes over every slot finds nothing and changes nothing. -/
theorem search_none (hit : RegEntry → Prop) (f : RegEntry → Bool) (hf : ∀ r, f r = true ↔ hit r)
    (slots : List (Nat × Slot (Option RegEntry))) (p : Part) (h : searchPasses hit slots) :
    Part.searchRegister f slots p = (p, none) := by
  simpa [Part.searchRegister] using search_skips_all hf [] p slots h

/-- A search finds the first entry that it does not pass over. -/
theorem search_some (hit : RegEntry → Prop) (f : RegEntry → Bool) (hf : ∀ r, f r = true ↔ hit r)
    (before : List (Nat × Slot (Option RegEntry))) (i : Nat) (sl : Slot (Option RegEntry)) (r : RegEntry)
    (after : List (Nat × Slot (Option RegEntry))) (p : Part) (h : searchPasses hit before)
    (hd : sl.damaged = false) (hp : sl.parityOk = true) (hv : sl.val = some r) (hr : hit r) :
    Part.searchRegister f (before ++ (i, sl) :: after) p = (p, some (i, r)) := by
  rw [search_skips_all hf _ p before h]
  simp [Part.searchRegister, hd, hp, hv, (hf r).mpr hr]

/-! ## Vehicle ids -/

/-- R52, R193: the vehicle ids that a field gives. -/
theorem parseVehicle_iff (bytes : List Byte) (v : VehicleId) : parseVehicle bytes = some v ↔
    1 ≤ v.length ∧ v.length ≤ 12 ∧ (∀ b ∈ v, 0x41 ≤ b.toNat ∧ b.toNat ≤ 0x5A ∨ 0x30 ≤ b.toNat ∧ b.toNat ≤ 0x39 ∨ b.toNat = 0x2D) ∧
    ∃ n, bytes = v ++ List.replicate n 0 := by
  have hc : ∀ b : Byte, isVehicleChar b = true ↔
      (0x41 ≤ b.toNat ∧ b.toNat ≤ 0x5A ∨ 0x30 ≤ b.toNat ∧ b.toNat ≤ 0x39 ∨ b.toNat = 0x2D) := by
    intro b; unfold isVehicleChar; simp [or_assoc]
  have hs : ∀ bs : List Byte, ∃ n, bs = stripZeros bs ++ List.replicate n 0 := by
    intro bs
    refine ⟨(bs.reverse.takeWhile (· == 0)).length, ?_⟩
    unfold stripZeros
    have h := List.takeWhile_append_dropWhile (p := (· == (0:Byte))) (l := bs.reverse)
    have h2 : bs.reverse.takeWhile (· == 0) = List.replicate (bs.reverse.takeWhile (· == 0)).length (0:Byte) := by
      rw [List.eq_replicate_iff]
      refine ⟨rfl, fun b hb => ?_⟩
      have := List.mem_takeWhile_imp hb; simpa using this
    have h3 : bs = (bs.reverse.dropWhile (· == 0)).reverse ++ (bs.reverse.takeWhile (· == 0)).reverse := by
      rw [← List.reverse_append, h, List.reverse_reverse]
    conv_lhs => rw [h3, h2]
    rw [List.reverse_replicate]
  have hs2 : ∀ (w : List Byte) n, w ≠ [] → (∀ b ∈ w, isVehicleChar b = true) → stripZeros (w ++ List.replicate n 0) = w := by
    intro w n hw hb
    unfold stripZeros
    rw [List.reverse_append, List.reverse_replicate,
      List.dropWhile_append_of_pos (by intro a ha; simp [List.eq_of_mem_replicate ha])]
    have : w.reverse.dropWhile (· == 0) = w.reverse := by
      cases hr : w.reverse with
      | nil => simp at hr; exact absurd hr hw
      | cons a as =>
        have : a ∈ w := by rw [← List.mem_reverse, hr]; simp
        have := hb a this
        have hne : (a == 0) = false := by
          rw [beq_eq_false_iff_ne]; intro h0; subst h0; revert this; decide
        rw [List.dropWhile_cons, hne]; rfl
    rw [this, List.reverse_reverse]
  unfold parseVehicle
  dsimp only
  constructor
  · intro h
    split at h
    · cases h
    · rename_i hh
      cases h
      push Not at hh
      refine ⟨by omega, hh.2.1, fun b hb => (hc b).mp ?_, hs bytes⟩
      have := hh.2.2
      simp only [ne_eq, Bool.not_eq_false, List.all_eq_true] at this
      exact this b hb
  · rintro ⟨h1, h2, h3, n, rfl⟩
    have e := hs2 v n (by intro h; simp [h] at h1) (fun b hb => (hc b).mpr (h3 b hb))
    rw [e, if_neg]
    push Not
    refine ⟨by omega, h2, ?_⟩
    simp only [ne_eq, Bool.not_eq_false, List.all_eq_true]
    exact fun b hb => (hc b).mpr (h3 b hb)

/-! ## Visits that end at once, and identities -/

theorem lane_other (l : LaneId) : l.other ≠ l := by cases l <;> decide

/-- The close step of a visit that ends on a lane where nothing more follows. -/
theorem closeStep_plain (p : Part) (l : LaneId) (v : Visit) (hv : p.visit l = some v) (h : p.closesPlainly l) :
    p.closeStep l false = { p with
      tickets := { p.tickets with staging := exitEntered l v.count (p.lane l).exitAxles p.tickets.staging }
      lanes := (p.modLane l Lane.emptySlot).lanes } := by
  obtain ⟨h1, h2, h3, h4⟩ := h
  unfold Part.closeStep
  rw [hv]
  dsimp only
  have e1 : ((p.enterExitAxles l v.count (p.lane l).exitAxles).modLane l fun x => x.enterExit.emptySlot) = { p with
      tickets := { p.tickets with staging := exitEntered l v.count (p.lane l).exitAxles p.tickets.staging }
      lanes := (p.modLane l Lane.emptySlot).lanes } := rfl
  rw [e1]
  set q : Part := { p with
      tickets := { p.tickets with staging := exitEntered l v.count (p.lane l).exitAxles p.tickets.staging }
      lanes := (p.modLane l Lane.emptySlot).lanes } with hq
  have hl : q.lane l = (p.lane l).emptySlot := lane_modLane_self p l _
  simp only [Bool.false_eq_true, if_false]
  rw [if_pos (show (q.lane l).adoptedActive = true by rw [hl]; exact h2)]
  have hs : q.settleLaneState l = q := by
    unfold Part.settleLaneState
    dsimp only
    rw [if_neg]
    rw [hl]
    rintro (⟨_, k⟩ | ⟨k, _⟩)
    · exact Bool.false_ne_true (h3.symm.trans k)
    · exact absurd (h1.symm.trans k) (by decide)
  rw [hs]
  unfold Part.startPendingAudit
  split
  · rfl
  · rename_i x hx
    rw [if_neg]
    intro k
    exact h4 x hx k.1

/-- A visit without a pending entry that ends at once, on a lane where nothing more follows. -/
theorem endAtOnce_plain (p : Part) (l : LaneId) (v : Visit) (reason : AbortReason) (hv : p.visit l = some v)
    (hi : v.pendingIndex = none) (h : p.closesPlainly l) :
    p.endAtOnce l reason = { p with
      link := (p.notify (.visitAborted l v.count v.vehicle v.kind reason)).link
      tickets := { p.tickets with staging := exitEntered l v.count (p.lane l).exitAxles p.tickets.staging }
      lanes := (p.modLane l Lane.emptySlot).lanes } := by
  unfold Part.endAtOnce
  rw [hv]
  dsimp only
  have ha : p.abortEffect l v reason = (p.setVisit l { v with abort := some reason }).notify
      (.visitAborted l v.count v.vehicle v.kind reason) := by
    unfold Part.abortEffect Part.releasePending
    rw [hi]
  rw [ha]
  have hx : ((p.setVisit l { v with abort := some reason }).notify
      (.visitAborted l v.count v.vehicle v.kind reason)).lane l = { p.lane l with visit := some { v with abort := some reason } } := by
    show (p.setVisit l _).lane l = _
    exact lane_modLane_self p l _
  rw [closeStep_plain _ l { v with abort := some reason } (by unfold Part.visit; rw [hx])]
  · rw [hx]
    cases l <;> rfl
  · unfold Part.closesPlainly
    rw [hx]
    exact h

/-- The free slot is one of the list's. -/
theorem freeSlot_bound {x : Pairing} {i : Nat} (h : x.freeSlot = some i) : i < 64 := by
  unfold Pairing.freeSlot at h
  obtain ⟨s, hs, rfl⟩ := Option.map_eq_some_iff.mp h
  have := List.mem_zipIdx' (List.mem_of_find?_eq_some hs)
  simpa using this.1

theorem checkSite_settled (p : Part) (h : p.settingsSettled) : p.checkSite = p := by
  unfold Part.checkSite
  dsimp only
  rw [if_pos]
  have := h.2.2
  unfold Slot.settled at this
  simpa using this

/-- The consignment step on a lane whose dwell timer has just started (R56). -/
theorem consignStep_consigned (p q : Part) (l : LaneId) (w v : Visit) (id : VehicleId)
    (hl : q.lane l = { p.lane l with
      visit := some w, dwellTimer := p.start (1000 * (p.settings l).dwellLimit), waitTimer := .stopped })
    (hc : q.clock = p.clock) (hs : q.settings l = p.settings l) (hp : q.pairing.consignments = p.pairing.consignments) :
    p.consigned (q.consignStep l v id) l v id ∧
      (∀ m, m ≠ l → (q.consignStep l v id).lane m = q.lane m) ∧
      q.consignStep l v id = { q with
        lanes := (q.consignStep l v id).lanes
        pairing := { q.pairing with consignments := (q.consignStep l v id).pairing.consignments } } := by
  have hf : q.pairing.findConsignment id = p.pairing.findConsignment id := by
    unfold Pairing.findConsignment; rw [hp]
  have hn : ∀ n, q.start (1000 * n) = .running (p.clock.running + 10000 * n) := by
    intro n; unfold Part.start Part.now; rw [hc]; congr 1; omega
  have hn' : p.start (1000 * (p.settings l).dwellLimit) = .running (p.clock.running + 10000 * (p.settings l).dwellLimit) := by
    unfold Part.start Part.now; congr 1; omega
  unfold Part.consignStep
  rw [hf]
  cases hcase : p.pairing.findConsignment id with
  | none =>
    dsimp only
    refine ⟨⟨fun _ => ⟨?_, hp⟩, fun c k => by rw [hcase] at k; exact absurd k (by simp)⟩, ?_, ?_⟩
    · unfold Part.awaitsWith
      rw [lane_modLane_self]
      unfold Part.setVisit
      rw [lane_modLane_self, hl, hs, hn, hn']
    · intro m hm
      unfold Part.setVisit
      rw [lane_modLane, if_neg hm, lane_modLane, if_neg hm]
    · cases l <;> rfl
  | some c =>
    dsimp only
    refine ⟨⟨fun k => by rw [hcase] at k; exact absurd k (by simp), fun c' k => ?_⟩, ?_, ?_⟩
    · rw [hcase] at k
      obtain rfl := Option.some.inj k
      refine ⟨?_, ?_⟩
      · unfold Part.entersWith Part.enterEntering
        rw [lane_modLane_self]
        have e1 : ((q.dropConsignment id).setVisit l { v with consignment := some c.consignment }).settings l = p.settings l := by
          rw [← hs]; unfold Part.settings Part.adopted Part.setVisit; rw [lane_modLane_self]; rfl
        have e2 : ∀ n, ((q.dropConsignment id).setVisit l { v with consignment := some c.consignment }).start n = q.start n := fun _ => rfl
        rw [e1, e2, hn]
        unfold Part.setVisit
        rw [lane_modLane_self]
        show ({ ({ q.lane l with visit := _ } : Lane) with visit := _, waitTimer := _, settleTimer := _, quietTimer := _ } : Lane) = _
        rw [hl, hn']
        rfl
      · show q.pairing.consignments.filter _ = _
        rw [hp]
    · intro m hm
      unfold Part.enterEntering Part.setVisit
      rw [lane_modLane, if_neg hm, lane_modLane, if_neg hm]
      rfl
    · cases l <;> rfl

/-- At most the lanes and the pairing unit have changed. -/
def Part.goesOnly (p q : Part) : Prop := ∃ lanes pairing, q = { p with lanes := lanes, pairing := pairing }

theorem Part.goesOnly.trans {p q r : Part} (h : p.goesOnly q) (k : q.goesOnly r) : p.goesOnly r := by
  obtain ⟨_, _, rfl⟩ := h
  obtain ⟨_, _, rfl⟩ := k
  exact ⟨_, _, rfl⟩

/-- A visit goes on: of the part but its lane and the pairing unit nothing has changed. -/
theorem goesOn_of {p q : Part} {l : LaneId} (h : p.goesOnly q)
    (ho : q.lane l.other = p.lane l.other) : q.link = p.link ∧ q.lane l.other = p.lane l.other ∧ q.decks = p.decks ∧
      q.tickets = p.tickets ∧ q.audit = p.audit ∧ q.tables = p.tables ∧ q.store = p.store ∧ q.clock = p.clock := by
  obtain ⟨lanes, pairing, rfl⟩ := h
  simpa using ho

/-- R53-R56: everything that an identity brings. -/
theorem setIdentity_identified (p : Part) (l : LaneId) (v : Visit) (id : Identity) (h : p.settingsSettled)
    (hv : p.visit l = some v) (hi : v.pendingIndex = none) : p.identified (p.setIdentity l id) l v id := by
  unfold Part.setIdentity
  rw [hv]
  dsimp only
  set known : Visit := { v with
    vehicle := some id.vehicle, regIndex := id.regIndex, permits := id.permits, preset := id.preset } with hk
  set q0 : Part := (p.setVisit l known).modLane l fun y => { y with
    dwellTimer := p.start (1000 * (p.settings l).dwellLimit), waitTimer := .stopped } with hq0
  have hl : q0.lane l = { p.lane l with
      visit := some known, dwellTimer := p.start (1000 * (p.settings l).dwellLimit), waitTimer := .stopped } := by
    rw [hq0, lane_modLane_self]
    unfold Part.setVisit
    rw [lane_modLane_self]
  have ho : q0.lane l.other = p.lane l.other := by rw [hq0]; unfold Part.setVisit; simp
  have hr : q0 = { p with lanes := q0.lanes } := by rw [hq0]; cases l <;> rfl
  have hvis : q0.visit l = some known := by unfold Part.visit; rw [hl]
  have hoth : q0.otherHolds l id.vehicle = p.otherHolds l id.vehicle := by
    unfold Part.otherHolds Part.visit; rw [ho]
  have hset : q0.settings l = p.settings l := by
    unfold Part.settings Part.adopted; rw [hl, hr]
  have hplain : p.closesPlainly l → q0.closesPlainly l := by
    intro k; unfold Part.closesPlainly at *; rw [hl]; rw [hr]; exact k
  have hend : ∀ reason, p.closesPlainly l →
      (q0.endAtOnce l reason).lane l = (p.lane l).emptySlot ∧ (q0.endAtOnce l reason).pairing = p.pairing ∧
      (q0.endAtOnce l reason).tickets = { p.tickets with staging := exitEntered l v.count (p.lane l).exitAxles p.tickets.staging } ∧
      (q0.endAtOnce l reason).link = (p.notify (.visitAborted l v.count (some id.vehicle) v.kind reason)).link ∧
      (q0.endAtOnce l reason).lane l.other = p.lane l.other ∧ (q0.endAtOnce l reason).decks = p.decks ∧
      (q0.endAtOnce l reason).audit = p.audit ∧ (q0.endAtOnce l reason).tables = p.tables ∧
      (q0.endAtOnce l reason).store = p.store := by
    intro reason k
    rw [endAtOnce_plain q0 l known reason hvis hi (hplain k)]
    have e : q0.link = p.link ∧ q0.clock = p.clock ∧ q0.tickets = p.tickets ∧ q0.pairing = p.pairing ∧ q0.decks = p.decks ∧
        q0.audit = p.audit ∧ q0.tables = p.tables ∧ q0.store = p.store := by rw [hr]; simp
    refine ⟨?_, e.2.2.2.1, ?_, link_notify e.1 e.2.1 _, ?_, e.2.2.2.2.1, e.2.2.2.2.2.1, e.2.2.2.2.2.2.1, e.2.2.2.2.2.2.2⟩
    · show (q0.modLane l Lane.emptySlot).lane l = _
      rw [lane_modLane_self, hl]; rfl
    · show ({ q0.tickets with staging := exitEntered l known.count (q0.lane l).exitAxles q0.tickets.staging } : TicketUnit) = _
      rw [hl, e.2.2.1]
    · show (q0.modLane l Lane.emptySlot).lane l.other = _
      rw [lane_modLane_other, ho]
  have hcl : q0.clock = p.clock ∧ q0.pairing = p.pairing ∧ q0.tables = p.tables ∧ q0.link = p.link ∧ q0.decks = p.decks ∧
      q0.tickets = p.tickets ∧ q0.audit = p.audit ∧ q0.store = p.store := by rw [hr]; simp
  have hsett : q0.settingsSettled := settled_lane h hcl.2.2.1 (by
    intro m; by_cases hm : m = l
    · rw [hm, hl]
    · have : m = l.other := by revert hm; cases l <;> cases m <;> simp [LaneId.other]
      rw [this, ho])
  have hsite : q0.site = p.site := by rw [hr]; rfl
  have dwell : p.start (1000 * (p.settings l).dwellLimit) = .running (p.clock.running + 10000 * (p.settings l).dwellLimit) := by
    unfold Part.start Part.now; congr 1; omega
  have hheld : p.otherHolds l id.vehicle = true ↔ ∃ w, p.visit l.other = some w ∧ w.vehicle = some id.vehicle ∧ w.state ≠ .identify := by
    unfold Part.otherHolds
    cases p.visit l.other <;> simp
  have hne : l.other ≠ l := lane_other l
  have go : p.goesOnly q0 := ⟨_, _, hr⟩
  unfold Part.identified
  dsimp only
  unfold Part.classify
  rw [hoth]
  refine ⟨fun k => ?_, fun k => ?_⟩
  · rw [if_pos (hheld.mpr k)]; exact hend _
  rw [if_neg (fun k' => k (hheld.mp k')), hcl.2.1]
  refine ⟨fun i e hf => ?_, fun hf => ?_⟩
  · obtain ⟨hsl, _⟩ := find_slot hf
    have hlt := slot_lt hsl
    rw [hf]
    refine ⟨fun g hg => ?_, fun hg => ?_⟩
    · dsimp only
      rw [hg]
      dsimp only
      have hcr : q0.claim i e g l = { q0 with pairing := (q0.claim i e g l).pairing } := setSlot_rest _ _ _
      have hls : ∀ m, (q0.claim i e g l).lane m = q0.lane m := by intro m; rw [hcr]; rfl
      generalize hq1 : q0.claim i e g l = q1 at hcr hls ⊢
      have hset1 : ((q1.setVisit l { known with kind := some .tare, pendingIndex := some i }).settings l) = p.settings l := by
        rw [← hset]; unfold Part.settings Part.adopted Part.setVisit; rw [lane_modLane_self, hcr]; rfl
      have hpair : ((q1.setVisit l { known with kind := some .tare, pendingIndex := some i }).enterEntering l).pairing = q1.pairing := rfl
      have hslot : ∀ j, ((q1.setVisit l { known with kind := some .tare, pendingIndex := some i }).enterEntering l).slot j = q1.slot j := fun _ => rfl
      have hps : ∀ j, q0.slot j = p.slot j := by intro j; unfold Part.slot; rw [hcl.2.1]
      refine ⟨goesOn_of (go.trans (.trans ⟨_, _, hcr⟩ ⟨_, _, rfl⟩)) ?_, ?_, ?_, ?_, ?_, ?_, ?_⟩
      · unfold Part.enterEntering Part.setVisit
        rw [lane_modLane, if_neg hne, lane_modLane, if_neg hne, hls, ho]
      · unfold Part.entersWith Part.enterEntering
        rw [lane_modLane_self, hset1]
        unfold Part.setVisit
        rw [lane_modLane_self, hls, hl]
        have : (q1.modLane l fun y => { y with visit := some { known with kind := some .tare, pendingIndex := some i } }).start (1000 * (p.settings l).quietTime)
            = .running (p.clock.running + 10000 * (p.settings l).quietTime) := by
          show Timer.running (q1.clock.running + _) = _
          rw [hcr]; show Timer.running (q0.clock.running + _) = _; rw [hcl.1]; congr 1; omega
        rw [this, dwell]
        rfl
      · rw [hslot, ← hq1, Part.claim, slot_setSlot _ _ _ hlt, if_pos rfl]
      · intro j hj; rw [hslot, ← hq1, Part.claim, slot_setSlot _ _ _ hlt, if_neg hj, hps]
      · rw [hpair, ← hq1]; exact dirty_setSlot _ _ _
      · rw [hpair, ← hq1, ← hcl.2.1]; unfold Part.claim Part.setSlot Part.markDirty; split <;> rfl
      · rw [hpair, ← hq1, ← hcl.2.1]; unfold Part.claim Part.setSlot Part.markDirty; split <;> rfl
    · dsimp only
      cases he : e.state with
      | opened g => exact absurd he (hg g)
      | reserved => exact hend _
      | claimed g m => exact hend _
  · rw [hf]
    dsimp only
    refine ⟨fun i hfree => ?_, fun hfree => ?_⟩
    · rw [hfree]
      dsimp only
      obtain ⟨⟨slots, n, ds, hq1⟩, hdirty, hbelow, hlast⟩ := reserve_facts q0 i id.vehicle known.regIndex (freeSlot_bound hfree)
      generalize q0.reserve i id.vehicle known.regIndex = q1 at hq1 hdirty hbelow hlast ⊢
      have hls : ∀ m, q1.lane m = q0.lane m := by intro m; rw [hq1]; rfl
      have hcs := consignStep_consigned p q1 l known { known with kind := some .gross, pendingIndex := some i } id.vehicle
        ((hls l).trans hl) (by rw [hq1]; exact hcl.1) (by rw [← hset]; unfold Part.settings Part.adopted; rw [hls, hq1]; rfl)
        (by rw [hq1]; show q0.pairing.consignments = _; rw [hcl.2.1])
      generalize q1.consignStep l { known with kind := some .gross, pendingIndex := some i } id.vehicle = q at hcs ⊢
      obtain ⟨c1, c2, c3⟩ := hcs
      have hslot : ∀ j, q.slot j = q1.slot j := by intro j; unfold Part.slot; rw [c3]
      have hps : ∀ j, q0.slot j = p.slot j := by intro j; unfold Part.slot; rw [hcl.2.1]
      have hnum : ∀ held, q1.renumbers held → q.renumbers held := by
        intro held k
        unfold Part.renumbers at *
        simp only [hslot]
        rw [c3]; exact k
      simp only [hcl.2.1, hps] at hbelow hlast
      refine ⟨goesOn_of (go.trans (.trans ⟨_, _, hq1⟩ ⟨_, _, c3⟩)) (by rw [c2 _ hne, hls, ho]), c1, by rw [c3]; exact hdirty,
        fun k => ⟨fun j => (hslot j).trans ((hbelow k).1 j), ?_⟩, fun k => hnum _ (hlast k)⟩
      rw [c3]; exact (hbelow k).2
    · rw [hfree]
      dsimp only
      rw [checkSite_settled q0 hsett]
      unfold Part.classifyFull
      rw [hvis]
      dsimp only
      have hopen : presetOpen (q0.settings l).presetUse q0.clock q0.site.presetAge known.preset = true ↔
          (p.settings l).presetUse = .whenFull ∧ p.clock.valid = true ∧
            ∃ t, id.preset = some t ∧ t.date ≤ p.clock.sec / 86400 ∧ p.clock.sec / 86400 ≤ t.date + p.site.presetAge := by
        rw [hset, hcl.1, hsite]
        show presetOpen _ _ _ id.preset = true ↔ _
        unfold presetOpen
        cases id.preset with
        | none => simp
        | some t =>
          simp only [Bool.and_eq_true, decide_eq_true_eq, Option.some.injEq, exists_eq_left', and_assoc]
          constructor
          · rintro ⟨a, b, c, d⟩; exact ⟨a, b, c, by omega⟩
          · rintro ⟨a, b, c, d⟩; exact ⟨a, b, c, by omega⟩
      refine ⟨fun ho2 => ?_, fun ho2 => ?_⟩
      · rw [if_pos (hopen.mpr ho2)]
        have hcs := consignStep_consigned p q0 l known { known with kind := some .grossPreset } id.vehicle
          hl hcl.1 hset (by rw [hcl.2.1])
        generalize q0.consignStep l { known with kind := some .grossPreset } id.vehicle = q at hcs ⊢
        obtain ⟨c1, c2, c3⟩ := hcs
        refine ⟨goesOn_of (go.trans ⟨_, _, c3⟩) (by rw [c2 _ hne, ho]), c1, ?_, ?_⟩ <;> rw [c3, ← hcl.2.1]
      · rw [if_neg (fun k' => ho2 (hopen.mp k'))]; exact hend _

end Sys2Proof.Machine
end

