-- ==== Sys2Proof/Laws/Passes.lean ====
section
/-! SUPPORT. What the second edge of a pass, and a pass or a treadle fault that is disposed of, can do (R75, R78, R83). -/

namespace Sys2Proof.Machine

/-- The end of a lane as it stands after its axle screen has taken the second edge of a pass. -/
def Part.passTaken (p : Part) (l : LaneId) (e : LaneEnd) (last : Treadle) : Part :=
  p.modEnd l e fun y => { y.setLatch none last with decoder := .idle }

/-- The second edge of a pass in time: the pass is disposed of (R75). -/
theorem takeLatch_pass (p : Part) (l : LaneId) (e : LaneEnd) (line last : Treadle) (held expiry stamp : Nat)
    (hs : p.settingsSettled) (hd : (p.laneEnd l e).decoder = .hold line held expiry)
    (hl : (p.laneEnd l e).latch last = some stamp) (hne : line ≠ last) (h : stamp ≤ expiry) :
    p.takeLatch l e last =
      (p.passTaken l e last).dispose l e (if last = .t2 then .inward held stamp else .outward stamp held) := by
  unfold Part.takeLatch
  rw [hl]
  dsimp only
  unfold Part.decodeEdge
  dsimp only
  rw [checkLane_id (settled_modEnd hs _ _ _), ite_self]
  have hk : ((p.modEnd l e fun x => x.setLatch none last).laneEnd l e).decoder = .hold line held expiry := by
    rw [← hd]; cases l <;> cases e <;> cases last <;> rfl
  rw [hk, modEnd_modEnd]
  cases line <;> cases last <;> first | exact absurd rfl hne | (simp only [Decoder.edge, if_pos h]; rfl)

/-- The lane of a visit that a pass at its entry end leaves going on: the quiet timer restarts, and a visit in SETTLING
returns to ENTERING (R60, R83). -/
def Lane.passed (y : Lane) (v : Visit) (quiet : Timer) : Lane :=
  if v.state = .settling then
    { y with visit := some { v with state := .entering, storeWait := false }, waitTimer := .stopped
             settleTimer := .stopped, quietTimer := quiet }
  else { y with quietTimer := quiet }

/-- A pass at the entry end that has changed the axle lists by `f` (R83). -/
theorem entryPass_passed (p : Part) (l : LaneId) (v : Visit) (f : Lane → Lane) (hv : p.visit l = some v)
    (h : v.state = .entering ∨ v.state = .settling) (hf : ∀ x, (f x).visit = x.visit)
    (ha : ∀ x, (f x).adoptedActive = x.adoptedActive) :
    (p.modLane l f).entryPass l = p.modLane l fun y =>
      (f y).passed v (.running (p.clock.running + 10000 * (p.settings l).quietTime)) := by
  have hst : (p.modLane l f).settings l = p.settings l := by
    unfold Part.settings Part.adopted; rw [lane_modLane_self, ha]; rfl
  have hv1 : (p.modLane l f).visit l = some v := by
    unfold Part.visit; rw [lane_modLane_self, hf]; exact hv
  have hx : (f (p.lane l)).visit = some v := (hf _).trans hv
  unfold Part.entryPass Part.visitState Part.enterEntering Part.restartQuiet Part.start Part.now Lane.passed
  rw [hst, hv1, ← Nat.mul_assoc]
  dsimp only [Option.map]
  rcases h with h | h
  · simp only [h]
    rw [if_neg (by simp)]
    simp only [modLane_modLane]
    exact modLane_congr _ _ _ _ (by simp)
  · simp only [h, modLane_modLane]
    rw [if_pos trivial]
    exact modLane_congr _ _ _ _ (by simp [hx])

/-- A treadle fault that is disposed of (R76, R78, R83, R84). -/
theorem dispose_fault (p : Part) (l : LaneId) (e : LaneEnd) :
    (p.visit l = none → p.dispose l e .fault = p) ∧ ∀ v, p.visit l = some v →
      (v.state.beforeCapture = false → p.dispose l e .fault = p) ∧
      (v.entry = e → v.state = .entering → p.dispose l e .fault = p.modLane l fun x => { x with
        axleInvalid := true, quietTimer := .running (p.clock.running + 10000 * (p.settings l).quietTime) }) ∧
      (v.entry = e → (v.state = .identify ∨ v.state = .consignWait ∨ v.state = .settling) →
        p.dispose l e .fault = p.modLane l fun x => { x with axleInvalid := true }) ∧
      (v.entry ≠ e → v.state.beforeCapture = true → p.dispose l e .fault = p.modLane l fun x => { x with
        axleInvalid := true, visit := some { v with exitOverrun := true } }) := by
  refine ⟨fun h => by unfold Part.dispose; rw [h], fun v h => ⟨fun hb => ?_, fun he hs => ?_, fun he hs => ?_, fun he hs => ?_⟩⟩
  · have hid : (p.modLane l fun x => { x with exitAxles := x.exitAxles }) = p := by cases l <;> rfl
    unfold Part.dispose
    rw [h]
    cases hs : v.state <;> simp_all [VisitState.beforeCapture, exitCount]
  · have hst : (p.modLane l fun x => { x with axleInvalid := true }).settings l = p.settings l := by cases l <;> rfl
    unfold Part.dispose
    rw [h]
    dsimp only
    rw [if_pos he.symm]
    simp [hs, Part.disposeEntry, Part.markInvalid, Part.visitState, h, VisitState.beforeCapture, Part.restartQuiet,
      modLane_modLane]
    unfold Part.start Part.now
    rw [← Nat.mul_assoc, hst]
    rfl
  · unfold Part.dispose
    rw [h]
    dsimp only
    rw [if_pos he.symm]
    rcases hs with hs | hs | hs <;>
      simp [hs, Part.disposeEntry, Part.markInvalid, Part.visitState, h, VisitState.beforeCapture]
  · have hv : (p.setVisit l { v with exitOverrun := true }).visitState l = some v.state := by cases l <;> rfl
    unfold Part.dispose
    rw [h]
    dsimp only
    rw [if_neg (fun k => he k.symm), if_pos hs, if_pos rfl]
    unfold Part.markInvalid
    rw [hv]
    dsimp only
    rw [if_pos hs]
    unfold Part.setVisit
    rw [modLane_modLane]

end Sys2Proof.Machine
end

