-- ==== Sys2Proof/Laws/PerInstr.lean ====
section
/-! SUPPORT. The statements made of each command as syntax: a well-formed command that carries a frame carries one that
starts at its delimiter (11.2). -/

namespace Sys2Proof.Laws.Framed

/-- The frame that a command carries as it stood on its link. -/
def wire : Instr → Option (List Byte)
  | .sampleFrame _ w => some w
  | .tagFrame _ w => some w
  | .yardFrameDrop w => some w
  | _ => none

/-- A frame of a well-formed command starts at its delimiter. -/
def Statement (i : Instr) : Prop := i.wf = true → ∀ w, wire i = some w → w.head? = some Machine.delimiter

theorem head_of_isFrame (w : List Byte) (h : isFrame w = true) : w.head? = some Machine.delimiter := by
  cases w with
  | nil => simp [isFrame] at h
  | cons b w => simpa [isFrame] using h

theorem of_wire_none (i : Instr) (h : wire i = none) : Statement i := by
  intro _ w hw
  rw [h] at hw
  simp at hw

theorem of_wire (i : Instr) (w : List Byte) (h : wire i = some w) (hw : i.wf = isFrame w) : Statement i := by
  intro k v hv
  rw [h] at hv
  cases hv
  exact head_of_isFrame w (hw ▸ k)

theorem sampleFrame (link : DeckId) (wire : List Byte) : Statement (.sampleFrame link wire) := of_wire _ wire rfl rfl
theorem sampleTimeoutExpiry (deck : DeckId) : Statement (.sampleTimeoutExpiry deck) := of_wire_none _ rfl
theorem clearanceTimerExpiry (deck : DeckId) : Statement (.clearanceTimerExpiry deck) := of_wire_none _ rfl
theorem tagFrame (wait : Nat) (wire : List Byte) : Statement (.tagFrame wait wire) := of_wire _ wire rfl rfl
theorem treadleEdge (lane : LaneId) (atEnd : LaneEnd) (line : Treadle) (wait : Nat) (taken : Bool) : Statement (.treadleEdge lane atEnd line wait taken) := of_wire_none _ rfl
theorem windowExpiry (lane : LaneId) (atEnd : LaneEnd) : Statement (.windowExpiry lane atEnd) := of_wire_none _ rfl
theorem beamLevelChange (lane : LaneId) (atEnd : LaneEnd) (blocked : Bool) : Statement (.beamLevelChange lane atEnd blocked) := of_wire_none _ rfl
theorem beamDebounceExpiry (lane : LaneId) (atEnd : LaneEnd) : Statement (.beamDebounceExpiry lane atEnd) := of_wire_none _ rfl
theorem barrierSwitchChange (lane : LaneId) (atEnd : LaneEnd) (up : Bool) (down : Bool) : Statement (.barrierSwitchChange lane atEnd up down) := of_wire_none _ rfl
theorem supervisionTimerExpiry (lane : LaneId) (atEnd : LaneEnd) : Statement (.supervisionTimerExpiry lane atEnd) := of_wire_none _ rfl
theorem laneStopEdge (lane : LaneId) (active : Bool) : Statement (.laneStopEdge lane active) := of_wire_none _ rfl
theorem identityTimeout (lane : LaneId) : Statement (.identityTimeout lane) := of_wire_none _ rfl
theorem consignTimeout (lane : LaneId) : Statement (.consignTimeout lane) := of_wire_none _ rfl
theorem quietTimerExpiry (lane : LaneId) : Statement (.quietTimerExpiry lane) := of_wire_none _ rfl
theorem settleCompletion (lane : LaneId) : Statement (.settleCompletion lane) := of_wire_none _ rfl
theorem dwellTimerExpiry (lane : LaneId) : Statement (.dwellTimerExpiry lane) := of_wire_none _ rfl
theorem clearTimerExpiry (lane : LaneId) : Statement (.clearTimerExpiry lane) := of_wire_none _ rfl
theorem minuteBoundary : Statement .minuteBoundary := of_wire_none _ rfl
theorem siteClockWrap : Statement .siteClockWrap := of_wire_none _ rfl
theorem auditWaitExpiry : Statement .auditWaitExpiry := of_wire_none _ rfl
theorem stepTimerExpiry : Statement .stepTimerExpiry := of_wire_none _ rfl
theorem holdTimerExpiry : Statement .holdTimerExpiry := of_wire_none _ rfl
theorem portGrant : Statement .portGrant := of_wire_none _ rfl
theorem storeHoldGrant : Statement .storeHoldGrant := of_wire_none _ rfl
theorem trailRecordWritten : Statement .trailRecordWritten := of_wire_none _ rfl
theorem trailReadMarkWritten : Statement .trailReadMarkWritten := of_wire_none _ rfl
theorem ticketWritten : Statement .ticketWritten := of_wire_none _ rfl
theorem ticketReadMarkWritten : Statement .ticketReadMarkWritten := of_wire_none _ rfl
theorem mirrorRecordWritten : Statement .mirrorRecordWritten := of_wire_none _ rfl
theorem classRecordWritten : Statement .classRecordWritten := of_wire_none _ rfl
theorem settingsImageWritten : Statement .settingsImageWritten := of_wire_none _ rfl
theorem registerRecordWritten : Statement .registerRecordWritten := of_wire_none _ rfl
theorem calibrationImageWritten : Statement .calibrationImageWritten := of_wire_none _ rfl
theorem ticketFetchRead : Statement .ticketFetchRead := of_wire_none _ rfl
theorem trailFetchRead : Statement .trailFetchRead := of_wire_none _ rfl
theorem holdReadDone : Statement .holdReadDone := of_wire_none _ rfl
theorem recordWriteFailed : Statement .recordWriteFailed := of_wire_none _ rfl
theorem yardFrameDrop (wire : List Byte) : Statement (.yardFrameDrop wire) := of_wire _ wire rfl rfl
theorem frameSent : Statement .frameSent := of_wire_none _ rfl
theorem status (corr : U16) : Statement (.status corr) := of_wire_none _ rfl
theorem timeSet (corr : U16) (seconds : U32) (millis : U16) : Statement (.timeSet corr seconds millis) := of_wire_none _ rfl
theorem restart (corr : U16) (force : Coded Bool) : Statement (.restart corr force) := of_wire_none _ rfl
theorem laneOpen (corr : U16) (lane : Byte) : Statement (.laneOpen corr lane) := of_wire_none _ rfl
theorem laneClose (corr : U16) (lane : Byte) : Statement (.laneClose corr lane) := of_wire_none _ rfl
theorem admitVehicle (corr : U16) (lane : Byte) (atEnd : Coded LaneEnd) (vehicle : List Byte) : Statement (.admitVehicle corr lane atEnd vehicle) := of_wire_none _ rfl
theorem consign (corr : U16) (vehicle : List Byte) (consignment : Consignment) : Statement (.consign corr vehicle consignment) := of_wire_none _ rfl
theorem release (corr : U16) (lane : Byte) : Statement (.release corr lane) := of_wire_none _ rfl
theorem visitAbort (corr : U16) (lane : Byte) : Statement (.visitAbort corr lane) := of_wire_none _ rfl
theorem cancelPending (corr : U16) (vehicle : List Byte) : Statement (.cancelPending corr vehicle) := of_wire_none _ rfl
theorem pendingRead (corr : U16) (index : Byte) : Statement (.pendingRead corr index) := of_wire_none _ rfl
theorem ticketFetch (corr : U16) : Statement (.ticketFetch corr) := of_wire_none _ rfl
theorem ticketAck (corr : U16) (serial : U32) : Statement (.ticketAck corr serial) := of_wire_none _ rfl
theorem trailFetch (corr : U16) : Statement (.trailFetch corr) := of_wire_none _ rfl
theorem trailAck (corr : U16) (sequence : U32) : Statement (.trailAck corr sequence) := of_wire_none _ rfl
theorem tableWrite (corr : U16) (table : Coded TableId) (index : Byte) (entry : List Byte) : Statement (.tableWrite corr table index entry) := of_wire_none _ rfl
theorem tableRead (corr : U16) (table : Coded TableId) (index : Byte) : Statement (.tableRead corr table index) := of_wire_none _ rfl
theorem tableCommit (corr : U16) (table : Coded TableId) (crc : U32) : Statement (.tableCommit corr table crc) := of_wire_none _ rfl
theorem tableDiscard (corr : U16) (table : Coded TableId) : Statement (.tableDiscard corr table) := of_wire_none _ rfl
theorem registerPut (corr : U16) (index : U16) (entry : List Byte) : Statement (.registerPut corr index entry) := of_wire_none _ rfl
theorem registerRemove (corr : U16) (index : U16) : Statement (.registerRemove corr index) := of_wire_none _ rfl
theorem registerGet (corr : U16) (index : U16) : Statement (.registerGet corr index) := of_wire_none _ rfl
theorem auditOpen (corr : U16) (deck : Byte) (reason : Coded AuditReason) : Statement (.auditOpen corr deck reason) := of_wire_none _ rfl
theorem auditStep (corr : U16) (kind : Coded StepKind) (reference : U32) (cell : Option Byte) : Statement (.auditStep corr kind reference cell) := of_wire_none _ rfl
theorem calWrite (corr : U16) (deck : Byte) (entry : List Byte) (calEn : Bool) : Statement (.calWrite corr deck entry calEn) := of_wire_none _ rfl
theorem zeroSet (corr : U16) (deck : Byte) : Statement (.zeroSet corr deck) := of_wire_none _ rfl
theorem auditClose (corr : U16) : Statement (.auditClose corr) := of_wire_none _ rfl
theorem auditAbort (corr : U16) : Statement (.auditAbort corr) := of_wire_none _ rfl
theorem storeHold (corr : U16) : Statement (.storeHold corr) := of_wire_none _ rfl
theorem storeRelease (corr : U16) : Statement (.storeRelease corr) := of_wire_none _ rfl
theorem holdRead (corr : U16) (address : U32) (length : U16) : Statement (.holdRead corr address length) := of_wire_none _ rfl
theorem powerOn : Statement .powerOn := of_wire_none _ rfl
theorem lineReset : Statement .lineReset := of_wire_none _ rfl
theorem lineResetRelease : Statement .lineResetRelease := of_wire_none _ rfl
theorem unknownRequest (corr : U16) (code : Option Byte) (arguments : List Byte) :
    Statement (.unknownRequest corr code arguments) := of_wire_none _ rfl
theorem treadleLatchTaken (lane : LaneId) (atEnd : LaneEnd) (line : Treadle) : Statement (.treadleLatchTaken lane atEnd line) := of_wire_none _ rfl
theorem monitorSet (corr : U16) (selection : Option (Byte × Byte)) : Statement (.monitorSet corr selection) := of_wire_none _ rfl
theorem startup (failedWrite : Option (Fin 3)) : Statement (.startup failedWrite) := of_wire_none _ rfl

end Sys2Proof.Laws.Framed
end

