-- ==== Sys2Proof/Laws/Scan.lean ====
section
/-! SUPPORT. What the scan of a ring region of the record memory restores (R124, R177). -/

namespace Sys2Proof.Machine

section
variable {α : Type} {m : List Host.Cell} {k : SlotKind} {read : List Byte → Option (Nat × α)}

theorem slots_pos (k : SlotKind) : 0 < k.slots := by cases k <;> decide

/-- The numbers that the scan finds are those of the valid slots that hold their own number. -/
theorem found_iff_holds (n : Nat) : n ∈ (scanSlots m k read).map (·.1) ↔ holdsNumber m k read n := by
  unfold scanSlots holdsNumber
  simp only [List.mem_map, List.mem_filterMap, List.mem_range]
  constructor
  · rintro ⟨⟨a, x⟩, ⟨i, hi, h⟩, rfl⟩
    simp only [Option.bind_eq_some_iff] at h
    obtain ⟨⟨b, y⟩, ⟨bs, h1, h2⟩, h3⟩ := h
    split at h3
    · rename_i hr
      cases h3
      dsimp only at hr ⊢
      exact ⟨bs, x, by rw [hr]; exact h1, h2⟩
    · cases h3
  · rintro ⟨bs, x, h1, h2⟩
    refine ⟨(n, x), ⟨ringSlot k n, Nat.mod_lt _ (slots_pos k), ?_⟩, rfl⟩
    rw [h1]; simp [h2]

/-- One slot holds one number. -/
theorem holds_unique {a b : Nat} (ha : holdsNumber m k read a) (hb : holdsNumber m k read b)
    (h : ringSlot k a = ringSlot k b) : a = b := by
  obtain ⟨bs, x, h1, h2⟩ := ha
  obtain ⟨cs, y, h3, h4⟩ := hb
  rw [h, h3] at h1
  cases h1
  rw [h2] at h4
  cases h4
  rfl

/-- The slot of number `n` is invalid: it holds no number that belongs to it. -/
theorem slotNumber_none (n : Nat) : slotNumber ((scanSlots m k read).map (·.1)) k n = none ↔
    ∀ j, ringSlot k j = ringSlot k n → ¬ holdsNumber m k read j := by
  unfold slotNumber
  simp only [List.find?_eq_none, decide_eq_true_eq, found_iff_holds]
  exact ⟨fun h j hj hh => h j hh hj, fun h j hj hh => h j hh hj⟩

theorem slotNumber_self (n : Nat) : slotNumber ((scanSlots m k read).map (·.1)) k n = some n ↔ holdsNumber m k read n := by
  have found : ∀ x, slotNumber ((scanSlots m k read).map (·.1)) k n = some x →
      holdsNumber m k read x ∧ ringSlot k x = ringSlot k n := fun x h =>
    ⟨(found_iff_holds x).mp (List.mem_of_find?_eq_some h), by simpa using List.find?_some h⟩
  refine ⟨fun h => (found n h).1, fun h => ?_⟩
  cases hh : slotNumber ((scanSlots m k read).map (·.1)) k n with
  | none => exact absurd h ((slotNumber_none n).mp hh n rfl)
  | some x => rw [holds_unique (found x hh).1 h (found x hh).2]

/-- The run back keeps to this: it has come down to `low`, and between `n` and `high` no slot has ended it. -/
theorem runBack_lowest (at_ : Nat → Option Nat) (high : Nat) : ∀ fuel n low, n < low → low ≤ high → at_ low = some low →
    (∀ j, n < j → j < high → at_ j = some j ∨ at_ j = none) → (∀ j, n < j → j < low → at_ j ≠ some j) →
    let r := runBack at_ fuel n low
    (r ≤ low ∧ at_ r = some r ∧ (r = low ∨ 1 ≤ r ∧ r ≤ n ∧ n - r < fuel) ∧
      ∀ j, r < j → j < high → at_ j = some j ∨ at_ j = none) ∧
    ∀ i, at_ i = some i → n - i < fuel + (if n < i then 1 else 0) → 1 ≤ i → i ≤ low →
      (∀ j, i < j → j < high → at_ j = some j ∨ at_ j = none) → r ≤ i := by
  intro fuel
  induction fuel with
  | zero =>
    intro n low h1 h2 h3 h4 h5
    simp only [runBack]
    refine ⟨⟨le_refl _, h3, .inl trivial, fun j a b => h4 j (by omega) b⟩, fun i a b _ _ _ => ?_⟩
    split at b
    · rename_i hni
      exact not_lt.mp fun hlt => h5 i hni hlt a
    · omega
  | succ fuel ih =>
    intro n low h1 h2 h3 h4 h5
    have stop : (low ≤ low ∧ at_ low = some low ∧ (low = low ∨ 1 ≤ low ∧ low ≤ n ∧ n - low < fuel + 1) ∧
        ∀ j, low < j → j < high → at_ j = some j ∨ at_ j = none) :=
      ⟨le_refl _, h3, .inl rfl, fun j a b => h4 j (by omega) b⟩
    simp only [runBack]
    by_cases hn : n = 0
    · rw [if_pos hn]
      exact ⟨stop, fun i a _ _ _ _ => not_lt.mp fun hlt => h5 i (by omega) hlt a⟩
    · rw [if_neg hn]
      cases hx : at_ n with
      | none =>
        dsimp only
        obtain ⟨⟨r1, r2, r3, r4⟩, r5⟩ := ih (n - 1) low (by omega) h2 h3
          (fun j a b => by
            by_cases hj : j = n
            · exact .inr (hj ▸ hx)
            · exact h4 j (by omega) b)
          (fun j a b => by
            by_cases hj : j = n
            · rw [hj, hx]; simp
            · exact h5 j (by omega) b)
        refine ⟨⟨r1, r2, r3.imp_right fun h => ⟨h.1, by omega⟩, r4⟩, fun i a b c e d => r5 i a ?_ c e d⟩
        have : i ≠ n := fun h => by rw [h, hx] at a; cases a
        split at b <;> split <;> omega
      | some x =>
        dsimp only
        by_cases hxn : x = n
        · subst hxn
          rw [if_pos rfl]
          obtain ⟨⟨r1, r2, r3, r4⟩, r5⟩ := ih (x - 1) x (by omega) (by omega) hx
            (fun j a b => by
              by_cases hj : j = x
              · exact .inl (hj ▸ hx)
              · exact h4 j (by omega) b)
            (fun j a b => by omega)
          refine ⟨⟨by omega, r2, .inr (by omega), r4⟩, fun i a b c e d => ?_⟩
          by_cases hi : i ≤ x
          · refine r5 i a ?_ c hi d
            split at b <;> split <;> omega
          · omega
        · rw [if_neg hxn]
          refine ⟨stop, fun i a b c e d => not_lt.mp fun hlt => ?_⟩
          rcases lt_trichotomy n i with hi | hi | hi
          · exact h5 i hi hlt a
          · rw [← hi, hx] at a; cases a; exact hxn rfl
          · rcases d n hi (by omega) with h | h <;> rw [hx] at h <;> cases h
            exact hxn rfl

/-- The positions that startup takes from a ring region are those of the scan (R124, R177), where no record carries 0. -/
theorem positions_scanned (mark : Option Nat) (h0 : ¬ holdsNumber m k read 0) :
    scanned m k read mark (positions ((scanSlots m k read).map (·.1)) k mark).1
      (positions ((scanSlots m k read).map (·.1)) k mark).2 := by
  unfold scanned
  dsimp only
  set found := (scanSlots m k read).map (·.1) with hf
  have top := List.max?_eq_some_iff.mp (List.max?_cons' (x := 0) (xs := found))
  refine ⟨fun h => ?_, fun high hh hmax => ?_⟩
  · have : found = [] := List.eq_nil_iff_forall_not_mem.mpr fun n hn => h n ((found_iff_holds n).mp hn)
    rw [this]; exact ⟨rfl, rfl⟩
  · have hp : 0 < high := Nat.pos_of_ne_zero fun h => h0 (h ▸ hh)
    have e : found.foldl max 0 = high := by
      have a := top.2 high (List.mem_cons_of_mem _ ((found_iff_holds high).mpr hh))
      rcases List.mem_cons.mp top.1 with h | h
      · omega
      · have := hmax _ ((found_iff_holds _).mp h); omega
    have sp := slots_pos k
    have R := runBack_lowest (slotNumber found k) high (k.slots - 1) (high - 1) high (by omega) (le_refl _)
      ((slotNumber_self _).mpr hh) (fun j a b => by omega) (fun j a b => by omega)
    unfold positions
    dsimp only at R ⊢
    rw [e, if_neg (by omega)]
    generalize runBack (slotNumber found k) (k.slots - 1) (high - 1) high = r at *
    obtain ⟨⟨r1, r2, r3, r4⟩, r5⟩ := R
    have between : ∀ n, (∀ j, n < j → j < high → slotNumber found k j = some j ∨ slotNumber found k j = none) ↔
        ∀ j, n < j → j < high → holdsNumber m k read j ∨ ∀ i, ringSlot k i = ringSlot k j → ¬ holdsNumber m k read i :=
      fun n => forall_congr' fun j => imp_congr_right fun _ => imp_congr_right fun _ =>
        or_congr (slotNumber_self j) (slotNumber_none j)
    have lowest : ∀ n, (holdsNumber m k read n ∧ high - n < k.slots ∧ ∀ j, n < j → j < high →
        holdsNumber m k read j ∨ ∀ i, ringSlot k i = ringSlot k j → ¬ holdsNumber m k read i) → r ≤ n :=
      fun n ⟨a, b, c⟩ => r5 n ((slotNumber_self _).mpr a) (by split <;> omega)
        (Nat.pos_of_ne_zero fun h => h0 (h ▸ a)) (hmax n a) ((between n).mpr c)
    have joins := And.intro ((slotNumber_self _).mp r2) (And.intro (show high - r < k.slots by omega) ((between r).mp r4))
    cases mark with
    | none =>
      refine ⟨rfl, fun low a b => ?_⟩
      rw [le_antisymm (b r joins) (lowest low a)]
      exact ⟨(fun x h => nomatch h), fun _ => rfl⟩
    | some x =>
      dsimp only
      refine ⟨by split <;> rfl, fun low a b => ?_⟩
      rw [le_antisymm (b r joins) (lowest low a)]
      refine ⟨fun y hy l u => ?_, fun h => ?_⟩
      · cases hy; rw [if_pos ⟨l, u⟩]
      · have := h x rfl
        rw [if_neg (by omega)]

end

/-- A ticket record carries no serial 0. -/
theorem ticket_holds_zero (m : List Host.Cell) : ¬ holdsNumber m .ticket readTicket 0 := by
  rintro ⟨bs, x, h1, h2⟩
  unfold readTicket at h2
  simp only [Option.bind_eq_bind, Option.bind_eq_some_iff] at h2
  obtain ⟨_, _, _, _, _, _, _, _, _, _, _, _, _, _, _, _, h⟩ := h2
  split at h
  · have := congrArg (Option.map (·.1)) h
    simp at this; omega
  · cases h

/-- A trail record carries no sequence 0. -/
theorem trail_holds_zero (m : List Host.Cell) : ¬ holdsNumber m .trail readTrail 0 := by
  rintro ⟨bs, x, h1, h2⟩
  unfold readTrail at h2
  simp only [Option.bind_eq_bind, Option.bind_eq_some_iff] at h2
  obtain ⟨_, _, _, _, _, _, _, _, h⟩ := h2
  split at h
  · have := congrArg (Option.map (·.1)) h
    simp at this; omega
  · cases h

theorem restoredTickets_scanned (s : State) : scanned s.mem .ticket readTicket (storedMark s.mem .ticketMark)
    s.restoredTickets.1 s.restoredTickets.2 := positions_scanned _ (ticket_holds_zero _)

theorem restoredTrail_scanned (s : State) : scanned s.mem .trail readTrail (storedMark s.mem .trailMark)
    s.restoredTrail.1 s.restoredTrail.2 := positions_scanned _ (trail_holds_zero _)

end Sys2Proof.Machine
end

