-- ==== Sys2Proof/Laws/Settled.lean ====
section
/-! SUPPORT. What keeps the settings settled: no operation up to an identity (R54, R134) touches the tables, and a lane that
adopts reads the active settings. -/
namespace Sys2Proof.Machine

/-- The settings that are read, and those that a lane may come to adopt, are settled. -/
def Part.readsSettled (p : Part) : Prop := p.settingsSettled ∧ p.tables.settingsActive.settled

/-- What keeps the settings settled. -/
def Part.keepsSettled (p q : Part) : Prop := p.readsSettled → q.readsSettled

theorem keepsSettled_ite {p a b : Part} (c : Prop) [Decidable c] (ha : p.keepsSettled a) (hb : p.keepsSettled b) :
    p.keepsSettled (if c then a else b) := by split <;> assumption

/-- Settings that are read by the same lanes from the same tables. -/
theorem keepsSettled_same {p q r : Part} (h : p.keepsSettled q) (k : r.tables = q.tables)
    (hl : ∀ l, (r.lane l).adoptedActive = (q.lane l).adoptedActive) : p.keepsSettled r := by
  intro hp
  obtain ⟨h1, h2⟩ := h hp
  exact ⟨settled_lane h1 k hl, by rw [k]; exact h2⟩

theorem keepsSettled_lanes {p q r : Part} (h : p.keepsSettled q) (k : r.lanes = q.lanes) (ht : r.tables = q.tables) :
    p.keepsSettled r := keepsSettled_same h ht fun l => by unfold Part.lane; rw [k]

section
variable {p q : Part} (h : p.keepsSettled q)
include h

theorem keepsSettled_notify (b : NoticeBody) : p.keepsSettled (q.notify b) := keepsSettled_lanes h rfl rfl
theorem keepsSettled_modDeck (d : DeckId) (f : Deck → Deck) : p.keepsSettled (q.modDeck d f) := keepsSettled_lanes h rfl rfl
theorem keepsSettled_modAudit (f : AuditUnit → AuditUnit) : p.keepsSettled (q.modAudit f) := keepsSettled_lanes h rfl rfl

theorem keepsSettled_modLane (l : LaneId) (f : Lane → Lane) (k : ∀ x, (f x).adoptedActive = x.adoptedActive) :
    p.keepsSettled (q.modLane l f) := by
  refine keepsSettled_same h rfl fun m => ?_
  rw [lane_modLane]
  split
  · rename_i e; subst e; exact k _
  · rfl

theorem keepsSettled_setVisit (l : LaneId) (v : Visit) : p.keepsSettled (q.setVisit l v) :=
  keepsSettled_modLane h l (fun x => { x with visit := some v }) fun _ => rfl

theorem keepsSettled_handTrail (o : Option DeckId) (b : TrailBody) : p.keepsSettled (q.handTrail o b) :=
  keepsSettled_same h (by rw [(handTrail_facts q o b).1]) fun l => by rw [(handTrail_facts q o b).2 l]

theorem keepsSettled_enterLaneState (l : LaneId) (st : LaneState) : p.keepsSettled (q.enterLaneState l st) := by
  unfold Part.enterLaneState
  refine keepsSettled_ite _ h ?_
  dsimp only
  refine keepsSettled_notify ?_ _
  exact keepsSettled_modLane h l _ fun _ => rfl

theorem keepsSettled_laneClear (l : LaneId) (c : LaneCause) : p.keepsSettled (q.laneClear l c) := by
  unfold Part.laneClear
  have k := keepsSettled_modLane h l (fun x => { x with causes := x.causes.put false c }) fun _ => rfl
  exact keepsSettled_ite _ (keepsSettled_ite _ (keepsSettled_enterLaneState k l _) k) h

theorem keepsSettled_laneRaiseIdle (l : LaneId) (c : LaneCause) : p.keepsSettled (q.laneRaiseIdle l c) := by
  unfold Part.laneRaiseIdle
  have k := keepsSettled_modLane h l (fun x => { x with causes := x.causes.put true c }) fun _ => rfl
  exact keepsSettled_ite _ h (keepsSettled_ite _ (keepsSettled_enterLaneState k l _) k)

theorem keepsSettled_clearDeckFault (l : LaneId) : p.keepsSettled (q.clearDeckFault l) := by
  unfold Part.clearDeckFault
  exact keepsSettled_ite _ (keepsSettled_laneClear h l _) h

/-- A lane that adopts the active settings reads settled ones. -/
theorem keepsSettled_adopt (l : LaneId) : p.keepsSettled (q.adopt l) := by
  intro hp
  obtain ⟨⟨h0, h1, h2⟩, ha⟩ := h hp
  have k0 : (q.modLane l fun x => { x with adoptedActive := true, adoptedValid := true }).readsSettled := by
    refine ⟨⟨?_, ?_, h2⟩, ha⟩
    · unfold Part.adopted; rw [lane_modLane]; split
      · exact ha.1
      · exact h0
    · unfold Part.adopted; rw [lane_modLane]; split
      · exact ha.2.1
      · exact h1
  unfold Part.adopt
  dsimp only
  have k1 : p.keepsSettled (q.modLane l fun x => { x with adoptedActive := true, adoptedValid := true }) := fun _ => k0
  have k2 := keepsSettled_laneClear k1 l .settingsParity
  generalize ((q.modLane l fun x => { x with adoptedActive := true, adoptedValid := true }).laneClear l .settingsParity) = r at *
  have k3 := keepsSettled_ite ((r.tables.settingsActive.lanes.get l).damaged = true)
    (keepsSettled_laneRaiseIdle k2 l .settingsParity) k2
  generalize (if (r.tables.settingsActive.lanes.get l).damaged = true then r.laneRaiseIdle l .settingsParity else r) = t at *
  obtain ⟨⟨t0, t1, t2⟩, ta⟩ := k3 hp
  by_cases hb : (t.lane l.other).adoptedActive = true
  · rw [if_pos hb]
    have e : ∀ m, (t.modTables fun x => { x with settingsPrevious := none }).adopted m = t.tables.settingsActive := by
      intro m; unfold Part.adopted; split <;> rfl
    refine ⟨⟨?_, ?_, ?_⟩, ta⟩
    · show (((t.modTables fun x => { x with settingsPrevious := none }).adopted .l0).lanes.get .l0).settled
      rw [e]; exact ta.1
    · show (((t.modTables fun x => { x with settingsPrevious := none }).adopted .l1).lanes.get .l1).settled
      rw [e]; exact ta.2.1
    · exact ta.2.2
  · rw [if_neg hb]; exact ⟨⟨t0, t1, t2⟩, ta⟩

theorem keepsSettled_completeStep (r : Option Reading) : p.keepsSettled (q.completeStep r) := by
  unfold Part.completeStep
  split
  · exact h
  · split
    · exact keepsSettled_notify (keepsSettled_handTrail (keepsSettled_modAudit h _) _ _) _
    · exact h

theorem keepsSettled_windowRestart (d : DeckId) : p.keepsSettled (q.windowRestart d) := by
  unfold Part.windowRestart
  exact keepsSettled_ite _ (keepsSettled_completeStep (keepsSettled_modDeck h d _) _) (keepsSettled_modDeck h d _)

theorem keepsSettled_serviceHead (d : DeckId) (n : ServiceState) : p.keepsSettled (q.serviceHead d n) := by
  unfold Part.serviceHead
  dsimp only
  have k := keepsSettled_windowRestart (keepsSettled_handTrail
    (keepsSettled_modDeck h d fun x => { x with service := n }) (some d) (.service (q.deck d).service n
      ((q.modDeck d fun x => { x with service := n }).deck d).causes)) d
  exact keepsSettled_ite _ (keepsSettled_modDeck k d _) k

theorem keepsSettled_markImage (d : DeckId) : p.keepsSettled (q.markImage d) := by
  unfold Part.markImage
  exact keepsSettled_ite _ h (keepsSettled_lanes h rfl rfl)

theorem keepsSettled_serviceTail (d : DeckId) (o n : ServiceState) :
    p.keepsSettled (q.serviceTail d o n) :=
  keepsSettled_lanes h (by rw [(serviceTail_facts q d o n).1]) (by rw [(serviceTail_facts q d o n).1])

theorem keepsSettled_serviceToAudit (d : DeckId) : p.keepsSettled (q.serviceToAudit d) := by
  unfold Part.serviceToAudit
  have k := keepsSettled_serviceHead h d .audit
  exact keepsSettled_serviceTail (keepsSettled_ite _ (keepsSettled_clearDeckFault k _) k) d _ _

theorem keepsSettled_activate (s : Session) : p.keepsSettled (q.activate s) := by
  unfold Part.activate
  refine keepsSettled_notify (keepsSettled_markImage (keepsSettled_modDeck (keepsSettled_serviceToAudit
    (keepsSettled_handTrail (keepsSettled_enterLaneState ?_ _ _) _ _) _) _ _) _) _
  exact keepsSettled_modLane (keepsSettled_modAudit h _) _ _ fun _ => rfl

theorem keepsSettled_settleLaneState (l : LaneId) : p.keepsSettled (q.settleLaneState l) := by
  unfold Part.settleLaneState
  exact keepsSettled_ite _ (keepsSettled_enterLaneState h l _) h

theorem keepsSettled_startPendingAudit (l : LaneId) : p.keepsSettled (q.startPendingAudit l) := by
  unfold Part.startPendingAudit
  split
  · exact h
  · exact keepsSettled_ite _ (keepsSettled_activate h _) h

theorem keepsSettled_closeStep (l : LaneId) (c : Bool) : p.keepsSettled (q.closeStep l c) := by
  unfold Part.closeStep
  split
  · exact h
  · rename_i v hv
    dsimp only
    have h0 : p.keepsSettled (q.enterExitAxles l v.count (q.lane l).exitAxles) := keepsSettled_lanes h rfl rfl
    have h1 := keepsSettled_modLane h0 l (fun x => x.enterExit.emptySlot) fun _ => rfl
    have h2 := keepsSettled_ite (c = true) (keepsSettled_notify h1
      (.visitClosed l v.count v.kind (v.capture.map (·.gross)) v.abort (q.lane l).exitAxles)) h1
    refine keepsSettled_startPendingAudit (keepsSettled_settleLaneState ?_ l) l
    generalize (if c = true then ((q.enterExitAxles l v.count (q.lane l).exitAxles).modLane l fun x => x.enterExit.emptySlot).notify
      (.visitClosed l v.count v.kind (v.capture.map (·.gross)) v.abort (q.lane l).exitAxles)
      else (q.enterExitAxles l v.count (q.lane l).exitAxles).modLane l fun x => x.enterExit.emptySlot) = r at h2 ⊢
    exact keepsSettled_ite _ h2 (keepsSettled_adopt h2 l)

theorem keepsSettled_setSlot (i : Nat) (e : Option PendingEntry) : p.keepsSettled (q.setSlot i e) :=
  keepsSettled_lanes h (by rw [setSlot_rest]) (by rw [setSlot_rest])

theorem keepsSettled_releasePending (v : Visit) : p.keepsSettled (q.releasePending v) := by
  unfold Part.releasePending
  repeat' split
  all_goals first | exact h | exact keepsSettled_setSlot h _ _

theorem keepsSettled_abortEffect (l : LaneId) (v : Visit) (r : AbortReason) :
    p.keepsSettled (q.abortEffect l v r) := by
  unfold Part.abortEffect
  dsimp only
  refine keepsSettled_releasePending (keepsSettled_notify ?_ _) v
  exact keepsSettled_modLane h l _ fun _ => rfl

theorem keepsSettled_endAtOnce (l : LaneId) (r : AbortReason) : p.keepsSettled (q.endAtOnce l r) := by
  unfold Part.endAtOnce
  split
  · exact h
  · exact keepsSettled_closeStep (keepsSettled_abortEffect h l _ r) l false

end

theorem keepsSettled_refl (p : Part) : p.keepsSettled p := id

theorem reserve_same (p : Part) (i : Nat) (v : VehicleId) (r : Option Nat) :
    (p.reserve i v r).tables = p.tables ∧ (p.reserve i v r).lanes = p.lanes := by
  have base : ∀ q : Part, q.renumber.tables = q.tables ∧ q.renumber.lanes = q.lanes := by
    intro q
    by_cases h : q.pairing.nextCreation ≤ creationLimit
    · rw [show q.renumber = q from if_pos h]
      exact ⟨rfl, rfl⟩
    · obtain ⟨_, ⟨_, _, _, k⟩, _⟩ := renumber_facts q (Nat.not_le.mp h)
      rw [k]
      exact ⟨rfl, rfl⟩
  unfold Part.reserve
  dsimp only
  obtain ⟨a, b⟩ := base ((p.setSlot i (some { vehicle := v, regIndex := r, state := .reserved, creation := p.pairing.nextCreation })).modPairing
    fun x => { x with nextCreation := x.nextCreation + 1 })
  rw [a, b]
  constructor
  · show (p.setSlot i _).tables = _; rw [setSlot_rest]
  · show (p.setSlot i _).lanes = _; rw [setSlot_rest]

theorem keepsSettled_enterEntering {p q : Part} (h : p.keepsSettled q) (l : LaneId) : p.keepsSettled (q.enterEntering l) :=
  keepsSettled_modLane h l _ fun _ => rfl

theorem keepsSettled_consignStep {p q : Part} (h : p.keepsSettled q) (l : LaneId) (v : Visit) (id : VehicleId) :
    p.keepsSettled (q.consignStep l v id) := by
  unfold Part.consignStep
  split
  · exact keepsSettled_enterEntering
      (keepsSettled_setVisit (q := q.dropConsignment id) (keepsSettled_lanes h rfl rfl) l _) l
  · dsimp only
    generalize q.start (1000 * (q.settings l).consignTimeout) = t
    exact keepsSettled_modLane (keepsSettled_setVisit h l _) l (fun x => { x with waitTimer := t }) fun _ => rfl

/-- An identity leaves the settings settled. -/
theorem setIdentity_settled (p : Part) (l : LaneId) (id : Identity) (h : p.readsSettled) :
    (p.setIdentity l id).readsSettled := by
  suffices p.keepsSettled (p.setIdentity l id) from this h
  unfold Part.setIdentity
  split
  · exact keepsSettled_refl p
  · rename_i v hv
    dsimp only
    generalize p.start (1000 * (p.settings l).dwellLimit) = t
    have k : p.keepsSettled ((p.setVisit l
        { v with vehicle := some id.vehicle, regIndex := id.regIndex, permits := id.permits, preset := id.preset }).modLane l
          fun y => { y with dwellTimer := t, waitTimer := .stopped }) :=
      keepsSettled_modLane (keepsSettled_setVisit (keepsSettled_refl p) l _) l
        (fun y => { y with dwellTimer := t, waitTimer := .stopped }) fun _ => rfl
    revert k
    generalize ((p.setVisit l _).modLane l _) = q
    intro k
    unfold Part.classify
    refine keepsSettled_ite _ (keepsSettled_endAtOnce k l _) ?_
    split
    · split
      · exact keepsSettled_enterEntering (keepsSettled_setVisit (keepsSettled_setSlot k _ _) l _) l
      · exact keepsSettled_endAtOnce k l _
    · split
      · rename_i j _
        obtain ⟨a, b⟩ := reserve_same q j id.vehicle id.regIndex
        exact keepsSettled_consignStep (keepsSettled_lanes k b a) l _ _
      · rw [checkSite_settled q (k h).1]
        unfold Part.classifyFull
        split
        · exact k
        · exact keepsSettled_ite _ (keepsSettled_consignStep k l _ _) (keepsSettled_endAtOnce k l _)

end Sys2Proof.Machine
end

