-- ==== Sys2Proof/Laws/Step.lean ====
section
/-! SUPPORT. What a command can do, said once: it answers a next state, which is a part at the end of a step, with the
memory after a number of writes and the queue as it was. -/

namespace Sys2Proof.Machine

/-- A memory after writes of runs of bytes, one after the other. -/
def memWrites (m : List Host.Cell) (ws : List (Nat × List Byte)) : List Host.Cell :=
  ws.foldl (fun m w => memWrite m w.1 w.2) m

theorem memWrites_wf (m : List Host.Cell) (ws : List (Nat × List Byte)) (h : Memory.wf m) : Memory.wf (memWrites m ws) := by
  induction ws generalizing m with
  | nil => exact h
  | cons w ws ih => exact ih _ (memWrite_wf m w.1 w.2 h)

/-- What a command makes of a state: a part at the end of a step, the memory after writes, and the queue. -/
def StepsTo (s : State) (o : Host.Outcome State Fault Refusal) : Prop :=
  ∃ t p ws, o = .next t ∧ t.toPart = Part.finish p ∧ t.mem = memWrites s.mem ws ∧ t.pending = s.pending

theorem stepsTo_run (s : State) (f : Part → Part) : StepsTo s (s.run f) := ⟨_, _, [], rfl, rfl, rfl, rfl⟩

theorem stepsTo_written (s : State) (owns : OpKind → Option (Part → Part)) : StepsTo s (s.written owns) := by
  unfold State.written
  split
  · exact stepsTo_run s _
  · split
    · exact stepsTo_run s _
    · exact ⟨_, _, [(_, _)], rfl, rfl, rfl, rfl⟩

theorem stepsTo_readDone (s : State) (owns : Op → Option (List Host.Cell → Part → Part)) : StepsTo s (s.readDone owns) := by
  unfold State.readDone
  split
  · exact stepsTo_run s _
  · split
    · exact stepsTo_run s _
    · exact stepsTo_run s _

theorem stepsTo_failed (s : State) : StepsTo s (execRecordWriteFailed s) := by
  unfold execRecordWriteFailed
  split
  · exact stepsTo_run s _
  · split
    · exact stepsTo_run s _
    · exact ⟨_, _, [(_, _)], rfl, rfl, rfl, rfl⟩

theorem cutMemory_writes (s : State) : ∃ ws, s.cutMemory = memWrites s.mem ws := by
  unfold State.cutMemory
  split
  · exact ⟨[], rfl⟩
  · split
    · exact ⟨[], rfl⟩
    · split
      · exact ⟨[], rfl⟩
      · exact ⟨[(_, _)], rfl⟩

theorem stepsTo_reset (s : State) (phase : Phase) (cause : ResetCause) (clock : Clock) :
    StepsTo s (s.resetTo phase cause clock) := by
  obtain ⟨ws, h⟩ := cutMemory_writes s
  exact ⟨_, _, ws, rfl, rfl, h, rfl⟩

theorem stepsTo_frameSent (s : State) : StepsTo s (execFrameSent s) := by
  unfold execFrameSent
  split
  · exact stepsTo_reset s _ _ _
  · exact stepsTo_run s _

theorem bootWrite_writes (k : SlotKind) (i : Nat) (bs : List Byte) (fails : Bool) (b : Part × List Host.Cell) :
    ∃ ws, (bootWrite k i bs fails b).2 = memWrites b.2 ws := by
  unfold bootWrite
  split
  · exact ⟨[], rfl⟩
  · split
    · exact ⟨[(_, _)], rfl⟩
    · exact ⟨[(_, _)], rfl⟩

theorem bootMark_writes (k : SlotKind) (n : Nat) (fails : Bool) (b : Part × List Host.Cell) :
    ∃ ws, (bootMark k n fails b).2 = memWrites b.2 ws := by
  unfold bootMark
  split
  · exact ⟨[], rfl⟩
  · exact bootWrite_writes k 0 _ fails b

theorem bootRestart_writes (c : StartupCounts) (fails : Bool) (b : Part × List Host.Cell) :
    ∃ ws, (bootRestart c fails b).2 = memWrites b.2 ws := by
  unfold bootRestart
  dsimp only
  split
  · exact ⟨[], rfl⟩
  · split
    · exact bootWrite_writes .trail _ _ fails b
    · exact bootWrite_writes .trail _ _ fails b

theorem memWrites_append (m : List Host.Cell) (u v : List (Nat × List Byte)) :
    memWrites (memWrites m u) v = memWrites m (u ++ v) := by
  unfold memWrites
  rw [List.foldl_append]

/-- Startup ends in a part at the end of a step, and writes to the memory at most. -/
theorem boot_writes (failed : Option (Fin 3)) (p : Part) (m : List Host.Cell) :
    (∃ q, (boot failed p m).1 = Part.finish q) ∧ ∃ ws, (boot failed p m).2 = memWrites m ws := by
  unfold boot
  dsimp only
  obtain ⟨u, hu⟩ := bootMark_writes .ticketMark (p.restore m).tickets.oldestUnread (failed == some 0) (p.restore m, m)
  generalize bootMark .ticketMark (p.restore m).tickets.oldestUnread (failed == some 0) (p.restore m, m) = b1 at hu ⊢
  obtain ⟨v, hv⟩ := bootMark_writes .trailMark (p.restore m).audit.trail.oldest (failed == some 1) b1
  generalize bootMark .trailMark (p.restore m).audit.trail.oldest (failed == some 1) b1 = b2 at hv ⊢
  obtain ⟨w, hw⟩ := bootRestart_writes (startupCounts m) (failed == some 2) b2
  generalize bootRestart (startupCounts m) (failed == some 2) b2 = b3 at hw ⊢
  refine ⟨⟨_, rfl⟩, u ++ v ++ w, ?_⟩
  rw [hw, hv, hu, memWrites_append, memWrites_append, List.append_assoc]

theorem stepsTo_startup (failed : Option (Fin 3)) (s : State) : StepsTo s (execStartup failed s) := by
  unfold execStartup
  split
  · obtain ⟨⟨q, hq⟩, ws, hw⟩ := boot_writes failed s.toPart s.mem
    dsimp only
    generalize boot failed s.toPart s.mem = b at hq hw ⊢
    exact ⟨_, q, ws, rfl, hq, hw, rfl⟩
  · exact stepsTo_run s _

/-- What every command can do. -/
theorem exec_stepsTo (c : Instr) (s : State) : StepsTo s (exec c s) := by
  cases c
  case recordWriteFailed => exact stepsTo_failed s
  case startup f => exact stepsTo_startup f s
  case frameSent => exact stepsTo_frameSent s
  case powerOn => exact stepsTo_reset s _ _ _
  case lineReset => exact stepsTo_reset s _ _ _
  case trailRecordWritten =>
    show StepsTo s (execTrailRecordWritten s)
    unfold execTrailRecordWritten
    exact stepsTo_written s _
  case trailReadMarkWritten =>
    show StepsTo s (execTrailReadMarkWritten s)
    unfold execTrailReadMarkWritten
    exact stepsTo_written s _
  case ticketWritten =>
    show StepsTo s (execTicketWritten s)
    unfold execTicketWritten
    exact stepsTo_written s _
  case ticketReadMarkWritten =>
    show StepsTo s (execTicketReadMarkWritten s)
    unfold execTicketReadMarkWritten
    exact stepsTo_written s _
  case mirrorRecordWritten =>
    show StepsTo s (execMirrorRecordWritten s)
    unfold execMirrorRecordWritten
    exact stepsTo_written s _
  case classRecordWritten =>
    show StepsTo s (execClassRecordWritten s)
    unfold execClassRecordWritten
    exact stepsTo_written s _
  case settingsImageWritten =>
    show StepsTo s (execSettingsImageWritten s)
    unfold execSettingsImageWritten
    exact stepsTo_written s _
  case registerRecordWritten =>
    show StepsTo s (execRegisterRecordWritten s)
    unfold execRegisterRecordWritten
    exact stepsTo_written s _
  case calibrationImageWritten =>
    show StepsTo s (execCalibrationImageWritten s)
    unfold execCalibrationImageWritten
    exact stepsTo_written s _
  case ticketFetchRead => exact stepsTo_readDone s _
  case trailFetchRead => exact stepsTo_readDone s _
  case holdReadDone => exact stepsTo_readDone s _
  all_goals exact stepsTo_run s _

end Sys2Proof.Machine
end

