-- ==== Sys2Proof/Laws/TableReads.lean ====
section
/-! SUPPORT. What the reads of the entries of a table image, and of the register, make of the part (R127, R129-R132, R137):
the entries that fail are marked damaged, and their PARITY notices are handed over in index order. -/

namespace Sys2Proof.Machine

theorem noteParity_eq {α : Type} (p : Part) (s : Slot α) (what : ParityAt) :
    p.noteParity s what = if s.fails = true then p.notify (.parity what) else p := rfl

/-- The notices of one more entry. -/
theorem parityNotices_concat (entry : Nat → ParityAt) (fs : List Bool) (b : Bool) :
    parityNotices entry (fs ++ [b]) = parityNotices entry fs ++ if b then [.parity (entry fs.length)] else [] := by
  unfold parityNotices
  rw [List.zipIdx_append, List.filter_append, List.map_append]
  cases b <;> simp

/-- Handing over notices changes the link alone. -/
theorem notify_all (bs : List NoticeBody) (p : Part) : bs.foldl Part.notify p = { p with link := p.told bs } := by
  induction bs generalizing p with
  | nil => rfl
  | cons c cs ih => show cs.foldl Part.notify (p.notify c) = _; rw [ih]; rfl

/-- One more notice is handed over after the others. -/
theorem told_concat (p : Part) (bs : List NoticeBody) (b : NoticeBody) :
    p.told (bs ++ [b]) = (({ p with link := p.told bs } : Part).notify b).link := by
  show ((bs ++ [b]).foldl Part.notify p).link = _
  rw [List.foldl_append, notify_all bs p]
  rfl

/-- The first `n` class entries of an image, those that `reads` picks, are read. -/
def readUpTo (z : Vector (Slot (Option ClassEntry)) 48) (reads : Nat → Bool) (n : Nat) :
    Vector (Slot (Option ClassEntry)) 48 := z.mapIdx fun i x => if i < n ∧ reads i = true then x.checked else x

theorem readUpTo_zero (z : Vector (Slot (Option ClassEntry)) 48) (reads : Nat → Bool) : readUpTo z reads 0 = z := by
  apply Vector.ext; intro i _; simp [readUpTo]

theorem readUpTo_succ (z : Vector (Slot (Option ClassEntry)) 48) (reads : Nat → Bool) (n : Nat) (h : n < 48) :
    readUpTo z reads (n + 1) =
      if reads n = true then (readUpTo z reads n).setIfInBounds n z[n].checked else readUpTo z reads n := by
  apply Vector.ext
  intro i hi
  by_cases hr : reads n = true
  · rw [if_pos hr]
    simp only [readUpTo, Vector.getElem_setIfInBounds, Vector.getElem_mapIdx]
    by_cases hin : n = i
    · subst hin; simp [hr]
    · rw [if_neg hin]
      have : i < n ↔ i < n + 1 := by omega
      simp [this]
  · rw [if_neg hr]
    simp only [readUpTo, Vector.getElem_mapIdx]
    by_cases hin : n = i
    · subst hin; simp [hr]
    · have : i < n ↔ i < n + 1 := by omega
      simp [this]

theorem readUpTo_all (z : Vector (Slot (Option ClassEntry)) 48) (reads : Nat → Bool) :
    readUpTo z reads 48 = z.mapIdx fun i x => if reads i = true then x.checked else x := by
  apply Vector.ext
  intro i hi
  simp [readUpTo, hi]

/-- Which of the first `n` entries, of those that `reads` picks, fail at their read. -/
def failsUpTo (z : Vector (Slot (Option ClassEntry)) 48) (reads : Nat → Bool) (n : Nat) : List Bool :=
  (z.toList.take n).mapIdx fun i x => reads i && x.fails

theorem failsUpTo_succ (z : Vector (Slot (Option ClassEntry)) 48) (reads : Nat → Bool) (n : Nat) (h : n < 48) :
    failsUpTo z reads (n + 1) = failsUpTo z reads n ++ [reads n && z[n].fails] := by
  unfold failsUpTo
  rw [List.take_add_one, List.mapIdx_append]
  have : z.toList[n]? = some z[n] := by simp [h]
  rw [this]
  simp [show min n 48 = n by omega]

theorem failsUpTo_all (z : Vector (Slot (Option ClassEntry)) 48) (reads : Nat → Bool) :
    failsUpTo z reads 48 = z.toList.mapIdx fun i x => reads i && x.fails := by
  unfold failsUpTo; rw [List.take_of_length_le (by simp)]

/-- A read, in index order, of the entries of the staged class image that `reads` picks (R127, R131). -/
theorem readStagedWhere (p : Part) (reads : Nat → Bool) :
    ((List.range 48).filter reads).foldl Part.readStagedClass p = { p with
      tables := { p.tables with classStaged := p.tables.classStaged.mapIdx fun i x => if reads i = true then x.checked else x }
      link := p.told (parityNotices (.classEntry .staged) (p.tables.classStaged.toList.mapIdx fun i x => reads i && x.fails)) } := by
  have k : ∀ n, n ≤ 48 → ((List.range n).filter reads).foldl Part.readStagedClass p = { p with
      tables := { p.tables with classStaged := readUpTo p.tables.classStaged reads n }
      link := p.told (parityNotices (.classEntry .staged) (failsUpTo p.tables.classStaged reads n)) } := by
    intro n
    induction n with
    | zero => intro _; rw [readUpTo_zero]; rfl
    | succ n ih =>
      intro h
      have hl : (failsUpTo p.tables.classStaged reads n).length = n := by simp [failsUpTo]; omega
      rw [List.range_succ, List.filter_append, List.foldl_append, ih (by omega), failsUpTo_succ _ _ n (by omega),
        parityNotices_concat, readUpTo_succ _ _ n (by omega), hl]
      by_cases hr : reads n = true
      · have hz : (readUpTo p.tables.classStaged reads n)[n]? = some p.tables.classStaged[n] := by
          simp [readUpTo, show n < 48 by omega]
        rw [show [n].filter reads = [n] by simp [hr], if_pos hr, hr, Bool.true_and]
        show Part.readStagedClass _ n = _
        unfold Part.readStagedClass
        simp only [hz, noteParity_eq]
        by_cases hf : p.tables.classStaged[n].fails = true
        · simp only [hf, if_true, told_concat]; rfl
        · simp only [hf, Bool.false_eq_true, if_false, List.append_nil]; rfl
      · rw [show [n].filter reads = [] by simp [hr], if_neg hr, Bool.eq_false_iff.mpr hr, Bool.false_and]
        simp
  rw [k 48 (by omega), readUpTo_all, failsUpTo_all]

theorem mapIdx_all {α β : Type} (f : α → β) (xs : List α) : (xs.mapIdx fun _ x => f x) = xs.map f := by
  apply List.ext_getElem <;> simp

/-- A read of every entry of the staged class image (R131). -/
theorem readStagedClasses (p : Part) : (List.range 48).foldl Part.readStagedClass p = { p with
    tables := { p.tables with classStaged := p.tables.classStaged.map Slot.checked }
    link := p.told (parityNotices (.classEntry .staged) (p.tables.classStaged.toList.map Slot.fails)) } := by
  have k := readStagedWhere p fun _ => true
  rw [List.filter_true] at k
  rw [k, ← mapIdx_all]
  have h : (p.tables.classStaged.mapIdx fun _ x => if true = true then x.checked else x) = p.tables.classStaged.map Slot.checked := by
    apply Vector.ext; intro i hi; simp
  rw [h]
  rfl

/-- TABLE_DISCARD reads the active class image (R130). -/
theorem readActiveClasses (p : Part) : (List.range 48).foldl Part.readActiveClass p = { p with
    tables := { p.tables with classActive := p.tables.classActive.map Slot.checked }
    link := p.told (parityNotices (.classEntry .active) (p.tables.classActive.toList.map Slot.fails)) } := by
  let every : Nat → Bool := fun _ => true
  have k : ∀ n, n ≤ 48 → (List.range n).foldl Part.readActiveClass p = { p with
      tables := { p.tables with classActive := readUpTo p.tables.classActive every n }
      link := p.told (parityNotices (.classEntry .active) (failsUpTo p.tables.classActive every n)) } := by
    intro n
    induction n with
    | zero => intro _; rw [readUpTo_zero]; rfl
    | succ n ih =>
      intro h
      have hl : (failsUpTo p.tables.classActive every n).length = n := by simp [failsUpTo]; omega
      have hz : (readUpTo p.tables.classActive every n)[n]? = some p.tables.classActive[n] := by
        simp [readUpTo, show n < 48 by omega]
      rw [List.range_succ, List.foldl_append, ih (by omega), failsUpTo_succ _ _ n (by omega), parityNotices_concat,
        readUpTo_succ _ _ n (by omega), hl, if_pos rfl, Bool.true_and]
      show Part.readActiveClass _ n = _
      unfold Part.readActiveClass
      simp only [hz, noteParity_eq]
      by_cases hf : p.tables.classActive[n].fails = true
      · simp only [hf, if_true, told_concat]; rfl
      · simp only [hf, Bool.false_eq_true, if_false, List.append_nil]; rfl
  rw [k 48 (by omega), readUpTo_all, failsUpTo_all, ← mapIdx_all]
  have h : (p.tables.classActive.mapIdx fun i x => if every i = true then x.checked else x) = p.tables.classActive.map Slot.checked := by
    apply Vector.ext; intro i hi; simp [every]
  rw [h]
  rfl

/-! ## A slot after a read (R129) -/

theorem checked_eq {α} (z : Slot α) : z.checked = { z with damaged := z.damaged || z.fails } := by
  rcases z with ⟨v, p, d⟩; unfold Slot.checked Slot.fails; cases p <;> cases d <;> rfl

theorem good_checked {α} (z : Slot α) : z.checked.good = z.good := by
  rcases z with ⟨v, p, d⟩; unfold Slot.checked Slot.good; cases p <;> cases d <;> rfl

/-- The read of a settled slot changes nothing. -/
theorem settled_good {α} {z : Slot α} (h : z.settled) : z.good = !z.damaged ∧ z.checked = z ∧ z.fails = false := by
  rcases z with ⟨v, p, d⟩; unfold Slot.settled at h; unfold Slot.good Slot.checked Slot.fails
  cases p <;> cases d <;> simp_all

theorem good_settled {α} {z : Slot α} (h : z.good = true) : z.settled ∧ z.damaged = false := by
  rcases z with ⟨v, p, d⟩; unfold Slot.good at h; unfold Slot.settled; simp_all

/-- A slot that a read finds failing is not good. -/
theorem fails_facts {α} {z : Slot α} (h : z.fails = true) : z.damaged = false ∧ z.parityOk = false ∧ z.good = false := by
  rcases z with ⟨v, p, d⟩; unfold Slot.fails at h; unfold Slot.good; simp_all

/-! ## Reads of the entries of a settings image (R130, R131) -/

theorem readStagedLane_eq (p : Part) (l : LaneId) : p.readStagedLane l = { p with
    tables := { p.tables with settingsStaged := { p.tables.settingsStaged with
      lanes := p.tables.settingsStaged.lanes.set l (p.tables.settingsStaged.lanes.get l).checked } }
    link := if (p.tables.settingsStaged.lanes.get l).fails = true then (p.notify (.parity (.settingsEntry .staged l.toNat))).link else p.link } := by
  unfold Part.readStagedLane; rw [noteParity_eq]; dsimp only; split <;> rfl

theorem readStagedSite_eq (p : Part) : p.readStagedSite = { p with
    tables := { p.tables with settingsStaged := { p.tables.settingsStaged with site := p.tables.settingsStaged.site.checked } }
    link := if p.tables.settingsStaged.site.fails = true then (p.notify (.parity (.settingsEntry .staged 2))).link else p.link } := by
  unfold Part.readStagedSite; rw [noteParity_eq]; dsimp only; split <;> rfl

/-- A lane that has adopted the active image finds nothing failing in its own entry, so that no lane faults. -/
theorem readActiveLane_eq (p : Part) (l : LaneId)
    (h : (p.lane l).adoptedActive = true → (p.tables.settingsActive.lanes.get l).fails = false) :
    p.readActiveLane l = { p with
    tables := { p.tables with settingsActive := { p.tables.settingsActive with
      lanes := p.tables.settingsActive.lanes.set l (p.tables.settingsActive.lanes.get l).checked } }
    link := if (p.tables.settingsActive.lanes.get l).fails = true then (p.notify (.parity (.settingsEntry .active l.toNat))).link else p.link } := by
  unfold Part.readActiveLane; dsimp only; rw [noteParity_eq]
  rw [if_neg (c := (!(p.tables.settingsActive.lanes.get l).damaged && !(p.tables.settingsActive.lanes.get l).parityOk && (p.lane l).adoptedActive) = true)]
  · split <;> rfl
  · intro k
    simp only [Bool.and_eq_true] at k
    have := h k.2
    unfold Slot.fails at this
    rw [Bool.and_eq_true _ _ |>.mpr k.1] at this; cases this

/-- With the active site entry in force nothing of it fails, so that no lane faults. -/
theorem readActiveSite_eq (p : Part) (h : p.tables.settingsPrevious.isNone = true → p.tables.settingsActive.site.fails = false) : p.readActiveSite = { p with
    tables := { p.tables with settingsActive := { p.tables.settingsActive with site := p.tables.settingsActive.site.checked } }
    link := if p.tables.settingsActive.site.fails = true then (p.notify (.parity (.settingsEntry .active 2))).link else p.link } := by
  unfold Part.readActiveSite; dsimp only; rw [noteParity_eq]
  rw [if_neg (c := (!p.tables.settingsActive.site.damaged && !p.tables.settingsActive.site.parityOk && p.tables.settingsPrevious.isNone) = true)]
  · split <;> rfl
  · intro k
    simp only [Bool.and_eq_true] at k
    have := h k.2
    unfold Slot.fails at this
    rw [Bool.and_eq_true _ _ |>.mpr k.1] at this; cases this

/-! ## The reads of the DUPLICATE rows (R127, R137) and of one register slot -/

/-- TABLE_WRITE reads every other entry of the staged class image (R127). -/
theorem readOtherClasses_eq (p : Part) (i : Nat) : p.readOtherClasses i = { p with
    tables := { p.tables with classStaged := p.tables.classStaged.mapIdx fun j z =>
      if j ≠ i then { z with damaged := z.damaged || z.fails } else z }
    link := p.told (parityNotices (.classEntry .staged)
      (p.tables.classStaged.toList.mapIdx fun j z => decide (j ≠ i) && z.fails)) } := by
  unfold Part.readOtherClasses
  rw [readStagedWhere]
  have h : (p.tables.classStaged.mapIdx fun j z => if decide (j ≠ i) = true then z.checked else z) =
      p.tables.classStaged.mapIdx fun j z => if j ≠ i then { z with damaged := z.damaged || z.fails } else z := by
    apply Vector.ext
    intro j hj
    simp only [Vector.getElem_mapIdx, decide_eq_true_eq, checked_eq]
  rw [h]

/-- A damaged mark after a read: the entry is good exactly where the mark is clear (R129). -/
theorem checked_damaged {α} (z : Slot α) : z.checked.damaged = !z.good := by
  rcases z with ⟨v, p, d⟩; unfold Slot.checked Slot.good; cases p <;> cases d <;> rfl

/-- After the reads the class id is held exactly where another entry, good to read, carries it (R127). -/
theorem holdsClass_read (p : Part) (id i : Nat) : (p.readOtherClasses i).tables.holdsClass id i = true ↔
    ∃ j z b, j ≠ i ∧ p.tables.classStaged[j]? = some z ∧ z.good = true ∧ z.val = some b ∧ b.id = id := by
  rw [readOtherClasses_eq]
  unfold TableStore.holdsClass
  simp only [List.any_eq_true, Prod.exists, List.mem_zipIdx_iff_getElem?, decide_eq_true_eq, ← checked_eq,
    Vector.getElem?_toList, Vector.getElem?_mapIdx, Option.map_eq_some_iff]
  constructor
  · rintro ⟨w, j, ⟨z, hz, hw⟩, hj, hd, hv⟩
    rw [if_pos hj] at hw
    subst hw
    obtain ⟨b, hb, hid⟩ := hv
    exact ⟨j, z, b, hj, hz, by rw [checked_damaged] at hd; simpa using hd, hb, hid⟩
  · rintro ⟨j, z, b, hj, hz, hg, hb, hid⟩
    refine ⟨z.checked, j, ⟨z, hz, if_pos hj⟩, hj, ?_⟩
    rw [checked_damaged, hg]
    exact ⟨rfl, b, hb, hid⟩

/-- Handing over the PARITY notices of the slots that fail. -/
theorem noteParity_all (xs : List (Nat × Slot (Option RegEntry))) (p : Part) :
    xs.foldl (fun q x => q.noteParity x.2 (.registerSlot x.1)) p = { p with
      link := p.told ((xs.filter fun x => x.2.fails).map fun x => .parity (.registerSlot x.1)) } := by
  rw [← notify_all, List.foldl_map, List.foldl_filter]
  rfl

/-- REGISTER_PUT reads every slot at another index (R137). -/
theorem readOtherSlots_eq (p : Part) (i : Nat) : p.readOtherSlots i = { p with
    tables := { p.tables with register := p.tables.register.map fun x =>
      if x.1 = i then x else (x.1, { x.2 with damaged := x.2.damaged || x.2.fails }) }
    link := p.told ((p.tables.register.filter fun x => decide (x.1 ≠ i) && x.2.fails).map fun x =>
      .parity (.registerSlot x.1)) } := by
  have h : (p.tables.register.filter fun x => decide (x.1 ≠ i)).filter (fun x => x.2.fails) =
      p.tables.register.filter fun x => decide (x.1 ≠ i) && x.2.fails := by
    rw [List.filter_filter]
    congr 1
    funext x
    exact Bool.and_comm _ _
  unfold Part.readOtherSlots
  dsimp only
  rw [noteParity_all, h]
  simp only [checked_eq]
  rfl

/-- After the reads the tag id is held exactly where another slot, good to read, carries it (R137). -/
theorem holdsTag_read (p : Part) (tag : TagId) (i : Nat) : (p.readOtherSlots i).tables.holdsTag tag i = true ↔
    ∃ x ∈ p.tables.register, x.1 ≠ i ∧ x.2.good = true ∧ ∃ f, x.2.val = some f ∧ f.tag = tag := by
  rw [readOtherSlots_eq]
  unfold TableStore.holdsTag
  simp only [List.any_eq_true, List.mem_map, decide_eq_true_eq, ← checked_eq]
  constructor
  · rintro ⟨_, ⟨x, hx, rfl⟩, hi, hd, hv⟩
    by_cases h : x.1 = i
    · rw [if_pos h] at hi; exact absurd h hi
    · rw [if_neg h] at hd hv
      exact ⟨x, hx, h, by rw [checked_damaged] at hd; simpa using hd, Option.map_eq_some_iff.mp hv⟩
  · rintro ⟨x, hx, h, hg, f, hf, ht⟩
    refine ⟨_, ⟨x, hx, rfl⟩, ?_⟩
    rw [if_neg h, checked_damaged, hg]
    exact ⟨h, rfl, Option.map_eq_some_iff.mpr ⟨f, hf, ht⟩⟩

/-- A read of one slot of the register: its mark, every other slot, and the notice of a failure (R129). -/
theorem readRegister_slots (p : Part) (i : Nat) :
    (p.readRegister i).tables.regSlot i = (p.tables.regSlot i).checked ∧
    (∀ j, j ≠ i → (p.readRegister i).tables.regSlot j = p.tables.regSlot j) ∧
    p.readRegister i = { p with
      tables := { p.tables with register := (p.readRegister i).tables.register }
      link := if (p.tables.regSlot i).fails = true then p.told [.parity (.registerSlot i)] else p.link } := by
  have found : ∀ (r : List (Nat × Slot (Option RegEntry))) (j : Nat),
      (r.map fun x => if x.1 = i then (i, x.2.checked) else x).find? (fun x => decide (x.1 = j)) =
        (r.find? fun x => decide (x.1 = j)).map fun x => if x.1 = i then (i, x.2.checked) else x := by
    intro r j
    rw [List.find?_map]
    congr 2
    funext x
    by_cases h : x.1 = i <;> simp [h]
  have tables : (p.readRegister i).tables = { p.tables with
      register := p.tables.register.map fun x => if x.1 = i then (i, x.2.checked) else x } := by
    unfold Part.readRegister Part.noteParity; dsimp only; split <;> rfl
  refine ⟨?_, ?_, ?_⟩
  · rw [tables]
    unfold TableStore.regSlot
    rw [found]
    cases h : p.tables.register.find? fun x => decide (x.1 = i) with
    | none => rfl
    | some x =>
      have hx : x.1 = i := by simpa using List.find?_some h
      simp [hx]
  · intro j hj
    rw [tables]
    unfold TableStore.regSlot
    rw [found]
    cases h : p.tables.register.find? fun x => decide (x.1 = j) with
    | none => rfl
    | some x =>
      have hx : x.1 = j := by simpa using List.find?_some h
      simp [hx, hj]
  · rw [tables]
    unfold Part.readRegister
    dsimp only
    rw [noteParity_eq]
    split <;> rfl

/-- The read of a slot that is good, or marked damaged, changes nothing (R129). -/
theorem readRegister_settled (p : Part) (i : Nat) (h : ∀ x ∈ p.tables.register, x.1 = i → x.2.settled) :
    p.readRegister i = p := by
  have slot : (p.tables.regSlot i).settled := by
    unfold TableStore.regSlot
    cases hf : p.tables.register.find? fun x => decide (x.1 = i) with
    | none => exact Or.inr rfl
    | some x => exact h x (List.mem_of_find?_eq_some hf) (by simpa using List.find?_some hf)
  have same : (p.tables.register.map fun x => if x.1 = i then (i, x.2.checked) else x) = p.tables.register := by
    refine (List.map_congr_left (g := id) fun a ha => ?_).trans (List.map_id _)
    by_cases hi : a.1 = i
    · rw [if_pos hi, (settled_good (h a ha hi)).2.1, ← hi]; rfl
    · rw [if_neg hi]; rfl
  unfold Part.readRegister
  dsimp only
  rw [noteParity_eq, (settled_good slot).2.2]
  unfold Part.modTables
  dsimp only
  rw [same]
  rfl

/-! ## The reads that a record of a commit brings (R132) -/

/-- A staged class entry that is read: its mark, and the notice of a failure. -/
theorem readStagedClass_eq (p : Part) (i : Nat) (z : Slot (Option ClassEntry)) (h : p.tables.classStaged[i]? = some z) :
    (z.settled → p.readStagedClass i = p) ∧ (z.fails = true → p.readStagedClass i = { p with
      tables := { p.tables with classStaged := p.tables.classStaged.setIfInBounds i { z with damaged := true } }
      link := p.told [.parity (.classEntry .staged i)] }) := by
  have e : p.readStagedClass i = (p.modTables fun t =>
      { t with classStaged := t.classStaged.setIfInBounds i z.checked }).noteParity z (.classEntry .staged i) := by
    unfold Part.readStagedClass
    rw [h]
  rw [e, noteParity_eq]
  constructor
  · intro k
    have same : p.tables.classStaged.setIfInBounds i z = p.tables.classStaged := by
      apply Vector.ext
      intro j hj
      rw [Vector.getElem_setIfInBounds]
      split
      · rename_i he; subst he; simpa [hj, eq_comm] using h
      · rfl
    rw [(settled_good k).2.2, (settled_good k).2.1]
    unfold Part.modTables
    dsimp only
    rw [same]
    rfl
  · intro k
    rw [checked_eq, k, Bool.or_true]
    rfl

/-- The staged settings image read entry by entry, with the notices of the entries that fail. -/
theorem readStagedSettings (p : Part) : p.readStaged .settings = { p with
    tables := { p.tables with settingsStaged := ⟨⟨p.tables.settingsStaged.lanes.l0.checked,
      p.tables.settingsStaged.lanes.l1.checked⟩, p.tables.settingsStaged.site.checked, p.tables.settingsStaged.crc⟩ }
    link := p.told (parityNotices (.settingsEntry .staged) [p.tables.settingsStaged.lanes.l0.fails,
      p.tables.settingsStaged.lanes.l1.fails, p.tables.settingsStaged.site.fails]) } := by
  unfold Part.readStaged
  dsimp only
  rw [readStagedSite_eq, readStagedLane_eq, readStagedLane_eq]
  cases f0 : p.tables.settingsStaged.lanes.l0.fails <;> cases f1 : p.tables.settingsStaged.lanes.l1.fails <;>
    cases f2 : p.tables.settingsStaged.site.fails
  all_goals
    simp only [PerLane.get, PerLane.set, f0, f1, parityNotices, List.zipIdx_cons, List.zipIdx_nil, List.filter_cons,
      List.filter_nil, List.map_cons, List.map_nil, Bool.false_eq_true, if_false, if_true]
    rfl

/-! ## What a settings entry may hold (R128) -/

/-- A site entry is taken exactly where its fields lie in their ranges (R128). -/
theorem parseSiteEntry_inRanges (bs : List Byte) : (inRanges siteFields bs → ∃ e, parseSiteEntry bs = some e) ∧
    (¬ inRanges siteFields bs → parseSiteEntry bs = none) := by
  unfold inRanges siteFields parseSiteEntry SiteEntry.ok within
  simp only [List.forall_mem_cons, List.not_mem_nil, false_imp_iff, implies_true, and_true, Bool.and_eq_true, decide_eq_true_eq]
  constructor
  · intro h
    rw [if_pos (by omega)]; exact ⟨_, rfl⟩
  · intro h
    rw [if_neg (by omega)]

/-- A lane entry is taken exactly where its fields lie in their ranges (R128). -/
theorem parseLaneEntry_inRanges (bs : List Byte) : (inRanges laneFields bs → ∃ e, parseLaneEntry bs = some e) ∧
    (¬ inRanges laneFields bs → parseLaneEntry bs = none) := by
  unfold inRanges laneFields
  simp only [List.forall_mem_cons, List.not_mem_nil, false_imp_iff, implies_true, and_true]
  have ha : ∀ n, (1 ≤ n ∧ n ≤ 3 → ∃ a, Admitting.ofCode n = some a) ∧ (¬ (1 ≤ n ∧ n ≤ 3) → Admitting.ofCode n = none) := by
    intro n
    match n with
    | 0 => simp [Admitting.ofCode]
    | 1 => simp [Admitting.ofCode]
    | 2 => simp [Admitting.ofCode]
    | 3 => simp [Admitting.ofCode]
    | n + 4 => simp [Admitting.ofCode]
  have hf : ∀ n, (0 ≤ n ∧ n ≤ 1 → ∃ a, readFlag n = some a) ∧ (¬ (0 ≤ n ∧ n ≤ 1) → readFlag n = none) := by
    intro n
    match n with
    | 0 => simp [readFlag]
    | 1 => simp [readFlag]
    | n + 2 => simp [readFlag]
  constructor
  · intro h
    obtain ⟨a, ha⟩ := (ha (field bs 1 1)).1 (by omega)
    obtain ⟨b, hb⟩ := (hf (field bs 22 1)).1 (by omega)
    obtain ⟨c, hc⟩ := (hf (field bs 23 1)).1 (by omega)
    unfold parseLaneEntry
    rw [ha, hb, hc]
    simp only [Option.bind_eq_bind, Option.bind_some]
    rw [if_pos ⟨by omega, by unfold LaneEntry.ok within; simp only [Bool.and_eq_true, decide_eq_true_eq]; omega⟩]
    exact ⟨_, rfl⟩
  · intro h
    unfold parseLaneEntry
    cases h1 : Admitting.ofCode (field bs 1 1) with
    | none => rfl
    | some a =>
      cases h2 : readFlag (field bs 22 1) with
      | none => rfl
      | some b =>
        cases h3 : readFlag (field bs 23 1) with
        | none => rfl
        | some c =>
          have k1 : 1 ≤ field bs 1 1 ∧ field bs 1 1 ≤ 3 := by by_contra hh; rw [(ha _).2 hh] at h1; cases h1
          have k2 : 0 ≤ field bs 22 1 ∧ field bs 22 1 ≤ 1 := by by_contra hh; rw [(hf _).2 hh] at h2; cases h2
          have k3 : 0 ≤ field bs 23 1 ∧ field bs 23 1 ≤ 1 := by by_contra hh; rw [(hf _).2 hh] at h3; cases h3
          simp only [Option.bind_eq_bind, Option.bind_some]
          rw [if_neg]
          rintro ⟨q1, q2⟩
          unfold LaneEntry.ok within at q2
          simp only [Bool.and_eq_true, decide_eq_true_eq] at q2
          exact h (by omega)

end Sys2Proof.Machine
end

