-- ==== Sys2Proof/Tests/Slice0.lean ====
section
/-! SUPPORT. The model's own tests: check codes, rounding and verdicts on worked values, an ill-formed term for each
well-formedness check, and for every obligation with hypotheses states and operands that meet them. -/

namespace Sys2Proof.Tests

open Sys2Proof Sys2Proof.Machine

set_option Elab.async false

/-! ## Check codes and reset CRCs (00_scope.md) -/

/-- The characters 1 to 9. -/
def digits : List Byte := [0x31, 0x32, 0x33, 0x34, 0x35, 0x36, 0x37, 0x38, 0x39]

theorem test_crc16_check_value : crc16 digits = 0x29B1 := by decide +kernel

theorem test_crc32_check_value : crc32 digits = 0xCBF43926 := by decide +kernel

/-- The CRC-32 register after `n` zero bytes from `c`. -/
def zerosFrom (c n : Nat) : Nat := (List.replicate n (0 : Byte)).foldl crc32Byte c

theorem zerosFrom_add (c m n : Nat) : zerosFrom c (m + n) = zerosFrom (zerosFrom c m) n := by
  unfold zerosFrom
  rw [← List.replicate_append_replicate, List.foldl_append]

theorem class_image_zeros (n : Nat) :
    (List.replicate n (none : Option ClassEntry)).flatMap classEntryBytes = List.replicate (32 * n) 0 := by
  induction n with
  | zero => rfl
  | succ n ih =>
    rw [List.replicate_succ, List.flatMap_cons, ih, Nat.mul_succ, Nat.add_comm, ← List.replicate_append_replicate]
    rfl

theorem test_zeros_1 :
    zerosFrom 0xFFFFFFFF 96 = 0x450B9A51 ∧
    zerosFrom 0x450B9A51 96 = 0x7400F70D ∧
    zerosFrom 0x7400F70D 96 = 0x140D95AD ∧
    zerosFrom 0x140D95AD 96 = 0x77452EB8 := by
  decide +kernel

theorem test_zeros_2 :
    zerosFrom 0x77452EB8 96 = 0x04453C72 ∧
    zerosFrom 0x04453C72 96 = 0xBC13E70C ∧
    zerosFrom 0xBC13E70C 96 = 0x364F458E ∧
    zerosFrom 0x364F458E 96 = 0x0A5F0BEA := by
  decide +kernel

theorem test_zeros_3 :
    zerosFrom 0x0A5F0BEA 96 = 0x68507BF1 ∧
    zerosFrom 0x68507BF1 96 = 0xC71DFF84 ∧
    zerosFrom 0xC71DFF84 96 = 0x4CF5B120 ∧
    zerosFrom 0x4CF5B120 96 = 0x5EA3A7CF := by
  decide +kernel

theorem test_zeros_4 :
    zerosFrom 0x5EA3A7CF 96 = 0x5EAF5B98 ∧
    zerosFrom 0x5EAF5B98 96 = 0xDD701589 ∧
    zerosFrom 0xDD701589 96 = 0x55EEE965 ∧
    zerosFrom 0x55EEE965 96 = 0x93E31E81 := by
  decide +kernel

theorem zerosFrom_step {c d e m n : Nat} (h : zerosFrom c m = d) (k : zerosFrom d n = e) : zerosFrom c (m + n) = e := by
  rw [zerosFrom_add, h, k]

theorem test_zeros_all : zerosFrom 0xFFFFFFFF 1536 = 0x93E31E81 := by
  obtain ⟨a1, a2, a3, a4⟩ := test_zeros_1
  obtain ⟨b1, b2, b3, b4⟩ := test_zeros_2
  obtain ⟨c1, c2, c3, c4⟩ := test_zeros_3
  obtain ⟨d1, d2, d3, d4⟩ := test_zeros_4
  have a := zerosFrom_step (zerosFrom_step (zerosFrom_step a1 a2) a3) a4
  have b := zerosFrom_step (zerosFrom_step (zerosFrom_step b1 b2) b3) b4
  have c := zerosFrom_step (zerosFrom_step (zerosFrom_step c1 c2) c3) c4
  have d := zerosFrom_step (zerosFrom_step (zerosFrom_step d1 d2) d3) d4
  have e := zerosFrom_step (zerosFrom_step (zerosFrom_step a b) c) d
  norm_num at e
  exact e

theorem crc32_zeros (n : Nat) : crc32 (List.replicate n 0) = zerosFrom 0xFFFFFFFF n ^^^ 0xFFFFFFFF := rfl

theorem test_cleared_class_image_crc : classImageCrc (List.replicate 48 none) = clearedClassCrc := by
  unfold classImageCrc
  rw [class_image_zeros, crc32_zeros, show 32 * 48 = 1536 by norm_num, test_zeros_all]
  decide

theorem test_default_settings_parts :
    (laneEntryBytes .default_).foldl crc32Byte 0xFFFFFFFF = 2697556765 ∧
    (laneEntryBytes .default_).foldl crc32Byte 2697556765 = 3677719173 ∧
    (siteEntryBytes .default_).foldl crc32Byte 3677719173 = 3700821997 := by
  decide +kernel

theorem crc32_three (a b c : List Byte) :
    crc32 (a ++ (b ++ c)) = c.foldl crc32Byte (b.foldl crc32Byte (a.foldl crc32Byte 0xFFFFFFFF)) ^^^ 0xFFFFFFFF := by
  unfold crc32
  rw [List.foldl_append, List.foldl_append]

theorem test_default_settings_crc : crc32 SettingsImage.default_.bytes = defaultSettingsCrc := by
  obtain ⟨a, b, c⟩ := test_default_settings_parts
  have e : SettingsImage.default_.bytes =
      laneEntryBytes .default_ ++ (laneEntryBytes .default_ ++ siteEntryBytes .default_) := by
    simp [SettingsImage.bytes, settingsBytes, SettingsImage.default_, Slot.fresh]
  rw [e, crc32_three, a, b, c]
  decide

/-! ## Worked values -/

theorem test_rounding_goes_away_from_zero :
    roundHalfAway 5 10 = 1 ∧ roundHalfAway (-5) 10 = -1 ∧ roundHalfAway 4 10 = 0 ∧ roundHalfAway (-4) 10 = 0 ∧
      roundHalfAway 15 10 = 2 := by decide

/-- A frame with its delimiter, its CRC-16 and its escaping. -/
def frameOf (body : List Byte) : List Byte := delimiter :: escapeBytes (body ++ leBytes 2 (crc16 body))

/-- The calibration entry of one cell, 20 t by 20 kg, at node 5. -/
def cal1 : CalEntry :=
  { node := 5, cells := [⟨100, 50000, 10000⟩], filterDepth := 1, timeout := 100, capacity := 20000, e := 20,
    motionBand := 1, zeroRange := 4, tracking := false, zcal := 0 }

theorem test_cell_grams : cellGrams ⟨100, 50000, 10000⟩ 1100 = 50000 := by decide

/-- A sample of node 5, deck 0, sequence 126 (which is escaped), with one cell of 1000 counts. -/
def sample126 : List Byte := frameOf [5, 0, 126, 1, 0xE8, 3, 0, 0]

theorem test_sample_frame_is_read : parseSample sample126 = some ⟨5, 0, 126, [(1000, .good)]⟩ := by decide +kernel

theorem test_negative_count_is_read :
    parseSample (frameOf [5, 0, 1, 1, 0xFF, 0xFF, 0xFF, 3]) = some ⟨5, 0, 1, [(-1, .opened)]⟩ := by decide +kernel

theorem test_corrupt_sample_is_dropped : parseSample (sample126.dropLast ++ [0]) = none := by decide +kernel

/-- A read of the tag 1 at lane 1, end B. -/
def tag1 : List Byte := frameOf [3, 1, 0, 0, 0, 0, 0]

theorem test_tag_frame_is_read : parseTag tag1 = some (.l1, .b, 1) := by decide +kernel

theorem test_reader_4_is_dropped : parseTag (frameOf [4, 1, 0, 0, 0, 0, 0]) = none := by decide +kernel

theorem test_vehicle_ids :
    parseVehicle [0x41, 0x2D, 0x39, 0, 0, 0, 0, 0, 0, 0, 0, 0] = some [0x41, 0x2D, 0x39] ∧
      parseVehicle [0x41, 0, 0x39, 0, 0, 0, 0, 0, 0, 0, 0, 0] = none ∧ parseVehicle (List.replicate 12 0) = none ∧
      parseVehicle [0x61, 0, 0, 0, 0, 0, 0, 0, 0, 0, 0, 0] = none := by decide +kernel

theorem test_groups_break_at_the_gap : groupNumbers 2500 [none, some 2500, some 2501, none] = [1, 1, 2, 3] := by
  decide +kernel

theorem test_remainder_goes_to_the_last_axle : scaledWeights [1, 1, 1] 100 = [33, 33, 34] := by decide +kernel

/-- R92, R194: the class id and the over marks fit the kind. -/
theorem test_stored_verdicts :
    let read := fun bs => (readVerdict bs 0 true).isSome
    [[1, 250, 0, 0], [2, 1, 1, 0], [2, 1, 0, 1], [3, 0, 0, 2], [4, 0, 0, 0]].all read = true ∧
      [[1, 0, 0, 0], [1, 1, 1, 0], [1, 251, 0, 0], [2, 1, 0, 0], [2, 0, 1, 0], [3, 1, 0, 0], [4, 0, 1, 0],
        [5, 0, 0, 0]].any read = false := by decide +kernel

/-- R160, R194: a record of a kind that concerns a deck carries one, and no other kind does. -/
theorem test_stored_trail_decks :
    let read := fun deck body => (readTrail (trailBytes 1 ⟨deck, ⟨0, 0⟩, true, body⟩)).isSome
    read (some 5) (.calChange 1 2 3) = true ∧ read none (.calChange 1 2 3) = false ∧ read none (.gap 1) = true ∧
      read (some 0) (.gap 1) = false := by decide +kernel

/-- 11.4, R194: a cleared class entry holds 0 in every field. -/
theorem test_stored_cleared_class :
    let record := fun (e : List Byte) => readClassRecord (List.replicate 8 0 ++ (e ++ List.replicate 24 0))
    record (List.replicate 32 0) = some (0, none, 0) ∧ record ((List.replicate 32 0).set 11 1) = none ∧
      record ((List.replicate 32 0).set 3 1) = some (0, none, 0) := by decide +kernel

theorem test_stop_forces_red (x : Lane) (e : LaneEnd) (a : Admitting) (h : x.stopLatch = true) :
    x.outputs .running a e = (.red, .stop) := by simp [Lane.outputs, h]

/-- The next state, if the outcome is one. -/
def nextOf : Host.Outcome State Fault Refusal → Option State
  | .next t => some t
  | _ => none

theorem of_nextOf {o : Host.Outcome State Fault Refusal} {t : State} (h : nextOf o = some t) : o = .next t := by
  cases o <;> simp_all [nextOf]

theorem test_reset_idles_a_tick : step State.reset = .next { State.reset with clock := ⟨1, 0, 0, false, false⟩ } :=
  of_nextOf (by decide +kernel)

/-! ## Ill-formed terms -/

theorem test_illformed_sample_frame : (Instr.sampleFrame 0 [0]).wf = false := by decide
theorem test_illformed_tag_frame : (Instr.tagFrame 0 []).wf = false := by decide
theorem test_illformed_yard_frame : (Instr.yardFrameDrop [0x7D]).wf = false := by decide
theorem test_illformed_admit : (Instr.admitVehicle 0 0 (.known .a) (List.replicate 11 0x41)).wf = false := by decide
theorem test_illformed_consign : (Instr.consign 0 (List.replicate 13 0x41) ⟨1, 0x41, 0x41, none, none⟩).wf = false := by
  decide
theorem test_illformed_cancel : (Instr.cancelPending 0 []).wf = false := by decide
theorem test_illformed_table_write : (Instr.tableWrite 0 (.known .classes) 0 (List.replicate 31 0)).wf = false := by decide
theorem test_illformed_register_put : (Instr.registerPut 0 0 (List.replicate 33 0)).wf = false := by decide
theorem test_illformed_cal_write : (Instr.calWrite 0 0 (List.replicate 110 0) true).wf = false := by decide +kernel
theorem test_illformed_restart : (Instr.restart 0 (.undefined 1)).wf = false := by decide
theorem test_illformed_table_write_code :
    (Instr.tableWrite 0 (.undefined 2) 0 (List.replicate 32 0)).wf = false := by decide
theorem test_illformed_table_read : (Instr.tableRead 0 (.undefined 1) 0).wf = false := by decide
theorem test_illformed_table_commit : (Instr.tableCommit 0 (.undefined 2) 0).wf = false := by decide
theorem test_illformed_table_discard : (Instr.tableDiscard 0 (.undefined 1)).wf = false := by decide
theorem test_illformed_audit_open : (Instr.auditOpen 0 0 (.undefined 3)).wf = false := by decide
theorem test_illformed_audit_step : (Instr.auditStep 0 (.undefined 4) 0 none).wf = false := by decide
theorem test_illformed_unknown_request : (Instr.unknownRequest 0 (some 1) []).wf = false := by decide
theorem test_illformed_unknown_request_no_code : (Instr.unknownRequest 0 none [200]).wf = false := by decide
theorem test_illformed_unknown_request_long : (Instr.unknownRequest 0 (some 0) (List.replicate 504 0)).wf = false := by decide +kernel

/-! ## States -/

/-- The machine running, with every block as a reset leaves it and the site clock valid. -/
def base : State :=
  { State.reset with
    phase := .running
    clock := ⟨0, 100, 0, true, false⟩ }

theorem memAll {α : Type} {o : Option α} {P : α → Prop} (h : ∀ v ∈ o, P v) : ∀ v, o = some v → P v := h

/-- `base` with lane `l` changed. -/
def onLane (l : LaneId) (f : Lane → Lane) : State := base.act (·.modLane l f)

/-- `base` with deck `d` changed. -/
def onDeck (d : DeckId) (f : Deck → Deck) : State := base.act (·.modDeck d f)

/-- `base` with a lane end changed. -/
def onEnd (l : LaneId) (e : LaneEnd) (f : EndState → EndState) : State := base.act (·.modEnd l e f)

/-- A visit, count 3, of the vehicle A at end A. -/
def visit (st : VisitState) : Visit := { Visit.start 3 .a with state := st, vehicle := some [0x41] }

/-- An OPEN lane 0 that holds `v`. -/
def visiting (v : Visit) (f : Lane → Lane := id) : State :=
  onLane .l0 fun x => f { x with state := .opened, visit := some v }

/-- A deck in TRADE with a usable entry. -/
def tradeDeck (x : Deck) : Deck := { x with cal := some ⟨cal1, true, false⟩, service := .trade, zd := some 0 }

/-- Published values whose displayed weight is `kg`. -/
def shows (kg : Int) : Published := ⟨1000 * kg, 1000 * kg, kg, 1000 * kg⟩

/-- Lane 0's decks with usable entries, showing `kg` and STABLE. -/
def stableAt (s : State) (kg : Int) : State :=
  s.act fun p => LaneId.l0.decks.foldl (fun q d => q.modDeck d fun x =>
    { tradeDeck x with published := some (shows kg), status := .stable }) p

/-- A consignment. -/
def grain : Consignment := ⟨1, 0x41, 0x31, none, some 64⟩

/-- A gross side of `kg`, on lane 0 at time `sec`. -/
def grossOf (kg : Int) (sec : Nat) : GrossSide :=
  ⟨kg, ⟨sec, 0⟩, .l0, [0, 0, 0], grain, ⟨.notScreened, none, [], false, true⟩⟩

/-- A pending entry of the vehicle A. -/
def entryA (st : EntryState) : PendingEntry := ⟨[0x41], none, st, 1⟩

/-- `s` with pending slot `i` holding `e`. -/
def putSlot (s : State) (i : Nat) (e : PendingEntry) : State :=
  s.act (·.modPairing fun x => { x with slots := x.slots.setIfInBounds i (some e) })

/-- `base` with the table store changed. -/
def onTables (f : TableStore → TableStore) : State := base.act (·.modTables f)

/-- A register entry with its 32 bytes. -/
def reg1 : RegEntry := ⟨1, [0x41], .active, [], none⟩

/-- `base` with the record memory controller changed. -/
def onStore (f : Store → Store) : State := base.act (·.modStore f)

/-- `base` with the audit unit changed. -/
def onAudit (f : AuditUnit → AuditUnit) : State := base.act (·.modAudit f)

/-- A session on deck 1, PENDING or ACTIVE. -/
def session (o : Option AtOpen) : Session := ⟨1, .repair, ⟨0, 0⟩, o, 0, [], 1, none⟩

/-- What an ACTIVE session recorded. -/
def atOpen : AtOpen := ⟨.closed, .trade, 0⟩

/-- `s` with `n` tickets staged. -/
def staging (s : State) (n : Nat) : State :=
  s.act (·.modTickets fun t => { t with staging := List.replicate n default })

/-! ## Witnesses: the machine -/

theorem test_witness_StepTakesFront : ({ base with pending := [.powerOn] } : State).pending = [.powerOn] := by rfl

theorem test_witness_IdleStep :
    State.reset.pending = [] ∧ State.reset.toPart.dueEvent = none ∧
      (onDeck 5 fun x => { x with clearance := .running 0 }).toPart.dueEvent = some (.clearanceTimerExpiry 5) := by
  decide +kernel

theorem test_witness_NoCommandStops : reachesMemory (.startup none) = true ∧ reachesMemory .portGrant = false := by decide

theorem test_witness_MemoryStaysCanonical :
    ({ base with mem := [(0x7FFFF, 0xFF)] } : State).memoryCanonical ∧
      step { base with mem := [(0x7FFFF, 0xFF)] } =
        .next { base with mem := [(0x7FFFF, 0xFF)], clock := ⟨1, 100, 0, true, false⟩ } :=
  ⟨by unfold State.memoryCanonical; decide +kernel, of_nextOf (by decide +kernel)⟩

theorem test_witness_LoweringStaysSafe :
    let s := onEnd .l1 .b fun x => { x with beamLevel := true, barrier := ⟨false, true, .lower, .stopped, false⟩ }
    s.toPart.lowersSafely ∧ step s = .next (s.act (·.elapse 1)) := by
  refine ⟨?_, of_nextOf (by decide +kernel)⟩
  intro l e; cases l <;> cases e <;> decide +kernel

theorem base_parityRight : base.toPart.parityRight := by
  unfold Part.parityRight SettingsImage.parityRight
  refine ⟨?_, by decide +kernel, by decide +kernel, by decide +kernel, by decide +kernel, memAll (by decide +kernel),
    by decide +kernel⟩
  intro d
  apply memAll
  revert d
  decide +kernel

theorem test_witness_ParityStaysRight : base.toPart.parityRight ∧ step base = .next (base.act (·.elapse 1)) :=
  ⟨base_parityRight, of_nextOf (by decide +kernel)⟩

theorem base_ready : base.toPart.settingsSettled := by unfold Part.settingsSettled Slot.settled; decide +kernel

theorem test_witness_FinishCloses : base.toPart.settingsSettled ∧ base.toPart.parityRight :=
  ⟨base_ready, base_parityRight⟩

/-- A settings image whose entries in use fail their checks: lane 0's own, or the site's. -/
def failing (site : Bool) : SettingsImage :=
  if site then { SettingsImage.default_ with site := ⟨.default_, false, false⟩ }
  else { SettingsImage.default_ with lanes := ⟨⟨.default_, false, false⟩, .fresh .default_⟩ }

theorem test_witness_FinishCloses_unsettled :
    let on := fun (site : Bool) => base.act (·.modTables fun t => { t with settingsActive := failing site })
    let parity := { LaneCauses.empty with settingsParity := true }
    let found := (((on false).toPart.modTables fun t => { t with settingsActive :=
      { failing false with lanes := ⟨⟨.default_, false, true⟩, .fresh .default_⟩ } }).modLane .l0 fun y =>
        { y with state := .fault, causes := parity })
    (∀ site ∈ [false, true], ∀ l ∈ [LaneId.l0, .l1], ((on site).toPart.lane l).causes = .empty ∧
      (on site).toPart.visit l = none ∧ ((on site).toPart.lane l).state = .closed) ∧
      ((on false).toPart.adopted .l0).lanes.l0 = ⟨.default_, false, false⟩ ∧ (on false).phase = .running ∧
      ((on false).toPart.laneEnd .l0 .b).beamRaw ≠ true ∧ ((on false).toPart.laneEnd .l0 .b).beamLevel ≠ true ∧
      found.settingsSettled ∧ (on true).toPart.siteImage.site = ⟨.default_, false, false⟩ := by
  unfold Part.settingsSettled Slot.settled; decide +kernel

theorem test_witness_BarrierPosition :
    let b := fun up down => (Barrier.mk up down .raise .stopped false)
    (b true false).position = .up ∧ (b false true).position = .down ∧ (b false false).position = .between ∧
      (b true true).position = .conflict ∧ (b true false).at .raise = true := by
  decide

theorem test_witness_LoweringIsDeferred :
    let s := fun (blocked down : Bool) => (onEnd .l1 .b fun x =>
      { x with beamLevel := blocked, barrier := ⟨!down, down, .stop, .stopped, false⟩ }).toPart
    (s true false).wanted .l1 .b = .lower ∧ ((s true false).laneEnd .l1 .b).beamLevel = true ∧
      ((s true false).laneEnd .l1 .b).barrier.position ≠ .down ∧
      ((s true true).laneEnd .l1 .b).barrier.position = .down ∧
      ((onLane .l1 fun x => { x with stopLatch := true }).toPart.lane .l1).stopLatch = true := by
  decide +kernel

theorem test_witness_LaneOutputsFollowState :
    (base.toPart.lane .l0).stopLatch = false ∧ (base.toPart.lane .l0).visit = none ∧
      (base.toPart.lane .l0).state ≠ .opened ∧
      (onLane .l1 fun x => { x with state := .opened }).toPart.visit .l1 = none ∧
      ((onLane .l1 fun x => { x with state := .opened }).toPart.lane .l1).admits = true ∧
      (visiting (visit .clearing)).toPart.visit .l0 = some (visit .clearing) ∧
      ((visiting (visit .entering)).toPart.lane .l0).state = .opened ∧ (visit .entering).state = .entering ∧
      (visit .exiting).state = .exiting ∧ (visit .held).state ≠ .clearing ∧ (visit .held).state ≠ .entering ∧
      (visit .held).state ≠ .exiting ∧ ((onLane .l0 fun x => { x with stopLatch := true }).toPart.lane .l0).stopLatch = true := by
  decide +kernel

/-! ## Witnesses: the yard link -/

/-- `base` with the link changed. -/
def onLink (f : Link → Link) : State := base.act (·.modLink f)

/-- A response to request 9. -/
def reply (corr : U16) : Response := ⟨corr, 1, .done .none, false, false⟩

theorem test_witness_RequestsAnsweredAtOnce :
    requestOf (.storeHold 7) = some (7, .storeHold) ∧
      (∀ s ∈ [base, { base with phase := .resetting }, { base with phase := .startup },
          onLink fun k => { k with responses := List.replicate 16 (reply 1) },
          onLink fun k => { k with restart := some 5 }, onLink fun k => { k with outstanding := [⟨7, .admitVehicle, .laneController 0⟩] },
          onLink fun k => { k with outstanding := (List.range 8).map fun i => ⟨.ofNat 16 i, .admitVehicle, .laneController 0⟩ }],
        s.toPart.settingsSettled) ∧
      (onLink fun k => { k with responses := List.replicate 15 (reply 1), restart := some 5 }).link.responses.length < 16 ∧
      (onLink fun k => { k with restart := some 5 }).link.restart.isSome = true ∧
      (∃ o ∈ (onLink fun k => { k with outstanding := [⟨7, .admitVehicle, .laneController 0⟩] }).link.outstanding, o.corr = 7) ∧
      (let k := (onLink fun k => { k with outstanding := (List.range 8).map fun i => ⟨.ofNat 16 i, .admitVehicle, .laneController 0⟩ }).link
       8 ≤ k.outstanding.length ∧ (∀ o ∈ k.outstanding, o.corr ≠ 8) ∧ k.restart = none) ∧
      16 ≤ (onLink fun k => { k with responses := List.replicate 16 (reply 1) }).link.responses.length := by
  unfold Part.settingsSettled Slot.settled; decide +kernel

theorem test_witness_BadYardFrames :
    base.phase ≠ .resetting ∧ yardFrameBad [0x7E] = true ∧ yardFrameBad (yardFrame 2 1 [1]) = true ∧
      yardFrameBad (yardFrame 1 1 [1]) = false ∧ yardFrameBad (yardFrame 1 1 [1] ++ [0x7D, 0]) = false ∧
      (Instr.unknownRequest 1 (some 33) []).wf = true ∧ (Instr.unknownRequest 1 (some 1) [0]).wf = true ∧
      (Instr.unknownRequest 1 none []).wf = true ∧ base.link.restart = none ∧ base.link.responses.length < 16 ∧
      16 ≤ (onLink fun k => { k with responses := List.replicate 16 (reply 1) }).link.responses.length ∧
      (onLink fun k => { k with restart := some 5 }).link.restart.isSome = true ∧ State.reset.phase = .startup ∧
      State.reset.link.responses.length < 16 ∧ ([33] : List Byte).head? ≠ some 1 ∧ ([] : List Byte).head? ≠ some 1 ∧
      ([1, 0] : List Byte).head? = some 1 := by
  decide +kernel

theorem test_witness_BadYardFrames_layout :
    yardFrameBad (requestWire 0x7E7D [1, 0x7D] ++ [0x7D, 0]) = false ∧
      yardFrameBad (requestWire 1 (List.replicate 505 1)) = true := by decide +kernel

/-- A routine notice. -/
def note : Notice := ⟨0, ⟨0, 0⟩, true, .holdGranted 30⟩

theorem test_witness_TransmitterServes :
    let k := Link.afterReset
    k.tx = none ∧ ({ k with responses := [reply 1], urgent := [note] } : Link).responses = [reply 1] ∧
      ({ k with urgent := [note], routine := [note] } : Link).urgent = [note] ∧
      ({ k with routine := [note] } : Link).urgent = [] ∧ k.monitorSlot = none ∧
      ({ k with monitorSlot := some default } : Link).routine = [] := by
  decide +kernel

theorem test_witness_TransmitterServes_frameSent :
    let s := onLink fun k => { k with tx := some (.response (reply 7)), outstanding := [⟨7, .status, .yardLink⟩] }
    s.toPart.settingsSettled ∧ s.link.tx = some (.response (reply 7)) ∧ s.link.sendsRestart = false := by
  unfold Part.settingsSettled Slot.settled; decide +kernel

theorem test_witness_NoticeQueueRows :
    let p := fun u r => (onLink fun k => { k with urgent := List.replicate u note, routine := List.replicate r note }).toPart
    (p 0 31).link.urgent.length + (p 0 31).link.routine.length < 32 ∧ (NoticeBody.holdGranted 1).urgent = false ∧
      (NoticeBody.holdLapsed 1).urgent = true ∧ 32 ≤ (p 31 1).link.urgent.length + (p 31 1).link.routine.length ∧
      (p 31 1).link.routine ≠ [] ∧ (p 32 0).link.routine = [] := by
  decide +kernel

theorem base_takes (corr : U16) : base.toPart.takes corr := by
  refine ⟨rfl, by decide, rfl, by decide, fun o h => ?_⟩
  cases h

theorem test_witness_StatusReportsState :
    base.toPart.settingsSettled ∧ State.reset.toPart.settingsSettled ∧ State.reset.phase = .startup ∧
      base.link.responses.length < 16 ∧ base.link.outstanding.length < 8 ∧ (∀ o ∈ base.link.outstanding, o.corr ≠ 1) := by
  unfold Part.settingsSettled Slot.settled; decide +kernel

theorem test_witness_TimeSetAndRestart :
    base.toPart.settingsSettled ∧ base.toPart.takes 1 ∧ (999 : U16).toNat ≤ 999 ∧ 999 < (1000 : U16).toNat ∧
      base.toPart.visit .l0 = none ∧ base.toPart.visit .l1 = none ∧
      ((visiting (visit .held)).toPart.visit .l0).isSome = true ∧ (visiting (visit .held)).toPart.settingsSettled ∧
      (visiting (visit .held)).toPart.takes 1 := by
  unfold Part.settingsSettled Slot.settled Part.takes; decide +kernel

/-! ## Witnesses: resets and startup -/

theorem test_witness_ResetsClearEverything :
    let s := onLink fun k => { k with restart := some 7, tx := some (.response ⟨7, 3, .done .none, false, false⟩) }
    s.link.sendsRestart = true ∧ ({ base with phase := .resetting } : State).toPart.settingsSettled ∧
      ({ base with phase := .resetting } : State).phase = .resetting ∧
      base.toPart.settingsSettled ∧ base.phase ≠ .resetting := by
  unfold Part.settingsSettled Slot.settled; decide +kernel

theorem test_witness_StartupFinishes :
    let s := State.reset
    s.phase = .startup ∧ s.tables = TableStore.afterReset ∧ s.store = Store.afterReset ∧
      s.tickets = TicketUnit.afterReset ∧ s.audit = AuditUnit.afterReset ∧ s.link = Link.afterReset ∧
      s.pairing = Pairing.afterReset ∧ (∀ d : DeckId, s.toPart.deck d = Deck.afterReset) ∧
      ∀ l, s.toPart.lane l = (s.toPart.lane l).clear := by
  have lanes : ∀ l, State.reset.toPart.lane l = (State.reset.toPart.lane l).clear := by
    rintro (_ | _) <;> decide +kernel
  and_intros
  all_goals first | exact lanes | decide +kernel

/-- The entry of the mirror record with this creation number. -/
def mirrored (creation : Nat) : PendingEntry := { entryA (.opened (grossOf 1003 0)) with creation := creation }

/-- Two mirror records of one vehicle, the one in slot 63 the later, and two register slots with one tag. -/
def stored : List Host.Cell :=
  memWrite (memWrite (memWrite (memWrite [] (SlotKind.mirror.address 1) (mirrorBytes 1 (some (mirrored 4))))
    (SlotKind.mirror.address 63) (mirrorBytes 63 (some (mirrored 5))))
    (SlotKind.register.address 4) (regRecordBytes 4 (some reg1))) (SlotKind.register.address 9) (regRecordBytes 9 (some reg1))

theorem test_witness_StartupFinishes_mirror :
    let held := fun i => ((readSlot stored .mirror i).bind (readMirror i)).join
    held 1 = some (mirrored 4) ∧ held 63 = some (mirrored 5) ∧ readSlot stored .mirror 0 = none := by
  have h1 : readSlot stored .mirror 1 = some (mirrorBytes 1 (some (mirrored 4))) := by
    unfold stored
    rw [readSlot_memWrite_apart _ _ _ _ _ (by decide +kernel), readSlot_memWrite_apart _ _ _ _ _ (by decide +kernel),
      readSlot_memWrite_apart _ _ _ _ _ (by decide +kernel),
      readSlot_memWrite_self _ _ _ _ (by decide +kernel) (by decide +kernel) (by decide +kernel)]
  have h63 : readSlot stored .mirror 63 = some (mirrorBytes 63 (some (mirrored 5))) := by
    unfold stored
    rw [readSlot_memWrite_apart _ _ _ _ _ (by decide +kernel), readSlot_memWrite_apart _ _ _ _ _ (by decide +kernel),
      readSlot_memWrite_self _ _ _ _ (by decide +kernel) (by decide +kernel) (by decide +kernel)]
  refine ⟨?_, ?_, by decide +kernel⟩
  · show ((readSlot stored .mirror 1).bind (readMirror 1)).join = _
    rw [h1]; decide +kernel
  · show ((readSlot stored .mirror 63).bind (readMirror 63)).join = _
    rw [h63]; decide +kernel

theorem test_witness_StartupFinishes_register :
    let register := fun i => ((readSlot stored .register i).bind (readRegRecord i)).join
    register 4 = some reg1 ∧ register 9 = some reg1 ∧ register 0 = none ∧ storedClass stored 47 = none := by
  refine ⟨?_, ?_, ?_, ?_⟩ <;> decide +kernel

/-- The image of deck 2, in FAULT with an open session. -/
def image2 : CalImage := ⟨2, cal1, 3, ⟨.trade, .empty⟩, some 0⟩

theorem test_witness_StartupFinishes_decks :
    storedImage [] 1 = none ∧ ((Deck.afterReset.restore (some image2) none).persisted = image2.persisted) ∧
      image2.marker ≠ none ∧
      State.reset.lastWrites.map Option.isSome = [true, true, true] := by
  and_intros <;> decide +kernel

theorem test_witness_ImageRestoreRows :
    let i : CalImage := ⟨0, cal1, 3, ⟨.trade, .empty⟩, some 1⟩
    (some 3 : Option Nat).getD 0 ≤ i.counter ∧ i.counter < (some 4 : Option Nat).getD 0 ∧ i.marker.isSome = true := by
  decide

/-! ## Witnesses: deck channels -/

theorem test_witness_SamplePublishes :
    let x := tradeDeck Deck.afterReset
    let full := { x with stability := List.replicate 8 0 }
    (0 : Int) < 10 ∧ 2 * |5 - roundHalfAway 5 10 * 10| = (10 : Int) ∧ x.cal = some ⟨cal1, true, false⟩ ∧
      x.badCells = false ∧ (x.take cal1 20190000).status = .over ∧ (x.take cal1 20180000).status = .motion ∧
      (full.take cal1 20000).status = .stable ∧ (full.take cal1 20001).status = .motion ∧
      spread (full.take cal1 20000).stability = cal1.motionBand * cal1.e * 1000 := by
  decide +kernel

theorem test_witness_WrongSampleDropped :
    (∀ s ∈ [base, onDeck 0 tradeDeck], s.toPart.settingsSettled) ∧ State.reset.phase ≠ .running ∧
      (base.toPart.deck 0).usable = false ∧ parseSample [0x7E] = none ∧
      parseSample sample126 = some ⟨5, 0, 126, [(1000, .good)]⟩ ∧
      ((onDeck 1 tradeDeck).toPart.deck 1).cal = some ⟨cal1, true, false⟩ ∧ (0 : Nat) ≠ (1 : DeckId).val ∧
      ((onDeck 0 fun x => { tradeDeck x with lastSeq := some 126 }).toPart.deck 0).lastSeq = some 126 := by
  unfold Part.settingsSettled Slot.settled; decide +kernel

theorem test_witness_WrongSampleDropped_layout :
    parseSample (sampleWire 0x7E 5 126 [(0x7E7D01, 0), (0xFFFFFF, 7)]) =
      some ⟨126, 5, 126, [(0x7E7D01, .good), (-1, .opened)]⟩ := by decide +kernel

theorem test_witness_GoodSampleTaken :
    let s := fun n => onDeck 0 fun x => { tradeDeck x with lastSeq := some n }
    let f : Sample := ⟨5, 0, 126, [(1000, .good)]⟩
    (∀ n ∈ [121, 122], (s n).toPart.settingsSettled ∧ (s n).phase = .running ∧
      ((s n).toPart.deck 0).cal = some ⟨cal1, true, false⟩ ∧ ((s n).toPart.deck 0).lastSeq ≠ some f.seq ∧
      (s n).toPart.visit (laneOf 0) = none ∧ (s n).monitor.selection = none ∧ (s n).toPart.inFlightOn 0 = none) ∧
      parseSample sample126 = some f ∧ f.node = cal1.node ∧ f.deck = (0 : DeckId).val ∧
      cal1.cells.length ≤ f.cells.length ∧ missing (some 122) f.seq = 3 ∧ missing (some 121) f.seq = 4 ∧
      (∀ y ∈ (f.cells.take cal1.cells.length).map (·.2), y = CellStatus.good) ∧ cal1.tracking = false := by
  unfold Part.settingsSettled Slot.settled; decide +kernel

/-- Deck 0 in TRADE after the sample of 45 kg in `sample126`, its zero at `z` and its calibrated one at `zcal`. -/
def tracked (z zcal : Int) : Deck :=
  ({ tradeDeck Deck.afterReset with stability := List.replicate 8 45000, zd := some z } : Deck).take
    { cal1 with tracking := true, zcal := zcal } 45000

theorem test_witness_GoodSampleTaken_tracking :
    cellGrams ⟨100, 50000, 10000⟩ 1000 = 45000 ∧
      (∀ x ∈ [tracked 34999 0, tracked 35000 (-755), tracked 35000 (-756)], x.service = .trade ∧ x.status = .stable ∧
        x.published.map (·.filtered) = some 45000 ∧ x.causes.zeroRange = false) ∧
      (500 * cal1.e : Int) < |45000 - 34999| ∧ |45000 - 35000| ≤ (500 * cal1.e : Int) ∧
      100 * |45000 - 1000 * -755| ≤ (cal1.zeroRange : Int) * (1000 * cal1.capacity) ∧
      (cal1.zeroRange : Int) * (1000 * cal1.capacity) < 100 * |45000 - 1000 * -756| ∧
      (onDeck 0 fun _ => tracked 35000 (-756)).toPart.tradesIdle 0 := by
  unfold Part.tradesIdle; decide +kernel

theorem test_witness_GoodSampleTaken_rows :
    let m := fun n : Nat => ({ base with monitor := ⟨some (0, 4), n⟩ } : State)
    let bad := frameOf [5, 0, 1, 1, 0xFF, 0xFF, 0xFF, 3]
    let s := fun ok causes => onDeck 0 fun x => { tradeDeck x with cal := some ⟨cal1, ok, false⟩, causes := causes }
    ((m 2).monitor.selection = some (0, 4) ∧ (m 2).monitor.count + 1 < 4 ∧ 4 ≤ (m 3).monitor.count + 1) ∧
      parseSample bad = some ⟨5, 0, 1, [(-1, .opened)]⟩ ∧ (s true .empty).toPart.tradesIdle 0 ∧
      ((s true .empty).toPart.deck 0).causes.cellFault = false ∧
      ((s true ⟨false, true, false, false, false⟩).toPart.deck 0).causes.cellFault = true ∧
      ((s false .empty).toPart.deck 0).cal = some ⟨cal1, false, false⟩ ∧ (s false .empty).toPart.tradesIdle 0 ∧
      ((s false .empty).toPart.deck 0).causes.tableParity = false ∧
      ((s false { DeckCauses.empty with tableParity := true }).toPart.deck 0).causes.tableParity = true := by
  unfold Part.tradesIdle; decide +kernel

/-- R146: a parity fault of deck 1 ends a visit and so activates the session on deck 2; the marks stand in deck order. -/
theorem test_marks_stand_in_deck_order :
    let s := ((visiting (visit .identify)).act (·.modAudit fun a => { a with session := some { session none with deck := 2 } })).act
      fun p => (p.modDeck 2 tradeDeck).modDeck 1 fun x => { tradeDeck x with cal := some ⟨cal1, false, false⟩ }
    (nextOf (exec (.sampleFrame 1 (frameOf [5, 1, 1, 1, 0xE8, 3, 0, 0])) s)).map (·.store.tableQueue) =
      some [.image 1, .image 2] := by decide +kernel

/-- R146: the marks of one step stand in deck order whatever order sets them, behind those of the steps before; a mark that
is set keeps its place. -/
theorem test_marks_of_one_step :
    let p := ((base.toPart.modDeck 0 tradeDeck).modDeck 2 tradeDeck).modDeck 5 tradeDeck
    (((p.markImage 5).markImage 0).markImage 2).store.tableQueue = [.image 0, .image 2, .image 5] ∧
      (((p.markImage 5).endMarking.markImage 2).markImage 0).store.tableQueue = [.image 5, .image 0, .image 2] ∧
      (((p.markImage 5).endMarking.markImage 2).markImage 5).store.tableQueue = [.image 5, .image 2] := by
  decide +kernel

theorem test_witness_SampleTimeoutFaultsDeck :
    let s := onDeck 5 fun x => { tradeDeck x with sampleTimer := .running 0 }
    s.toPart.settingsSettled ∧ (s.toPart.deck 5).sampleTimer = .running 0 ∧ (s.toPart.deck 5).service = .trade ∧
      (s.toPart.deck 5).causes.linkLoss = false ∧ s.toPart.visit (laneOf 5) = none ∧ s.toPart.inFlightOn 5 = none ∧
      (s.toPart.lane (laneOf 5)).causes = .empty ∧ (s.toPart.lane (laneOf 5)).state = .closed := by
  unfold Part.settingsSettled Slot.settled; decide +kernel

theorem test_witness_ClearanceReturnsToTrade :
    let s := onDeck 2 fun x => { tradeDeck x with
      service := .fault, clearance := .running 20000, causes := ⟨true, true, false, false, false⟩ }
    let last := ((s.act (·.modDeck 0 tradeDeck)).act (·.modDeck 1 tradeDeck)).act (·.modLane .l0 fun x =>
      { x with state := .fault, causes := { LaneCauses.empty with deckFault := true } })
    let other := last.act (·.modDeck 1 fun x => { x with service := .fault })
    (∀ u ∈ [s, last, other], u.toPart.settingsSettled ∧ (u.toPart.deck 2).clearance = .running 20000 ∧
      (u.toPart.deck 2).cal = some ⟨cal1, true, false⟩ ∧ (u.toPart.deck 2).service = .fault ∧
      (u.toPart.deck 2).causes.needsAudit = .empty ∧ (u.toPart.deck 2).causes.linkLoss = true ∧
      u.toPart.visit (laneOf 2) = none ∧ u.toPart.inFlightOn 2 = none) ∧
      (∃ e ∈ (laneOf 2).decks, e ≠ 2 ∧ (other.toPart.deck e).service = .fault) ∧
      (∀ e ∈ (laneOf 2).decks, e ≠ 2 → (last.toPart.deck e).service ≠ .fault) ∧
      (last.toPart.lane (laneOf 2)).state = .fault ∧
      (last.toPart.lane (laneOf 2)).causes = { LaneCauses.empty with deckFault := true } := by
  unfold Part.settingsSettled Slot.settled; decide +kernel

theorem test_witness_MonitorSetRows :
    base.toPart.settingsSettled ∧ base.toPart.takes 1 ∧ 5 < (6 : Byte).toNat ∧ (5 : Byte).toNat ≤ 5 ∧ (0 : Byte).toNat < 1 ∧
      50 < (51 : Byte).toNat ∧ (5 : DeckId).val = (5 : Byte).toNat ∧ 1 ≤ (50 : Byte).toNat ∧ (50 : Byte).toNat ≤ 50 := by
  unfold Part.settingsSettled Slot.settled Part.takes; decide +kernel

/-! ## Witnesses: lane lines, treadles and axle screens -/

theorem test_witness_BeamLevelDebounces :
    let s := onEnd .l0 .b fun x => { x with beamRaw := true, debounce := .running 0 }
    base.toPart.settingsSettled ∧ base.phase = .running ∧ (base.toPart.laneEnd .l1 .a).beamRaw ≠ true ∧
      s.toPart.settingsSettled ∧ (s.toPart.laneEnd .l0 .b).debounce = .running 0 ∧ s.toPart.visit .l0 = none ∧
      (s.toPart.laneEnd .l0 .b).beamRaw ≠ false := by
  unfold Part.settingsSettled Slot.settled; decide +kernel

theorem test_witness_BeamLevelDebounces_visits :
    let s := fun st raw level latch axles stable =>
      let u := (visiting (visit st) fun x => { x with axles := axles, quietTimer := .expired }).act (·.modEnd .l0 .a fun x =>
        { x with beamRaw := raw, beamLevel := level, beamLatch := latch, debounce := .running 50 })
      if stable then u.act fun p => LaneId.l0.decks.foldl (fun q d => q.modDeck d fun x => { x with status := .stable }) p
      else u
    (∀ u ∈ [s .held true false false [] false, s .entering false true true [default] false,
        s .settling true false false [] true, s .settling false true true [] true, s .exiting true false false [] false],
      u.toPart.settingsSettled ∧ (u.toPart.laneEnd .l0 .a).debounce = .running 50) ∧
      (s .entering false true true [default] false).toPart.visit .l0 = some (visit .entering) ∧
      (visit .entering).entry = .a ∧ ((s .entering false true true [default] false).toPart.lane .l0).axles ≠ [] ∧
      ((s .entering false true true [default] false).toPart.lane .l0).quietTimer = .expired ∧
      (∀ d ∈ LaneId.l0.decks, ((s .entering false true true [default] false).toPart.deck d).status ≠ .over ∧
        ((s .entering false true true [default] false).toPart.deck d).status ≠ .stable ∧
        ((s .settling false true true [] true).toPart.deck d).status = .stable) ∧
      (∀ m ∈ [LaneEnd.b], ((s .settling false true true [] true).toPart.laneEnd .l0 m).beamLevel = false) ∧
      ((s .exiting true false false [] false).toPart.laneEnd .l0 .a).beamRaw = true ∧
      ((s .exiting false true true [] false).toPart.laneEnd .l0 LaneEnd.a.other).beamLevel = false ∧
      (((s .exiting false true true [] false).act (·.modEnd .l0 .b fun x =>
        { x with beamLevel := true })).toPart.laneEnd .l0 LaneEnd.a.other).beamLevel = true := by
  unfold Part.settingsSettled Slot.settled; decide +kernel

/-- Lane 0 with a visit in ENTERING, the beam at end A to be CLEAR, one axle listed, its decks at these statuses. -/
def completing (st : WeightStatus) : State :=
  ((visiting (visit .entering) fun x => { x with axles := [default], quietTimer := .expired }).act (·.modEnd .l0 .a fun x =>
    { x with beamLevel := true, beamLatch := true, debounce := .running 50 })).act fun p =>
      LaneId.l0.decks.foldl (fun q d => q.modDeck d fun x => { x with status := st }) p

theorem test_witness_BeamLevelDebounces_over :
    (∀ s ∈ [completing .over, completing .stable, completing .motion], s.toPart.settingsSettled ∧
      (s.toPart.laneEnd .l0 .a).debounce = .running 50 ∧ (s.toPart.laneEnd .l0 .a).beamRaw = false ∧
      s.toPart.visit .l0 = some (visit .entering) ∧ (s.toPart.lane .l0).axles ≠ [] ∧
      (s.toPart.lane .l0).quietTimer = .expired ∧ (s.toPart.laneEnd .l0 .b).beamLevel = false) ∧
      (∃ d ∈ LaneId.l0.decks, ((completing .over).toPart.deck d).status = .over) ∧
      (∀ d ∈ LaneId.l0.decks, ((completing .stable).toPart.deck d).status = .stable ∧
        ((completing .motion).toPart.deck d).status ≠ .over) := by
  unfold Part.settingsSettled Slot.settled; decide +kernel

theorem test_witness_BarrierSupervision :
    let b : Barrier := ⟨false, false, .raise, .running 5, true⟩
    base.toPart.settingsSettled ∧ base.phase = .running ∧ (b.drive .raise false .stopped).driven = b.driven ∧
      (b.drive .lower true .stopped).driven = .stop ∧ (b.drive .lower false .stopped).driven ≠ b.driven ∧
      b.at .lower = false := by
  unfold Part.settingsSettled Slot.settled; decide +kernel

/-- Lane 0, whose visit has left, with its end A's barrier failed on its way down. -/
def stuck (down : Bool) : State :=
  (onEnd .l0 .a fun x => { x with barrier := ⟨false, down, .lower, .expired, true⟩ }).act (·.modLane .l0 fun x =>
    { x with state := .fault, causes := { LaneCauses.empty with barrier := true } })

theorem test_witness_BarrierSupervision_switches :
    let b := fun down => ((stuck down).toPart.laneEnd .l0 .a).barrier
    (stuck false).toPart.settingsSettled ∧ (stuck false).phase = .running ∧
      (stuck false).toPart.wanted .l0 .a = .lower ∧
      ({ b false with down := true } : Barrier).position = .down ∧ (b false).position = .between ∧
      ({ b true with down := false } : Barrier).position = .between ∧ (b true).at (b true).driven = true := by
  unfold Part.settingsSettled Slot.settled; decide +kernel

theorem test_witness_LaneCausesFaultLane :
    let s := onEnd .l1 .a fun x => { x with barrier := ⟨false, false, .raise, .running 0, false⟩ }
    s.toPart.settingsSettled ∧ (s.toPart.lane .l1).causes = .empty ∧ s.toPart.visit .l1 = none ∧
      (s.toPart.lane .l1).state = .closed ∧ (s.toPart.laneEnd .l1 .a).barrier.timer = .running 0 ∧ s.phase = .running ∧
      (s.toPart.lane .l1).stopInput = false ∧
      ((onLane .l1 fun x => { x with stopInput := true }).toPart.lane .l1).stopInput = true := by
  unfold Part.settingsSettled Slot.settled; decide +kernel

theorem test_witness_LaneCausesFaultLane_visits :
    let s := fun st => putSlot (visiting { visit st with pendingIndex := some 5 }) 5 (entryA .reserved)
    (∀ st ∈ [VisitState.identify, .consignWait, .entering, .settling, .held, .exiting, .clearing],
      (s st).toPart.settingsSettled ∧ (s st).toPart.visit .l0 = some { visit st with pendingIndex := some 5 } ∧
      ((s st).toPart.lane .l0).state = .opened ∧ ((s st).toPart.lane .l0).causes = .empty ∧ (s st).phase = .running ∧
      ((s st).toPart.lane .l0).stopInput = false ∧ ((s st).toPart.lane .l0).adoptedActive = true ∧
      (s st).audit.session = none) ∧
      (stuck false).toPart.visit .l0 = none ∧ ((stuck false).toPart.lane .l0).state = .fault ∧
      ((stuck false).toPart.lane .l0).causes = { LaneCauses.empty with barrier := true } ∧
      ((stuck false).toPart.lane LaneId.l0.other).causes.barrier = false ∧
      ((stuck false).toPart.laneEnd .l0 LaneEnd.a.other).barrier.failed = false := by
  unfold Part.settingsSettled Slot.settled; decide +kernel

theorem test_witness_TreadleEdgesAndDecoder :
    let latched := onEnd .l0 .a fun x => { x with latch1 := some 0 }
    let busy := latched.act (·.modLane .l0 fun x => { x with visit := some (visit .entering) })
    (∀ s ∈ [base, latched, busy], s.toPart.settingsSettled ∧ s.phase = .running) ∧
      (base.toPart.laneEnd .l0 .a).latch .t1 = none ∧ (latched.toPart.laneEnd .l0 .a).latch .t1 = some 0 ∧
      busy.toPart.visit .l0 = some (visit .entering) ∧ (visit .entering).state.beforeCapture = true ∧
      latched.toPart.visit .l0 = none ∧ (latched.toPart.laneEnd .l0 .a).decoder = .idle ∧
      (busy.toPart.laneEnd .l0 .a).latch .t1 ≠ none ∧ Treadle.t2 ≠ .t1 := by
  unfold Part.settingsSettled Slot.settled; decide +kernel

theorem test_witness_WindowExpiryIsFault :
    let s := onEnd .l0 .a fun x => { x with decoder := .hold .t2 0 0 }
    let t := s.act (·.modLane .l0 fun x => { x with visit := some (visit .entering) })
    (∀ u ∈ [s, t], u.toPart.settingsSettled ∧ (u.toPart.laneEnd .l0 .a).decoder = .hold .t2 0 0) ∧
      s.toPart.visit .l0 = none ∧ t.toPart.visit .l0 = some (visit .entering) ∧ (visit .entering).entry = .a := by
  unfold Part.settingsSettled Slot.settled; decide +kernel

theorem test_witness_WindowExpiryIsFault_edges :
    let s := fun st e late => (visiting (visit st)).act (·.modEnd .l0 e fun x =>
      { x with decoder := .hold .t1 0 800, latch1 := some 1, latch2 := if late then some 801 else none })
    (∀ st ∈ [VisitState.identify, .consignWait, .entering, .settling, .held, .exiting, .clearing],
      ∀ e ∈ [LaneEnd.a, .b], (s st e true).toPart.settingsSettled ∧ (s st e true).toPart.visit .l0 = some (visit st) ∧
        ((s st e true).toPart.laneEnd .l0 e).decoder = .hold .t1 0 800 ∧
        ((s st e true).toPart.laneEnd .l0 e).latch .t1 = some 1 ∧
        ((s st e true).toPart.laneEnd .l0 e).latch .t2 = some 801) ∧ (800 : Nat) < 801 ∧
      VisitState.identify.beforeCapture = true ∧ VisitState.clearing.beforeCapture = false := by
  unfold Part.settingsSettled Slot.settled; decide +kernel

/-- The axle record of a first axle. -/
def axle1 : Axle := ⟨1, 0, 10, some 36, false, none, some 100, none, none, none⟩

/-- A lane whose visit is in ENTERING with T1's edge held and T2's edge latched. -/
def passing (n t2 : Nat) : State :=
  (visiting (visit .entering) fun x => { x with axles := List.replicate n axle1 }).act
    (·.modEnd .l0 .a fun x => { x with decoder := .hold .t1 0 800, latch2 := some t2 })

theorem test_witness_InwardPassCountsAxle :
    (∀ s ∈ [passing 0 0, passing 1 0, passing 15 800, passing 16 800], s.toPart.settingsSettled ∧
      s.toPart.visit .l0 = some (visit .entering) ∧
      (s.toPart.laneEnd .l0 (visit .entering).entry).decoder = .hold .t1 0 800) ∧
      ((passing 15 800).toPart.laneEnd .l0 .a).latch2 = some 800 ∧ ((passing 15 800).toPart.lane .l0).axles.length = 15 ∧
      ((passing 16 800).toPart.lane .l0).axles.length = 16 ∧ ((passing 0 0).toPart.lane .l0).axles = [] ∧
      (∃ d ∈ LaneId.l0.decks, ((passing 0 0).toPart.deck d).published = none) ∧
      ((passing 15 800).toPart.lane .l0).axles.getLast? = some axle1 ∧
      ((passing 15 800).toPart.lane .l0).withdrawn = [] ∧
      ((passing 1 0).toPart.laneEnd .l0 .a).latch2 = some 0 ∧ ((passing 1 0).toPart.lane .l0).withdrawn = [] ∧
      ((passing 1 0).toPart.lane .l0).axles.getLast? = some axle1 ∧
      (LaneId.l0.decks.map fun d => ((LaneId.l0.decks.foldl (fun p e => p.modDeck e fun x =>
        { x with published := some (shows 1) }) (passing 0 0).toPart).deck d).published) =
          [shows 1, shows 1, shows 1].map some ∧
      (((passing 1 800).act (·.modLane .l0 fun x => { x with withdrawn := [some 9] })).toPart.lane .l0).withdrawn =
        [some 9] := by
  unfold Part.settingsSettled Slot.settled; decide +kernel

theorem test_witness_InwardPassCountsAxle_others :
    let back := fun n overflow => (visiting (visit .entering) fun x =>
      { x with axles := List.replicate n axle1, overflow := overflow }).act
        (·.modEnd .l0 .a fun x => { x with decoder := .hold .t2 0 800, latch1 := some 800 })
    let again := (visiting (visit .settling) fun x => { x with axles := List.replicate 16 axle1 }).act
      (·.modEnd .l0 .a fun x => { x with decoder := .hold .t1 0 800, latch2 := some 800 })
    let out := fun st => (visiting (visit st)).act
      (·.modEnd .l0 .b fun x => { x with decoder := .hold .t1 0 800, latch2 := some 800 })
    (∀ s ∈ [back 0 0, back 1 0, back 16 1, again, out .settling, out .exiting, out .held], s.toPart.settingsSettled) ∧
      (∀ s ∈ [back 0 0, back 1 0, back 16 1], s.toPart.visit .l0 = some (visit .entering) ∧
        (s.toPart.laneEnd .l0 .a).decoder = .hold .t2 0 800 ∧ (s.toPart.laneEnd .l0 .a).latch1 = some 800) ∧
      0 < ((back 16 1).toPart.lane .l0).overflow ∧ ((back 1 0).toPart.lane .l0).axles.getLast? = some axle1 ∧
      ((back 0 0).toPart.lane .l0).axles = [] ∧ again.toPart.visit .l0 = some (visit .settling) ∧
      16 ≤ (again.toPart.lane .l0).axles.length ∧ (again.toPart.laneEnd .l0 .a).latch2 = some 800 ∧
      (∀ st ∈ [VisitState.settling, .exiting, .held], (out st).toPart.visit .l0 = some (visit st) ∧
        ((out st).toPart.laneEnd .l0 LaneEnd.a.other).decoder = .hold .t1 0 800 ∧
        ((out st).toPart.laneEnd .l0 LaneEnd.a.other).latch .t2 = some 800) ∧
      VisitState.settling.beforeCapture = true := by
  unfold Part.settingsSettled Slot.settled; decide +kernel

theorem test_witness_InwardPassCountsAxle_states :
    let back := fun n overflow => (visiting (visit .settling) fun x =>
      { x with axles := List.replicate n axle1, overflow := overflow }).act
        (·.modEnd .l0 .a fun x => { x with decoder := .hold .t2 0 800, latch1 := some 0 })
    let at_ := fun st => (visiting (visit st)).act
      (·.modEnd .l0 .a fun x => { x with decoder := .hold .t1 0 800, latch2 := some 800 })
    let none_ := onEnd .l0 .b fun x => { x with decoder := .hold .t2 0 800, latch1 := some 800 }
    (∀ s ∈ [back 0 0, back 1 0, back 16 1], s.toPart.settingsSettled ∧ s.toPart.visit .l0 = some (visit .settling) ∧
      (s.toPart.laneEnd .l0 .a).decoder = .hold .t2 0 800 ∧ (s.toPart.laneEnd .l0 .a).latch1 = some 0) ∧
      0 < ((back 16 1).toPart.lane .l0).overflow ∧ ((back 1 0).toPart.lane .l0).axles.getLast? = some axle1 ∧
      ((back 0 0).toPart.lane .l0).axles = [] ∧
      (∀ st ∈ [VisitState.identify, .consignWait, .held, .exiting, .clearing, .settling],
        (at_ st).toPart.settingsSettled ∧ (at_ st).toPart.visit .l0 = some (visit st) ∧
        ((at_ st).toPart.laneEnd .l0 .a).decoder = .hold .t1 0 800 ∧
        ((at_ st).toPart.laneEnd .l0 .a).latch .t2 = some 800 ∧ ((at_ st).toPart.lane .l0).axles.length < 16) ∧
      none_.toPart.settingsSettled ∧ none_.toPart.visit .l0 = none ∧
      (none_.toPart.laneEnd .l0 .b).decoder = .hold .t2 0 800 ∧ (none_.toPart.laneEnd .l0 .b).latch .t1 = some 800 ∧
      Treadle.t2 ≠ .t1 := by
  unfold Part.settingsSettled Slot.settled; decide +kernel

/-! ## Witnesses: visits -/

theorem test_witness_TagReads :
    let s := onEnd .l1 .b fun x => { x with lastRead := some ⟨1, 0⟩ }
    let u := onLane .l1 fun x => { x with state := .opened }
    (∀ t ∈ [base, s, u], t.toPart.settingsSettled ∧ t.phase = .running) ∧ parseTag [] = none ∧
      parseTag tag1 = some (.l1, .b, 1) ∧ (s.toPart.laneEnd .l1 .b).lastRead = some ⟨1, 0⟩ ∧
      (s.toPart.elapse 49999).clock.running / 10 - 0 < 5000 ∧ 5000 ≤ (s.toPart.elapse 50000).clock.running / 10 - 0 ∧
      (base.toPart.laneEnd .l1 .b).lastRead = none ∧
      ((onLane .l1 fun x => { x with visit := some (visit .held) }).toPart.visit .l1).isSome = true ∧
      u.toPart.visit .l1 = none ∧ (u.toPart.lane .l1).state = .opened ∧ (u.toPart.lane .l1).blocks = .empty ∧
      (u.toPart.settings .l1).admitting.admits .b = true ∧ u.tables.register = [] := by
  unfold Part.settingsSettled Slot.settled; decide +kernel

/-- An OPEN lane 1, with slot 1023 of the register holding `r` behind a damaged slot. -/
def known (r : RegEntry) : State :=
  (onTables fun t => { t with register := [(0, ⟨none, true, true⟩), (1023, .fresh (some r))] }).act
    (·.modLane .l1 fun x => { x with state := .opened })

theorem test_witness_TagReads_register :
    let full := ((known { reg1 with preset := some ⟨500, 0⟩ }).act (·.modPairing fun x =>
      { x with slots := Vector.replicate 64 (some ⟨[0x42], none, .reserved, 1⟩) })).act (·.modTables fun t =>
        { t with settingsActive := { t.settingsActive with
          lanes := ⟨.fresh .default_, .fresh { LaneEntry.default_ with presetUse := .whenFull }⟩ } })
    (∀ s ∈ [known { reg1 with status := .barred }, known reg1, full], s.toPart.settingsSettled ∧ s.phase = .running ∧
      s.toPart.visit .l1 = none ∧ s.toPart.visit LaneId.l1.other = none ∧ (s.toPart.lane .l1).state = .opened ∧
      (s.toPart.lane .l1).blocks = .empty ∧ (s.toPart.settings .l1).admitting.admits .b = true ∧
      (s.toPart.lane .l1).adoptedActive = true ∧ s.audit.session = none ∧ s.tickets.staging = [] ∧
      s.pairing.find [0x41] = none ∧ s.pairing.findConsignment [0x41] = none) ∧
      searchPasses (fun r => r.tag = 1) [(0, ⟨none, true, true⟩)] ∧ reg1.tag = 1 ∧ reg1.vehicle = [0x41] ∧
      (known reg1).pairing.freeSlot = some 0 ∧ (known reg1).pairing.nextCreation < 4294967295 ∧
      full.pairing.freeSlot = none ∧ (full.toPart.settings .l1).presetUse = .whenFull ∧ full.clock.valid = true ∧
      0 ≤ full.clock.sec / 86400 ∧ full.clock.sec / 86400 ≤ 0 + full.toPart.site.presetAge := by
  unfold Part.settingsSettled Slot.settled searchPasses
  refine ⟨by decide +kernel, ?_, by decide +kernel⟩
  intro x h
  exact .inl (by rw [List.mem_singleton.mp h])

theorem test_witness_TagReads_ignored :
    let u := fun f => onLane .l1 fun x => f { x with state := .opened }
    let blocked := u fun x => { x with blocks := { x.blocks with auditPending := true } }
    let oneWay := (u id).act (·.modTables fun t => { t with settingsActive := { t.settingsActive with
      lanes := ⟨.fresh .default_, .fresh { LaneEntry.default_ with admitting := .endA }⟩ } })
    (∀ s ∈ [base, blocked, oneWay, known reg1], s.toPart.settingsSettled ∧ s.phase = .running ∧
      s.toPart.visit .l1 = none ∧ (s.toPart.laneEnd .l1 .b).lastRead = none ∧ s.tables.settingsActive.settled) ∧
      (base.toPart.lane .l1).state ≠ .opened ∧ (blocked.toPart.lane .l1).state = .opened ∧
      (blocked.toPart.lane .l1).blocks ≠ .empty ∧ (oneWay.toPart.lane .l1).blocks = .empty ∧
      (oneWay.toPart.settings .l1).admitting.admits .b = false ∧ reg1.status = .active := by
  unfold Part.settingsSettled SettingsImage.settled Slot.settled; decide +kernel

/-- A lane that takes an identity, in each of the cases that Part.identified tells apart. -/
theorem test_witness_TagReads_identified :
    let s := (known reg1).toPart
    let full := s.modPairing fun x => { x with slots := Vector.replicate 64 (some ⟨[0x42], none, .reserved, 1⟩) }
    let twice := s.modLane .l0 fun x => { x with visit := some (visit .clearing) }
    let listed := s.modPairing fun x => { x with consignments := [⟨[0x41], grain, 0⟩] }
    let opened := (putSlot (known reg1) 63 (entryA (.opened (grossOf 30000 50)))).toPart
    let reserved := (putSlot (known reg1) 63 (entryA .reserved)).toPart
    twice.visit LaneId.l1.other = some (visit .clearing) ∧ (visit .clearing).vehicle = some reg1.vehicle ∧
      (visit .clearing).state ≠ .identify ∧ s.visit LaneId.l1.other = none ∧ s.pairing.find [0x41] = none ∧
      s.pairing.freeSlot = some 0 ∧ full.pairing.freeSlot = none ∧ full.pairing.find [0x41] = none ∧
      opened.pairing.find [0x41] = some (63, entryA (.opened (grossOf 30000 50))) ∧
      reserved.pairing.find [0x41] = some (63, entryA .reserved) ∧
      listed.pairing.findConsignment [0x41] = some ⟨[0x41], grain, 0⟩ ∧ s.pairing.findConsignment [0x41] = none := by
  decide +kernel

theorem test_witness_TagReads_layout : parseTag (tagWire (readerOf .l1 .b) 0x7E7D) = some (.l1, .b, 0x7E7D) := by
  decide +kernel

/-- The 12-byte field of the vehicle A. -/
def vehicleA : List Byte := 0x41 :: List.replicate 11 0

theorem test_witness_AdmitStartsGrossVisit :
    let s := onLane .l1 fun x => { x with state := .opened }
    s.toPart.settingsSettled ∧ s.toPart.takes 1 ∧ (1 : Byte).toNat = LaneId.l1.toNat ∧
      parseVehicle vehicleA = some [0x41] ∧ (s.toPart.lane .l1).state = .opened ∧ s.toPart.visit .l1 = none ∧
      (s.toPart.lane .l1).blocks = .empty ∧ s.tables.register = [] ∧ s.toPart.visit LaneId.l1.other = none ∧
      s.pairing.find [0x41] = none ∧ s.pairing.freeSlot = some 0 ∧ s.pairing.findConsignment [0x41] = none ∧
      s.pairing.nextCreation < 4294967295 := by
  unfold Part.settingsSettled Slot.settled Part.takes; decide +kernel

theorem test_witness_AdmitStartsGrossVisit_others :
    let opened := onLane .l1 fun x => { x with state := .opened, nextVisit := 255 }
    let claims := putSlot opened 63 (entryA (.opened (grossOf 30000 50)))
    let twice := opened.act (·.modLane .l0 fun x => { x with state := .opened, visit := some (visit .clearing) })
    let full := opened.act (·.modPairing fun x =>
      { x with slots := Vector.replicate 64 (some ⟨[0x42], none, .reserved, 1⟩) })
    (∀ s ∈ [claims, twice, full], s.toPart.settingsSettled ∧ s.toPart.takes 1 ∧ (s.toPart.lane .l1).state = .opened ∧
      s.toPart.visit .l1 = none ∧ (s.toPart.lane .l1).blocks = .empty ∧ s.tables.register = [] ∧
      (s.toPart.lane .l1).adoptedActive = true ∧ s.audit.session = none ∧ s.tickets.staging = []) ∧
      claims.pairing.find [0x41] = some (63, entryA (.opened (grossOf 30000 50))) ∧
      claims.toPart.visit LaneId.l1.other = none ∧ twice.toPart.visit LaneId.l1.other = some (visit .clearing) ∧
      (visit .clearing).vehicle = some [0x41] ∧ (visit .clearing).state ≠ .identify ∧
      full.pairing.find [0x41] = none ∧ full.pairing.freeSlot = none := by
  unfold Part.settingsSettled Slot.settled Part.takes; decide +kernel

theorem test_witness_AdmitStartsGrossVisit_rows :
    let barred := (known { reg1 with status := .barred }).act (·.modTables fun t => { t with
      register := t.register ++ [(1, .fresh (some { reg1 with tag := 2 }))] })
    let identify := visiting (visit .identify)
    let blocked := onLane .l0 fun x => { x with state := .opened, blocks := { x.blocks with storeBusy := true } }
    (∀ s ∈ [base, barred, identify, blocked, visiting (visit .held)], s.toPart.settingsSettled ∧ s.toPart.takes 1 ∧
      s.tables.settingsActive.settled) ∧ parseVehicle [0x61] = none ∧
      parseVehicle [0x41, 0] = some [0x41] ∧ (base.toPart.lane .l0).state ≠ .opened ∧
      (blocked.toPart.lane .l0).blocks ≠ .empty ∧ (visiting (visit .held)).toPart.visit .l0 = some (visit .held) ∧
      identify.toPart.visit .l0 = some (visit .identify) ∧ (visit .identify).pendingIndex = none ∧
      (visit .identify).entry ≠ .b ∧ base.toPart.visit .l0 = none ∧
      searchPasses (fun r => r.status = .active ∧ r.vehicle = [0x41])
        [(0, ⟨none, true, true⟩), (1023, .fresh (some { reg1 with status := .barred }))] ∧
      barred.tables.register = [(0, ⟨none, true, true⟩), (1023, .fresh (some { reg1 with status := .barred }))] ++
        (1, .fresh (some { reg1 with tag := 2 })) :: [] := by
  unfold Part.settingsSettled SettingsImage.settled Slot.settled Part.takes
  have passes : searchPasses (fun r => r.status = .active ∧ r.vehicle = [0x41])
      [(0, ⟨none, true, true⟩), (1023, .fresh (some { reg1 with status := .barred }))] := by
    simp [searchPasses, Slot.fresh]
  and_intros
  all_goals first | exact passes | decide +kernel

theorem test_witness_WaitTimersEndVisit :
    let w := fun v => visiting v fun x => { x with waitTimer := .running 0 }
    let c : Visit := { visit .consignWait with pendingIndex := some 63 }
    let s := w (visit .identify)
    let t := putSlot (w c) 63 (entryA .reserved)
    (∀ u ∈ [s, t], u.toPart.settingsSettled ∧ (u.toPart.lane .l0).waitTimer = .running 0 ∧
      (u.toPart.lane .l0).state = .opened ∧ (u.toPart.lane .l0).adoptedActive = true ∧
      (u.toPart.lane .l0).blocks.closeRequested = false ∧ u.audit.session = none ∧ u.tickets.staging = []) ∧
      s.toPart.visit .l0 = some (visit .identify) ∧ (visit .identify).pendingIndex = none ∧ t.toPart.visit .l0 = some c ∧
      t.toPart.slot 63 = some (entryA .reserved) := by
  unfold Part.settingsSettled Slot.settled; decide +kernel

theorem test_witness_DwellAndClearTimers :
    let timed := fun (st : VisitState) => visiting (visit st) fun x =>
      { x with dwellTimer := .running 0, clearTimer := .running 0 }
    (∀ st ∈ [VisitState.held, .exiting, .clearing, .entering, .settling],
      (timed st).toPart.settingsSettled ∧ (timed st).toPart.visit .l0 = some (visit st) ∧
      ((timed st).toPart.lane .l0).dwellTimer = .running 0 ∧ ((timed st).toPart.lane .l0).clearTimer = .running 0) ∧
      (let s := stableAt (timed .exiting) 101
       (s.toPart.settings .l0).emptyBand * cal1.e = 100 ∧ (s.toPart.deck 0).published = some (shows 101) ∧
         (s.toPart.deck 0).cal = some ⟨cal1, true, false⟩) ∧
      (let s := stableAt (timed .exiting) 100
       (∀ d ∈ LaneId.l0.decks, (s.toPart.deck d).published = some (shows 100) ∧
         (s.toPart.deck d).cal = some ⟨cal1, true, false⟩) ∧ (s.toPart.lane .l0).state = .opened ∧
         (s.toPart.lane .l0).adoptedActive = true ∧ (s.toPart.lane .l0).blocks.closeRequested = false ∧
         s.audit.session = none ∧ s.tickets.staging = []) := by
  unfold Part.settingsSettled Slot.settled; decide +kernel

theorem test_witness_DwellAndClearTimers_closings :
    let c := fun kg f => stableAt (visiting (visit .exiting) fun x => f { x with clearTimer := .running 0 }) kg
    let asked := c 100 fun x => { x with blocks := { x.blocks with closeRequested := true } }
    let adopts := (c 100 fun x => { x with adoptedActive := false }).act
      (·.modTables fun t => { t with settingsPrevious := some .default_ })
    let audits := (c 100 id).act (·.modAudit fun a => { a with session := some (session none) })
    let waits := visiting (visit .consignWait) fun x => { x with dwellTimer := .running 0 }
    (∀ s ∈ [c 100 id, asked, adopts, audits, waits, (c 0 id).act (·.modDeck 1 fun x => { x with published := none })],
      s.toPart.settingsSettled ∧ (s.toPart.lane .l0).state = .opened) ∧
      (asked.toPart.lane .l0).blocks.closeRequested = true ∧ (asked.toPart.lane .l0).adoptedActive = true ∧
      asked.audit.session = none ∧ (adopts.toPart.lane .l0).adoptedActive = false ∧
      (adopts.toPart.lane LaneId.l0.other).adoptedActive = true ∧
      (adopts.toPart.lane .l0).blocks.closeRequested = false ∧
      (adopts.toPart.lane .l0).causes.settingsParity = false ∧
      (adopts.tables.settingsActive.lanes.get .l0).good = true ∧ adopts.tables.settingsActive.site.settled ∧
      audits.audit.session = some (session none) ∧ laneOf (session none).deck = .l0 ∧ (session none).atOpen = none ∧
      (session none).inFlight = none ∧ waits.toPart.visit .l0 = some (visit .consignWait) ∧
      (waits.toPart.lane .l0).dwellTimer = .running 0 ∧ (waits.toPart.lane .l0).adoptedActive = true ∧
      waits.audit.session = none := by
  unfold Part.settingsSettled Slot.settled; decide +kernel

theorem test_witness_QuietTimerSettles :
    let q := fun axles => visiting (visit .entering) fun x => { x with quietTimer := .running 0, axles := axles }
    (∀ s ∈ [q [], q [axle1], stableAt (q [axle1]) 1000], s.toPart.settingsSettled ∧
      s.toPart.visit .l0 = some (visit .entering) ∧ (s.toPart.lane .l0).quietTimer = .running 0) ∧
      ((q []).toPart.lane .l0).axles = [] ∧ ((q [axle1]).toPart.lane .l0).axles ≠ [] ∧
      (∀ e ∈ [LaneEnd.a, .b], ((q [axle1]).toPart.laneEnd .l0 e).beamLevel = false ∧
        ((stableAt (q [axle1]) 1000).toPart.laneEnd .l0 e).beamLevel = false) ∧
      (∀ d ∈ LaneId.l0.decks, ((q [axle1]).toPart.deck d).status ≠ .over ∧
        ((q [axle1]).toPart.deck d).status ≠ .stable ∧ ((stableAt (q [axle1]) 1000).toPart.deck d).status = .stable) := by
  unfold Part.settingsSettled Slot.settled; decide +kernel

/-- Lane 0 with a visit in SETTLING, its decks STABLE, deck 0's stability window full at `g` grams. -/
def sampling (g : Int) (t : Timer) : State :=
  (stableAt (visiting (visit .settling) fun x => { x with settleTimer := t }) 1000).act
    (·.modDeck 0 fun x => { x with stability := List.replicate 8 g })

theorem test_witness_QuietTimerSettles_samples :
    let f : Sample := ⟨5, 0, 126, [(1000, .good)]⟩
    let heavy : Sample := ⟨5, 0, 1, [(8388607, .good)]⟩
    let after := fun s f => (State.toPart s).sampled 0 cal1 f
    (∀ s ∈ [sampling 45000 .stopped, sampling 45000 (.running 9), sampling 90000 .stopped], s.toPart.settingsSettled ∧
      s.phase = .running ∧ s.toPart.visit (laneOf 0) = some (visit .settling) ∧ s.toPart.inFlightOn 0 = none ∧
      (s.toPart.deck 0).cal = some ⟨cal1, true, false⟩ ∧ (s.toPart.deck 0).lastSeq = none ∧ s.monitor.selection = none) ∧
      parseSample sample126 = some f ∧ parseSample (frameOf [5, 0, 1, 1, 0xFF, 0xFF, 0x7F, 0]) = some heavy ∧
      (after (sampling 45000 .stopped) f).status = .stable ∧ (after (sampling 90000 .stopped) f).status = .motion ∧
      (after (sampling 45000 .stopped) heavy).status = .over ∧
      (∀ e ∈ LaneId.l0.decks, e ≠ 0 → ((sampling 45000 .stopped).toPart.deck e).status = .stable) ∧
      (∀ m ∈ [LaneEnd.a, .b], ((sampling 45000 .stopped).toPart.laneEnd .l0 m).beamLatch = false) ∧
      (let q := visiting (visit .entering) fun x => { x with quietTimer := .running 0, axles := [axle1] }
       ∃ d ∈ LaneId.l0.decks, ((q.act (·.modDeck 2 fun x => { x with status := .over })).toPart.deck d).status = .over) := by
  unfold Part.settingsSettled Slot.settled; decide +kernel

theorem test_witness_SettleCompletionRows :
    let v := fun (k : VisitKind) => { visit .settling with
      kind := some k, pendingIndex := some 5, consignment := some grain }
    let s := fun k kg => putSlot (stableAt (visiting (v k) fun x =>
      { x with settleTimer := .running 0, axleInvalid := true }) kg) 5 (entryA .reserved)
    (∀ u ∈ [s .gross 333, s .gross 334], u.toPart.settingsSettled ∧ u.toPart.visit .l0 = some (v .gross) ∧
      (u.toPart.lane .l0).settleTimer = .running 0) ∧
      (let w := fun (u : State) =>
         (LaneId.l0.decks.map fun d => ((u.toPart.deck d).published.map (·.displayed)).getD (0 : Int)).sum
       (w (s .gross 333) : Int) < ((s .gross 333).toPart.settings .l0).minGross ∧
         ((s .gross 334).toPart.settings .l0).minGross ≤ w (s .gross 334)) ∧
      (v .tare).kind = some .tare ∧ (v .grossPreset).kind = some .grossPreset ∧
      8 ≤ ((s .tare 334).act (·.modTickets fun t => { t with
        staging := List.replicate 8 default })).tickets.staging.length ∧
      ((s .gross 334).toPart.lane .l0).axleInvalid = true ∧ (s .gross 334).toPart.slot 5 = some (entryA .reserved) ∧
      (v .gross).consignment = some grain := by
  unfold Part.settingsSettled Slot.settled; decide +kernel

/-- Lane 0 at 334 kg a deck, its settle timer running out, for a visit with these axle totals. -/
def settling (k : VisitKind) (e : EntryState) (totals : List Int) : State :=
  putSlot (stableAt (visiting { visit .settling with
    kind := some k, pendingIndex := some 5, consignment := some grain, preset := some ⟨1001, 0⟩ } fun x => { x with
      settleTimer := .running 0, axleInvalid := totals.isEmpty
      axles := totals.map fun w => { axle1 with total := some w, spacing := some 5000 } }) 334) 5 (entryA e)

theorem test_witness_SettleCompletionRows_captures :
    let fails := settling .gross .reserved [300000, 200000, 400000]
    let screened := fun overload => (settling .gross .reserved [300000, 700000]).act (·.modTables fun t => { t with
      classActive := t.classActive.setIfInBounds 47 (.fresh (some ⟨4, [1, 1], [10, 50000], 50000⟩))
      settingsActive := { t.settingsActive with
        lanes := ⟨.fresh { LaneEntry.default_ with overload := overload }, .fresh .default_⟩ } })
    let r := verdictOf 0 [1, 1] (groupMasses [1, 2] (scaledWeights (stepWeights [300000, 700000] 1002000) 1002)) 1002
      (some ⟨4, [1, 1], [10, 50000], 50000⟩)
    (∀ s ∈ [fails, screened .hold, screened .note, settling .tare (.claimed (grossOf 1003 0) .l0) [], settling .grossPreset .reserved []],
      s.toPart.settingsSettled ∧ (s.toPart.lane .l0).settleTimer = .running 0 ∧ s.tickets.staging.length < 8) ∧
      (∀ s ∈ [fails, screened .hold], (s.toPart.lane .l0).axleInvalid = false ∧
        ∀ a ∈ (s.toPart.lane .l0).axles, a.offBand = false) ∧
      ((fails.toPart.lane .l0).axles.map (·.total) = [300000, 200000, 400000].map some) ∧
      (∃ w ∈ stepWeights [300000, 200000, 400000] 1002000, w < 0) ∧
      0 < (stepWeights [300000, 700000] 1002000).sum ∧ (∀ w ∈ stepWeights [300000, 700000] 1002000, 0 ≤ w) ∧
      (∀ z ∈ (screened .hold).tables.classActive.toList, z.good = true) ∧ r.kind = .over ∧
      ((screened .hold).toPart.settings .l0).overload = .hold ∧
      ((screened .note).toPart.settings .l0).overload = .note ∧
      ((settling .tare (.claimed (grossOf 1003 0) .l0) []).toPart.lane .l0).axleInvalid = true ∧
      (settling .tare (.claimed (grossOf 1003 0) .l0) []).toPart.slot 5 =
        some (entryA (.claimed (grossOf 1003 0) .l0)) := by
  unfold Part.settingsSettled Slot.settled; decide +kernel

theorem test_witness_WeightsGroupsAndVerdict :
    let c : ClassEntry := ⟨1, [1, 2], [8000, 16000], 24000⟩
    c.limits.length = [8001, (16000 : Int)].length ∧ [(1 : Int), -1] ≠ [] ∧
      (verdictOf 0 [1, 2] [8001, 16000] 24001 (some c)).overGroups = [1] ∧
      (verdictOf 0 [1, 2] [8000, 16000] 24000 (some c)).kind = .compliant := by
  decide +kernel

/-! ## Witnesses: requests to the lanes and to the pairing unit -/

/-- Lane 0 with its three decks in TRADE. -/
def trading (f : Lane → Lane) : State := stableAt (onLane .l0 fun x => f { x with adoptedValid := true }) 0

theorem test_witness_LaneOpenAndClose :
    let ready := trading id
    let latched := onLane .l0 fun x => { x with
      stopLatch := true, state := .fault, causes := { LaneCauses.empty with laneStop := true } }
    (∀ s ∈ [base, ready, latched, visiting (visit .held), { ready with clock := ⟨0, 0, 0, false, false⟩ }],
      s.toPart.settingsSettled ∧ s.toPart.takes 1) ∧ (0 : Byte).toNat = LaneId.l0.toNat ∧
      (latched.toPart.lane .l0).state ≠ .closed ∧ (ready.toPart.lane .l0).state = .closed ∧ ready.clock.valid = true ∧
      (base.toPart.lane .l0).adoptedValid = false ∧ (ready.toPart.lane .l0).adoptedValid = true ∧
      (∃ d ∈ LaneId.l0.decks, (base.toPart.deck d).service ≠ .trade) ∧
      (∀ d ∈ LaneId.l0.decks, (ready.toPart.deck d).service = .trade) ∧ (ready.toPart.lane .l0).stopLatch = false ∧
      ((visiting (visit .held)).toPart.lane .l0).state = .opened ∧ (visiting (visit .held)).toPart.visit .l0 ≠ none ∧
      ((onLane .l0 fun x => { x with state := .opened }).toPart.lane .l0).visit = none ∧
      (latched.toPart.lane .l0).stopLatch = true ∧ (latched.toPart.lane .l0).stopInput = false ∧
      (latched.toPart.lane .l0).visit = none ∧
      (latched.toPart.lane .l0).causes = { LaneCauses.empty with laneStop := true } := by
  unfold Part.settingsSettled Slot.settled Part.takes; decide +kernel

theorem test_witness_ConsignRows :
    let waits := visiting (visit .consignWait)
    let full := base.act (·.modPairing fun x => { x with consignments := List.replicate 16 ⟨[0x42], grain, 0⟩ })
    (∀ s ∈ [base, waits, full], s.toPart.settingsSettled ∧ s.toPart.takes 1 ∧ s.clock.valid = true) ∧
      parseVehicle vehicleA = some [0x41] ∧ consignmentOk grain = true ∧
      waits.toPart.visit .l0 = some (visit .consignWait) ∧ (visit .consignWait).vehicle = some [0x41] ∧
      waits.toPart.visit LaneId.l0.other = none ∧ (∀ l ∈ [LaneId.l0, .l1], full.toPart.visit l = none) ∧
      full.pairing.find [0x41] = none ∧ full.pairing.findConsignment [0x41] = none ∧
      base.pairing.consignments.length < 16 ∧ full.pairing.consignments.length = 16 := by
  unfold Part.settingsSettled Slot.settled Part.takes; decide +kernel

theorem test_witness_ConsignRows_others :
    let listed := base.act (·.modPairing fun x => { x with consignments := [⟨[0x41], grain, 0⟩, ⟨[0x42], grain, 0⟩] })
    let busy := putSlot base 0 (entryA .reserved)
    let holds := visiting { visit .entering with consignment := some grain }
    let bare : State := { base with clock := ⟨0, 100, 0, false, false⟩ }
    (∀ s ∈ [listed, busy, holds, bare], s.toPart.settingsSettled ∧ s.toPart.takes 1) ∧
      parseVehicle [0x61] = none ∧ consignmentOk { grain with bin := some 65 } = false ∧
      consignmentOk { grain with bin := some 64, commodity := 999 } = true ∧ bare.clock.valid = false ∧
      listed.pairing.findConsignment [0x41] ≠ none ∧ listed.pairing.find [0x41] = none ∧
      busy.pairing.find [0x41] ≠ none ∧ (visit .entering).vehicle = some [0x41] ∧
      holds.toPart.visit .l0 = some { visit .entering with consignment := some grain } ∧
      (visit .entering).state ≠ .consignWait := by
  unfold Part.settingsSettled Slot.settled Part.takes; decide +kernel

theorem test_witness_PendingRequests :
    let opened := putSlot base 63 (entryA (.opened (grossOf 30000 50)))
    let fault := opened.act (·.modStore fun x => { x with fault := true })
    (∀ s ∈ [base, opened, putSlot base 0 (entryA .reserved), fault, staging opened 7, staging opened 8],
      s.toPart.settingsSettled ∧ s.toPart.takes 1) ∧ parseVehicle vehicleA = some [0x41] ∧
      parseVehicle [0x61] = none ∧ base.pairing.find [0x41] = none ∧
      (putSlot base 0 (entryA .reserved)).pairing.find [0x41] = some (0, entryA .reserved) ∧
      opened.pairing.find [0x41] = some (63, entryA (.opened (grossOf 30000 50))) ∧ fault.store.fault = true ∧
      opened.store.fault = false ∧ (staging opened 7).tickets.staging.length < 8 ∧
      8 ≤ (staging opened 8).tickets.staging.length ∧ (63 : Byte).toNat ≤ 63 := by
  unfold Part.settingsSettled Slot.settled Part.takes; decide +kernel

theorem test_witness_ReleaseAndAbort :
    let c : Capture := ⟨[1, 2, 3], 6, ⟨0, 0⟩, [0, 0, 0], ⟨.over, some 1, none, none, [], true, 0, none⟩⟩
    let v : Visit := { visit .held with
      kind := some .gross, pendingIndex := some 0, capture := some c, consignment := some grain }
    let s := putSlot (visiting v) 0 (entryA .reserved)
    (∀ t ∈ [base, s], t.toPart.settingsSettled ∧ t.toPart.takes 1) ∧ (0 : Byte).toNat = LaneId.l0.toNat ∧
      base.toPart.visit .l0 = none ∧ s.toPart.visit .l0 = some v ∧ s.toPart.slot 0 = some (entryA .reserved) ∧
      v.state = .held ∧ (visit .exiting).state = .exiting ∧ v.capture = some c ∧ (entryA .reserved).state = .reserved := by
  unfold Part.settingsSettled Slot.settled Part.takes; decide +kernel

theorem test_witness_ReleaseAndAbort_preset :
    let c : Capture := ⟨[1, 2, 3], 6, ⟨0, 0⟩, [0, 0, 0], ⟨.over, some 1, none, none, [], true, 0, none⟩⟩
    let v : Visit := { visit .held with
      kind := some .grossPreset, capture := some c, consignment := some grain, preset := some ⟨5, 0⟩ }
    let s := visiting v
    (∀ n ∈ [7, 8], (staging s n).toPart.settingsSettled ∧ (staging s n).toPart.takes 1 ∧
      (staging s n).toPart.visit .l0 = some v) ∧ (staging s 7).tickets.staging.length < 8 ∧
      8 ≤ (staging s 8).tickets.staging.length ∧ (v.kind = some .grossPreset) ∧ v.vehicle = some [0x41] ∧
      (∀ st ∈ [VisitState.identify, .consignWait], (visiting (visit st)).toPart.settingsSettled ∧
        (visiting (visit st)).toPart.visit .l0 = some (visit st) ∧
        ((visiting (visit st)).toPart.lane .l0).adoptedActive = true ∧ (visiting (visit st)).audit.session = none) := by
  unfold Part.settingsSettled Slot.settled Part.takes; decide +kernel

theorem test_witness_ClockEvents :
    let due : State := { base with clock := ⟨0, 90000, 999, true, true⟩ }
    let aged := putSlot due 1 (entryA (.opened (grossOf 30000 50)))
    let young := putSlot due 1 (entryA (.opened (grossOf 30000 90000)))
    (∀ s ∈ [due, aged, young, base, State.reset], s.toPart.settingsSettled ∧ s.clock.ms ≤ 999 ∧ s.clock.sec < secLimit) ∧
      due.phase = .running ∧ due.clock.valid = true ∧ due.clock.boundaryDue = true ∧
      (grossOf 30000 50).time.toMs + due.toPart.site.pendingAge * 3600000 < due.toPart.siteTime.toMs ∧
      due.toPart.siteTime.toMs ≤ (grossOf 30000 90000).time.toMs + due.toPart.site.pendingAge * 3600000 ∧
      (let s : State := { State.reset with clock := ⟨0, 4294967280 - 60, 0, true, false⟩ }
       s.toPart.settingsSettled ∧ s.phase ≠ .running ∧ s.clock.boundaryDue = false ∧
         60 * (s.clock.sec / 60) + 60 < secLimit) := by
  unfold Part.settingsSettled Slot.settled; decide +kernel

theorem test_witness_ClockEvents_expired :
    let due := fun n => putSlot (putSlot (staging { base with clock := ⟨0, 90000, 999, true, true⟩ } n) 9
      { entryA (.opened (grossOf 30000 50)) with creation := 4 }) 60 { entryA (.opened (grossOf 1003 60)) with creation := 3 }
    let late : State := { base with clock := ⟨0, 4294967280, 0, true, false⟩ }
    let coming : State := { base with clock := ⟨5, 119, 999, true, false⟩ }
    (∀ s ∈ [due 7, due 6, due 8, late, coming, State.reset], s.toPart.settingsSettled ∧ s.clock.ms ≤ 999 ∧
      s.clock.sec < secLimit) ∧
      (due 7).phase = .running ∧ (due 7).clock.valid = true ∧ (due 7).clock.boundaryDue = true ∧
      (due 7).pairing.order = [60, 9] ∧ ((due 7).toPart.overdueEntries.take 1).map (·.1) = [60] ∧
      ((due 6).toPart.overdueEntries.take 2).map (·.1) = [60, 9] ∧
      late.clock.boundaryDue = false ∧ secLimit ≤ 60 * (late.clock.sec / 60) + 60 ∧ State.reset.clock.valid = false ∧
      coming.clock.valid = true ∧ 60 * (coming.clock.sec / 60) + 60 < secLimit := by
  unfold Part.settingsSettled Slot.settled; decide +kernel

/-! ## Witnesses: audits -/

theorem test_witness_AuditOpenRows :
    let tight := onAudit fun a => { a with trail := { a.trail with nextSeq := 993 } }
    let spare := onAudit fun a => { a with trail := { a.trail with nextSeq := 992 } }
    let fault := base.act (·.modStore fun x => { x with fault := true })
    let waiting := onAudit fun a => { a with session := some (session none), waitTimer := .running 0 }
    (∀ s ∈ [base, tight, spare, fault, waiting, visiting (visit .held)], s.toPart.settingsSettled ∧ s.toPart.takes 1) ∧
      (1 : DeckId).val = (1 : Byte).toNat ∧ waiting.audit.session ≠ none ∧ fault.store.fault = true ∧
      tight.audit.trail.free = 32 ∧ spare.audit.trail.free = 33 ∧ spare.audit.session = none ∧
      spare.store.fault = false ∧ spare.toPart.visit (laneOf 1) = none ∧ spare.audit.trail.gap = 0 ∧
      spare.audit.trail.staging.length < 15 ∧ ((visiting (visit .held)).toPart.visit (laneOf 1)).isSome = true ∧
      waiting.audit.waitTimer = .running 0 ∧ waiting.audit.session = some (session none) := by
  unfold Part.settingsSettled Slot.settled Part.takes; decide +kernel

/-- A step that is not judged yet. -/
def openStep : AuditStepRec := ⟨.load, 20000, none, none, none⟩

/-- Deck 1 in AUDIT under an ACTIVE session with these steps. -/
def auditing (steps : List AuditStepRec) (n : Option Nat) (f : Deck → Deck := id) : State :=
  ((onAudit fun a => { a with
    session := some { session (some atOpen) with steps := steps, inFlight := n }, stepTimer := .running 0 }).act
      (·.modDeck 1 fun x => f { tradeDeck x with
        service := .audit, status := .stable, published := some (shows 20000), marker := some 0 })).act
          (·.modLane .l0 fun x => { x with state := .audit })

theorem test_witness_AuditStepRows :
    let idle := auditing [] none
    let full := auditing (List.replicate 24 openStep) none
    let busy := auditing [openStep] (some 1)
    let tight := idle.act (·.modTrail fun t => { t with nextSeq := 993 })
    (∀ s ∈ [base, idle, full, busy, tight], s.toPart.settingsSettled ∧ s.toPart.takes 1) ∧ base.audit.session = none ∧
      idle.audit.session = some (session (some atOpen)) ∧ idle.audit.calWrite = none ∧
      (∃ x, busy.audit.session = some x ∧ x.atOpen = some atOpen ∧ x.inFlight = some 1 ∧ x.steps[1 - 1]? = some openStep) ∧
      (∃ x, full.audit.session = some x ∧ x.inFlight = none ∧ x.steps.length = 24) ∧
      (idle.toPart.deck 1).cal = some ⟨cal1, true, false⟩ ∧ (0 : U32).toInt < 1 ∧ cal1.capacity < (20001 : U32).toInt ∧
      1 ≤ (1 : U32).toInt ∧ (20000 : U32).toInt ≤ cal1.capacity ∧ (0 : Byte).toNat < cal1.cells.length ∧
      tight.audit.trail.free ≤ 32 ∧ 32 < idle.audit.trail.free ∧ busy.audit.stepTimer = .running 0 := by
  unfold Part.settingsSettled Slot.settled Part.takes
  and_intros
  all_goals decide +kernel

/-- A sample of deck 1 with this sequence number and 1000 counts. -/
def sampleOf1 (seq : Byte) : List Byte := frameOf [5, 1, seq, 1, 0xE8, 3, 0, 0]

theorem test_witness_AuditStepRows_sample :
    let s := auditing [openStep] (some 1) fun x => { x with
      lastSeq := some 9, stability := List.replicate 8 45000, remembered := List.replicate 8 .good, published := none }
    let y := (s.toPart.deck 1).take cal1 45000
    s.toPart.settingsSettled ∧ s.phase = .running ∧ s.toPart.visit (laneOf 1) = none ∧ s.monitor.selection = none ∧
      (s.toPart.deck 1).service = .audit ∧ (s.toPart.deck 1).causes.linkLoss = false ∧
      (s.toPart.deck 1).causes.cellFault = false ∧ (s.toPart.deck 1).cal = some ⟨cal1, true, false⟩ ∧
      parseSample (sampleOf1 13) = some ⟨5, 1, 13, [(1000, .good)]⟩ ∧
      parseSample (sampleOf1 14) = some ⟨5, 1, 14, [(1000, .good)]⟩ ∧ missing (some 9) 13 = 3 ∧ missing (some 9) 14 = 4 ∧
      (s.toPart.deck 1).remembered.take cal1.cells.length = [.good] ∧ y.status = .stable ∧ y.published.isSome = true ∧
      (((s.act (·.modDeck 1 fun x => { x with stability := [] })).toPart.deck 1).take cal1 45000).status ≠ .stable := by
  unfold Part.settingsSettled Slot.settled; decide +kernel

/-- The 111 bytes of a CAL_WRITE of `cal1`. -/
def cal1Bytes : List Byte :=
  [5, 1, 1] ++ leBytes 2 100 ++ leBytes 2 20000 ++ [20, 1, 4, 0] ++ leInt 4 0 ++ leInt 4 100 ++ leBytes 4 50000 ++
    leBytes 4 10000 ++ List.replicate 84 0

theorem test_calibration_entry_is_read :
    cal1Bytes.length = 111 ∧ parseCalEntry (cal1Bytes.take 15) (cal1Bytes.drop 15) = some cal1 := by decide +kernel

theorem test_witness_CalibrationRequests :
    let s := auditing [] none
    let z := auditing [] none fun x => { x with published := some ⟨20000499, 0, 0, 0⟩ }
    let u := fun (kg : Int) (v : ServiceState) => onDeck 0 fun x =>
      { tradeDeck x with service := v, status := .stable, published := some (shows kg) }
    (∀ t ∈ [s, z, u 800 .trade, u 801 .trade, u 0 .fault, u 0 .suspended], t.toPart.settingsSettled ∧ t.toPart.takes 1) ∧
      (1 : DeckId).val = (1 : Byte).toNat ∧ (s.toPart.deck 1).cal = some ⟨cal1, true, false⟩ ∧
      s.audit.session = some (session (some atOpen)) ∧ s.audit.calWrite = none ∧
      (s.toPart.image 1).isSome = true ∧ (s.toPart.deck 1).counter < 4294967295 ∧ 32 < s.audit.trail.free ∧
      s.audit.trail.nextSeq ≤ 4294967295 ∧ s.audit.trail.staging.length < 15 ∧ s.store.fault = false ∧
      s.store.hold ≠ .held ∧ ((u 0 .fault).toPart.deck 0).service = .fault ∧
      ((u 800 .trade).toPart.deck 0).service = .trade ∧ (u 800 .trade).toPart.visit (laneOf 0) = none ∧
      ((u 800 .trade).toPart.deck 0).status = .stable ∧ ((u 800 .trade).toPart.deck 0).published = some (shows 800) ∧
      (100 * |(shows 800).filtered - 1000 * cal1.zcal| : Int) = cal1.zeroRange * (1000 * cal1.capacity) ∧
      (cal1.zeroRange * (1000 * cal1.capacity) : Int) < 100 * |(shows 801).filtered - 1000 * cal1.zcal| ∧
      ((onDeck 0 tradeDeck).toPart.deck 0).status ≠ .stable ∧ (s.toPart.deck 1).service = .audit ∧
      (z.toPart.deck 1).status = .stable ∧ |roundHalfAway 20000499 1000| = (cal1.capacity : Int) := by
  unfold Part.settingsSettled Slot.settled Part.takes; decide +kernel

theorem test_witness_AuditEnds :
    let pending := onAudit fun a => { a with session := some (session none) }
    let s := auditing [] none
    let busy := auditing [openStep] (some 1)
    (∀ t ∈ [base, pending, s, busy], t.toPart.settingsSettled ∧ t.toPart.takes 1 ∧ t.audit.calWrite = none) ∧
      base.audit.session = none ∧ pending.audit.session = some (session none) ∧ (session none).atOpen = none ∧
      s.audit.session = some (session (some atOpen)) ∧ (s.toPart.deck 1).service = .audit ∧
      (s.toPart.lane (laneOf 1)).state = .audit ∧ (s.toPart.deck 1).cal = some ⟨cal1, true, false⟩ ∧
      (∃ x, busy.audit.session = some x ∧ x.inFlight ≠ none) := by
  unfold Part.settingsSettled Slot.settled Part.takes
  and_intros
  all_goals decide +kernel

theorem test_witness_AuditEnds_records :
    let s := auditing [] none
    let marked := s.act (·.modStore fun x => { x with tableQueue := [.image 1] })
    let writes := s.act (·.modAudit fun a => { a with calWrite := some ⟨4, 1, .zero 3, 1, .image⟩ })
    (∀ t ∈ [s, marked, writes], t.toPart.settingsSettled ∧ t.toPart.takes 1 ∧
      t.audit.session = some (session (some atOpen)) ∧ (t.toPart.deck 1).cal = some ⟨cal1, true, false⟩) ∧
      writes.audit.calWrite ≠ none ∧ TableOp.image 1 ∉ s.store.tableQueue ∧ s.store.marking = [] ∧
      TableOp.image 1 ∈ marked.store.tableQueue ∧ (session (some atOpen)).inFlight = none := by
  unfold Part.settingsSettled Slot.settled Part.takes; decide +kernel

/-- A counted step that passed. -/
def passed (k : StepKind) (reference : Int) (cell : Option Nat) : AuditStepRec :=
  { kind := k, reference := reference, cell := cell, result := some .pass, reading := none }

theorem test_witness_AuditEnds_verdicts :
    let loads := [passed .zero 0 none, passed .load 1 none, passed .load 10000 none, passed .load 2 none]
    let full := loads ++ [passed .corner 5 (some 0), passed .returnZero 0 none]
    judgeSteps 1 full (some cal1) = .pass ∧ judgeSteps 2 full (some cal1) = .incomplete ∧
      judgeSteps 1 (full ++ [passed .load 10000 none]) (some cal1) = .incomplete ∧
      judgeSteps 1 (full ++ [{ passed .load 3 none with result := some .noStable }]) (some cal1) = .fail ∧
      ∀ x ∈ full, x.kind = .load → 1 ≤ x.reference := by
  decide +kernel

theorem test_witness_TrailHandRows :
    let t := fun n next gap => (Trail.mk (List.replicate n default) next 1 gap none false)
    (t 15 1009 0).free = 1 ∧ (t 15 1009 0).staging.length = 15 ∧ (t 0 1025 0).free = 0 ∧
      (t 16 1 0).staging.length = 16 ∧ (t 14 1009 1).free = 2 ∧ (t 14 1009 1).staging.length + 2 = 16 ∧
      (t 0 1024 1).free < 2 ∧ 16 < (t 15 1 1).staging.length + 2 := by
  decide +kernel

/-! ## Witnesses: record memory -/

/-- A staged trail record. -/
def record : TrailRecord := ⟨some 0, ⟨0, 0⟩, true, .gap 1⟩

theorem test_witness_PortGrantRows :
    let op : Op := ⟨.ticketMark, 0, []⟩
    let tr := fun f => onAudit fun a => { a with trail := f a.trail }
    let ti := fun f => base.act (·.modTickets f)
    let im : State := (onDeck 0 tradeDeck).act (·.modStore fun x => { x with tableQueue := [.image 0] })
    let faulty : State := { ti fun t => { t with nextSerial := 2 } with
      store := { base.store with fault := true, readout := [.ticket 4] } }
    (∀ s ∈ [base, State.reset, onStore fun x => { x with op := some op }, onStore fun x => { x with hold := .requested 3 },
        tr fun t => { t with markWaiting := true }, tr fun t => { t with staging := [record] },
        ti fun t => { t with markWaiting := true }, ti fun t => { t with staging := [default], nextSerial := 2048 },
        base.act (·.modPairing fun x => { x with dirty := [63] }), im, faulty], s.toPart.settingsSettled) ∧
      State.reset.phase ≠ .running ∧ (onStore fun x => { x with op := some op }).store.op ≠ none ∧
      (onStore fun x => { x with hold := .requested 3 }).store.hold ≠ .none ∧
      (tr fun t => { t with staging := [record] }).audit.trail.staging = [record] ∧
      (tr fun t => { t with staging := [record] }).audit.trail.nextSeq ≤ 4294967295 ∧
      (let t := (ti fun t => { t with staging := [default], nextSerial := 2048 }).tickets
       t.nextSerial - t.oldestUnread = 2047 ∧ t.nextSerial ≤ 4294967295) ∧
      (base.act (·.modPairing fun x => { x with dirty := [63] })).pairing.dirty = [63] ∧
      im.store.tableQueue = [.image 0] ∧ im.audit.calWrite = none ∧ (im.toPart.image 0).isSome = true ∧
      base.store.tableQueue = [] ∧ base.store.readout = [] ∧ base.store.fault = false ∧
      faulty.store.readout = [.ticket 4] ∧ faulty.store.fault = true ∧
      faulty.tickets.oldestUnread < faulty.tickets.nextSerial := by
  unfold Part.settingsSettled Slot.settled; decide +kernel

theorem test_witness_PortGrantRows_tables :
    let q := fun ops => onStore fun x => { x with tableQueue := ops }
    let c := fun (t : TableId) ops => (q ops).act (·.modTables fun x => { x with commit := some ⟨t, 4, 7⟩ })
    let g := (q [.registerRecord]).act (·.modTables fun x => { x with regChange := some ⟨4, true, 1023, none⟩ })
    let w : CalWrite := ⟨4, 1, .zero 3, 1, .image⟩
    let k := ((auditing [] none).act (·.modAudit fun a => { a with calWrite := some w })).act (·.modStore fun x =>
      { x with tableQueue := [.calWrite 1, .image 1] })
    let r := fun fault => (onStore fun x => { x with fault := fault, readout := [.trail 4] }).act
      (·.modTrail fun t => { t with nextSeq := 2 })
    (∀ s ∈ [c .classes [.classRecord 47], c .settings [.settingsImage], g, k, r true, r false],
      s.toPart.settingsSettled ∧ s.phase = .running ∧ s.store.op = none ∧ s.store.hold = .none ∧
      s.audit.trail.staging = [] ∧ s.pairing.dirty = []) ∧
      (c .classes [.classRecord 47]).tables.commit = some ⟨.classes, 4, 7⟩ ∧
      (c .settings [.settingsImage]).store.tableQueue = [.settingsImage] ∧
      g.tables.regChange = some ⟨4, true, 1023, none⟩ ∧ k.store.tableQueue = [.calWrite 1, .image 1] ∧
      k.audit.calWrite = some w ∧ (k.toPart.deck 1).marker = some 0 ∧
      (k.toPart.newImage 1 (.zero 3) 1 0).isSome = true ∧ (r true).store.fault = true ∧
      (r false).store.readout = [.trail 4] ∧ (r false).audit.trail.oldest < (r false).audit.trail.nextSeq := by
  unfold Part.settingsSettled Slot.settled; decide +kernel

theorem test_witness_PortGrantRows_failing :
    let at_ := fun (t : TableId) (o : TableOp) (f : TableStore → TableStore) => (onStore fun x => { x with
      tableQueue := [o] }).act (·.modTables fun x => f { x with commit := some ⟨t, 4, 7⟩ })
    let z : Slot (Option ClassEntry) := ⟨none, false, false⟩
    let c := at_ .classes (.classRecord 47) fun x => { x with classStaged := x.classStaged.setIfInBounds 47 z }
    let g := at_ .settings .settingsImage fun x => { x with settingsStaged := { x.settingsStaged with
      site := ⟨.default_, false, false⟩ } }
    (∀ s ∈ [c, g], s.toPart.settingsSettled ∧ s.phase = .running ∧ s.store.op = none ∧ s.store.hold = .none ∧
      s.audit.trail.staging = [] ∧ s.pairing.dirty = []) ∧ c.store.tableQueue = [.classRecord 47] ∧
      c.tables.classStaged[47]? = some z ∧ z.fails = true ∧ c.tables.classStaged[46]? = some (.fresh none) ∧
      (Slot.fresh (none : Option ClassEntry)).settled ∧ g.tables.settingsStaged.site.fails = true := by
  unfold Part.settingsSettled Slot.settled; decide +kernel

/-- The records of a grant of this operation: the failing entry of the image is reported in the step. -/
theorem test_grant_reports_failing_entry :
    let s := (onStore fun x => { x with tableQueue := [.classRecord 47] }).act (·.modTables fun x => { x with
      commit := some ⟨.classes, 4, 7⟩
      classStaged := x.classStaged.setIfInBounds 47 ⟨none, false, false⟩ })
    s.toPart.grant.tables.classStaged[47]? = some ⟨none, false, true⟩ ∧
      s.toPart.grant.link.urgent.map (·.body) = [.parity (.classEntry .staged 47)] ∧
      s.toPart.grant.store.op.map (·.address) = some 0x633C0 := by
  decide +kernel

theorem test_witness_HoldAndReads :
    let op : Op := ⟨.holdRead 9 256, 0x7FF00, []⟩
    let asked := onStore fun x => { x with hold := .requested 3 }
    let held := onStore fun x => { x with hold := .held }
    let reading := onStore fun x => { x with hold := .held, op := some op }
    let writes := onStore fun x => { x with op := some ⟨.ticketMark, 0, []⟩ }
    (∀ s ∈ [base, asked, held, reading, writes, onStore fun x => { x with hold := .requested 3, op := some op }],
      s.toPart.settingsSettled ∧ s.toPart.takes 1) ∧ base.store.hold = .none ∧ base.store.op = none ∧
      writes.store.hold = .none ∧ writes.store.op ≠ none ∧ asked.store.hold = .requested 3 ∧
      asked.store.op = none ∧ 0x80000 ≤ (0x80000 : U32).toNat ∧ (0x7FFFF : U32).toNat < 0x80000 ∧
      (0 : U16).toNat = 0 ∧ 256 < (257 : U16).toNat ∧ 0x80000 < (0x7FFFF : U32).toNat + (2 : U16).toNat ∧
      1 ≤ (1 : U16).toNat ∧ (256 : U16).toNat ≤ 256 ∧ (0x7FFFF : U32).toNat + (1 : U16).toNat ≤ 0x80000 ∧
      held.store.hold = .held ∧ held.store.ending = .no ∧ held.store.op = none ∧ held.store.holdReads = [] ∧
      reading.store.op = some op := by
  unfold Part.settingsSettled Slot.settled Part.takes; decide +kernel

theorem test_witness_HoldEnds :
    let op : Op := ⟨.holdRead 9 1, 0, []⟩
    let held := onStore fun x => { x with hold := .held, holdTimer := .running 0 }
    let reading := onStore fun x => { x with hold := .held, holdTimer := .running 0, op := some op }
    (∀ s ∈ [base, held, reading], s.toPart.settingsSettled ∧ s.toPart.takes 1) ∧ base.store.hold ≠ .held ∧
      held.store.hold = .held ∧ held.store.ending = .no ∧ held.store.holdReads = [] ∧ reading.store.op ≠ none ∧
      held.store.op = none ∧ held.toPart.topClaim = none ∧ held.store.holdTimer = .running 0 := by
  unfold Part.settingsSettled Slot.settled Part.takes; decide +kernel

theorem test_witness_HoldEnds_waiting :
    let op : Op := ⟨.holdRead 9 256, 0x7FF00, []⟩
    let reads := fun (ending : HoldEnding) (rs : List PendingRead) => onStore fun x =>
      { x with hold := .held, ending := ending, holdReads := rs, holdTimer := .running 0, op := some op }
    let claim := onStore fun x => { x with hold := .held, holdTimer := .running 0, readout := [.ticket 4] }
    let ended := claim.act (·.modStore fun x => { x with hold := .none })
    (∀ s ∈ [reads .no [⟨8, 0, 1⟩], reads (.released [7]) [], reads .lapsed [], claim], s.toPart.settingsSettled ∧
      s.toPart.takes 1 ∧ s.store.hold = .held ∧ s.store.holdTimer = .running 0) ∧
      (reads .no [⟨8, 0, 1⟩]).store.op = some op ∧ (reads .no [⟨8, 0, 1⟩]).store.holdReads = ⟨8, 0, 1⟩ :: [] ∧
      (reads .lapsed []).store.ending = .lapsed ∧ (reads (.released [7]) []).store.ending = .released [7] ∧
      claim.store.op = none ∧ claim.store.ending = .no ∧ ended.toPart.topClaim.isSome = true := by
  unfold Part.settingsSettled Slot.settled Part.takes; decide +kernel

theorem test_witness_FetchesAndAcks :
    let some1 := (base.act (·.modTickets fun t => { t with nextSerial := 2 })).act
      (·.modTrail fun t => { t with nextSeq := 2 })
    let fault := onStore fun x => { x with fault := true }
    let acking := (some1.act (·.modTickets fun t => { t with ack := some 5 })).act
      (·.modTrail fun t => { t with ack := some 6 })
    (∀ s ∈ [base, some1, fault, acking, onStore fun x => { x with op := some ⟨.ticketFetch 4, 0x400, []⟩ },
        onStore fun x => { x with op := some ⟨.trailFetch 4, 0x50400, []⟩ }],
      s.toPart.settingsSettled ∧ s.toPart.takes 1) ∧ base.tickets.nextSerial ≤ base.tickets.oldestUnread ∧
      some1.tickets.oldestUnread < some1.tickets.nextSerial ∧ base.audit.trail.nextSeq ≤ base.audit.trail.oldest ∧
      some1.audit.trail.oldest < some1.audit.trail.nextSeq ∧ fault.store.fault = true ∧ some1.store.fault = false ∧
      acking.tickets.ack ≠ none ∧ acking.audit.trail.ack ≠ none ∧ (2 : U32).toNat ≠ some1.tickets.oldestUnread ∧
      (1 : U32).toNat = some1.tickets.oldestUnread ∧ (1 : U32).toNat = some1.audit.trail.oldest := by
  unfold Part.settingsSettled Slot.settled Part.takes; decide +kernel

/-- `s` with the record operation `k` in progress at `a`. -/
def writing (s : State) (k : OpKind) (a : Nat) : State :=
  s.act (·.modStore fun x => { x with op := some ⟨k, a, [1, 2]⟩ })

theorem test_witness_RecordsWritten :
    let r := writing (onAudit fun a => { a with trail := { a.trail with staging := [record] } }) .trailRecord 0x50400
    let m := writing (onAudit fun a => { a with trail := { a.trail with nextSeq := 2, ack := some 4, markWaiting := true } })
      .trailMark 0x40
    let t := writing (base.act (·.modTickets fun t => { t with staging := [default] })) .ticketRecord 0x400
    let a := writing (base.act (·.modTickets fun t => { t with nextSerial := 2, ack := some 4 })) .ticketMark 0
    let w := writing base (.mirror 63) 0x61BA0
    (∀ s ∈ [r, m, t, a, w], s.toPart.settingsSettled) ∧ r.store.op = some ⟨.trailRecord, 0x50400, [1, 2]⟩ ∧
      r.audit.trail.staging = [record] ∧ r.audit.calWrite = none ∧ m.store.op = some ⟨.trailMark, 0x40, [1, 2]⟩ ∧
      m.audit.trail.ack = some 4 ∧ t.store.op = some ⟨.ticketRecord, 0x400, [1, 2]⟩ ∧ t.tickets.staging = [default] ∧
      (∀ l ∈ [LaneId.l0, .l1], t.toPart.visit l = none) ∧ a.store.op = some ⟨.ticketMark, 0, [1, 2]⟩ ∧
      a.tickets.ack = some 4 ∧ w.store.op = some ⟨.mirror 63, 0x61BA0, [1, 2]⟩ := by
  unfold Part.settingsSettled Slot.settled; decide +kernel

theorem test_witness_RecordsWritten_waiting :
    let w : CalWrite := ⟨4, 1, .zero 3, 9, .trail⟩
    let r := writing ((auditing [] none).act (·.modAudit fun a => { a with
      calWrite := some w, trail := { a.trail with staging := [⟨some 1, ⟨0, 0⟩, true, .zeroSet 0 3 9⟩] } })) .trailRecord 0x50400
    let t := fun k e kg => writing ((stableAt (settling k e []) kg).act fun p =>
      (p.modLane .l0 fun x => { x with
        settleTimer := .expired, visit := x.visit.map fun v => { v with storeWait := true } }).modTickets fun t =>
          { t with staging := List.replicate 8 default }) .ticketRecord 0x400
    let tare := EntryState.claimed (grossOf 1003 0) .l0
    r.toPart.settingsSettled ∧ r.store.op = some ⟨.trailRecord, 0x50400, [1, 2]⟩ ∧ r.audit.calWrite = some w ∧
      r.audit.session.isSome = true ∧
      (∀ s ∈ [t .tare tare 334, t .grossPreset .reserved 334, t .tare tare 333], s.toPart.settingsSettled ∧
        s.store.op = some ⟨.ticketRecord, 0x400, [1, 2]⟩ ∧ (s.toPart.visit .l0).any (fun v =>
          decide (v.state = .settling ∧ v.storeWait = true ∧ v.pendingIndex = some 5 ∧ v.consignment = some grain ∧
            v.vehicle = some [0x41] ∧ v.preset = some ⟨1001, 0⟩)) = true ∧ s.toPart.visit LaneId.l0.other = none ∧
        s.tickets.staging.length = 8 ∧ (s.toPart.lane .l0).axleInvalid = true ∧
        ∀ z ∈ s.tables.classActive.toList, z.good = true) ∧
      (t .tare tare 334).toPart.slot 5 = some (entryA tare) ∧
      ((t .tare tare 334).toPart.settings .l0).minGross ≤ 1002 ∧
      999 < ((t .tare tare 333).toPart.settings .l0).minGross := by
  unfold Part.settingsSettled Slot.settled; decide +kernel

theorem test_witness_TableImagesWritten :
    let c := fun (t : TableId) => base.act (·.modTables fun x => { x with commit := some ⟨t, 4, 7⟩ })
    let k := fun i => writing (c .classes) (.table (.classRecord i)) 0x62800
    let s := writing (c .settings) (.table .settingsImage) 0x63400
    let both := s.act fun p => (p.modLane .l0 fun x => { x with visit := some (visit .held) }).modLane .l1 fun x =>
      { x with visit := some (visit .held) }
    let g := writing (base.act (·.modTables fun x => { x with regChange := some ⟨4, true, 1023, none⟩ }))
      (.table .registerRecord) 0x63800
    let e : CalWrite := ⟨4, 1, .entry cal1, 1, .image⟩
    let z : CalWrite := ⟨4, 1, .zero 3, 1, .image⟩
    let w := fun (x : CalWrite) => writing ((auditing [] none).act (·.modAudit fun a => { a with calWrite := some x }))
      (.table (.calWrite 1)) 0x61E00
    (∀ t ∈ [k 46, k 47, s, both, g, writing base (.table (.image 5)) 0x62600, w e, w z], t.toPart.settingsSettled) ∧
      (k 46).store.op = some ⟨.table (.classRecord 46), 0x62800, [1, 2]⟩ ∧
      (k 47).store.op = some ⟨.table (.classRecord 47), 0x62800, [1, 2]⟩ ∧
      (k 47).tables.commit = some ⟨.classes, 4, 7⟩ ∧ s.store.op = some ⟨.table .settingsImage, 0x63400, [1, 2]⟩ ∧
      s.tables.commit = some ⟨.settings, 4, 7⟩ ∧ s.tables.settingsPrevious = none ∧
      (∀ l ∈ [LaneId.l0, .l1], (both.toPart.visit l).isSome = true ∧ s.toPart.visit l = none) ∧
      g.tables.regChange = some ⟨4, true, 1023, none⟩ ∧ (w e).audit.calWrite = some e ∧ (w z).audit.calWrite = some z ∧
      (w e).audit.session = some (session (some atOpen)) ∧ (session (some atOpen)).inFlight = none ∧
      ((w e).toPart.deck 1).cal = some ⟨cal1, true, false⟩ := by
  unfold Part.settingsSettled Slot.settled; decide +kernel

theorem test_witness_FailedWriteBringsStoreFault :
    let w : CalWrite := ⟨4, 1, .entry cal1, 1, .image⟩
    let s := writing ((auditing [] none).act (·.modAudit fun a => { a with calWrite := some w })) (.mirror 0) 0x60400
    s.toPart.settingsSettled ∧ s.store.op = some ⟨.mirror 0, 0x60400, [1, 2]⟩ ∧
      (OpKind.mirror 0).claimant = some .mirrorWriter ∧ s.audit.calWrite = some w ∧ w.stage = .image ∧
      (s.toPart.deck w.deck).service = .audit := by
  unfold Part.settingsSettled Slot.settled; decide +kernel

/-! ## Witnesses: tables -/

/-- A class entry. -/
def class1 : ClassEntry := ⟨1, [1], [8000], 24000⟩

theorem test_witness_TableRequests :
    let held := onStore fun x => { x with hold := .held }
    let fault := onStore fun x => { x with fault := true }
    let dup := onTables fun t => { t with classStaged := t.classStaged.setIfInBounds 47 (.fresh (some class1)) }
    let com := onTables fun t => { t with commit := some ⟨.classes, 4, 7⟩ }
    let prev := onTables fun t => { t with settingsPrevious := some .default_ }
    (∀ s ∈ [base, held, fault, dup, com, prev], s.toPart.settingsSettled ∧ s.toPart.takes 1) ∧
      (47 : Byte).toNat < 48 ∧ parseClassEntry (2 :: List.replicate 31 0) = none ∧
      parseClassEntry (classEntryBytes (some class1)) = some (some class1) ∧
      dup.tables.classStaged[47]? = some (.fresh (some class1)) ∧ (Slot.fresh (some class1)).good = true ∧
      (46 : Nat) ≠ 47 ∧ dup.tables.commit = none ∧ parseClassEntry (classEntryBytes none) = some none ∧
      parseLaneEntry (laneEntryBytes .default_) = some .default_ ∧ (1 : Byte).toNat = LaneId.l1.toNat ∧
      parseSiteEntry (siteEntryBytes .default_) = some .default_ ∧ (2 : Byte).toNat = 2 ∧
      (base.tables.classStaged[47]?).isSome = true ∧ (∀ z ∈ base.tables.classStaged.toList, z.good = true) ∧
      (∀ z ∈ base.tables.classActive.toList, z.good = true) ∧ base.tables.settingsStaged.lanes.l0.good = true ∧
      base.tables.settingsActive.site.good = true ∧ fault.store.fault = true ∧ held.store.hold = .held ∧
      com.tables.commit ≠ none ∧ prev.tables.settingsPrevious ≠ none ∧ base.tables.settingsPrevious = none := by
  unfold Part.settingsSettled Slot.settled Part.takes; decide +kernel

theorem class_vals (n : Nat) :
    (Vector.replicate n (Slot.fresh (none : Option ClassEntry))).toList.map (·.val) = List.replicate n none := by
  simp [Slot.fresh]

theorem test_witness_TableRequests_crc :
    classImageCrc (base.tables.classStaged.toList.map (·.val)) = (0x6C1CE17E : U32).toNat ∧
      classImageCrc (base.tables.classStaged.toList.map (·.val)) ≠ (0 : U32).toNat ∧
      crc32 base.tables.settingsStaged.bytes = (0x2369F012 : U32).toNat := by
  have e : classImageCrc (base.tables.classStaged.toList.map (·.val)) = clearedClassCrc := by
    rw [show base.tables.classStaged = Vector.replicate 48 (.fresh none) from rfl, class_vals]
    exact test_cleared_class_image_crc
  refine ⟨by rw [e]; decide, by rw [e]; decide, ?_⟩
  rw [show base.tables.settingsStaged = .default_ from rfl, test_default_settings_crc]
  decide

theorem test_witness_RegisterRequests :
    let s := fun (x : Slot (Option RegEntry)) => onTables fun t => { t with register := [(1023, x)] }
    (∀ u ∈ [base, s (.fresh (some reg1)), s ⟨none, true, true⟩], u.toPart.settingsSettled ∧ u.toPart.takes 1 ∧
      u.store.fault = false ∧ u.store.hold ≠ .held ∧ u.tables.regChange = none) ∧ (1023 : U16).toNat ≤ 1023 ∧
      parseRegEntry (List.replicate 32 0) = some none ∧ parseRegEntry (regEntryBytes (some reg1)) = some (some reg1) ∧
      (∃ x ∈ (s (.fresh (some reg1))).tables.register, x.1 ≠ 1022 ∧ x.2.good = true ∧ x.2.val = some reg1) ∧
      base.tables.register = [] ∧ (base.tables.regSlot 1023).val = none ∧ (base.tables.regSlot 1023).damaged = false ∧
      ((s (.fresh (some reg1))).tables.regSlot 1023).val = some reg1 ∧
      ((s (.fresh (some reg1))).tables.regSlot 1023).damaged = false ∧
      ((s ⟨none, true, true⟩).tables.regSlot 1023).damaged = true := by
  unfold Part.settingsSettled Slot.settled Part.takes; decide +kernel

theorem test_witness_BadTargetsRefused :
    base.toPart.settingsSettled ∧ base.toPart.takes 1 ∧ 1 < (2 : Byte).toNat ∧ 5 < (6 : Byte).toNat ∧
      63 < (64 : Byte).toNat ∧ 1023 < (1024 : U16).toNat ∧ 48 ≤ (48 : Byte).toNat ∧ 3 ≤ (3 : Byte).toNat := by
  unfold Part.settingsSettled Slot.settled Part.takes; decide +kernel

theorem test_witness_EncodingsReadBack :
    class1.ok = true ∧ 4294967295 < 4294967296 ∧ escapeBytes [0x7E, 0x7D, 0x7C] = [0x7D, 0x5E, 0x7D, 0x5D, 0x7C] ∧
      slotValid .ticketMark (markBytes .ticketMark 4294967295) = true := by
  decide +kernel

/-! ## Witnesses: further clauses of startup, the clear timer, audits, tables and the register -/

theorem test_witness_StartupFinishes_scan :
    (∀ n, ¬ holdsNumber [] .ticket readTicket n) ∧ positions [] .ticket (some 9) = (1, 1) ∧
      positions [5, 3] .ticket (some 4) = (6, 4) ∧ positions [5, 3] .ticket (some 7) = (6, 3) ∧
      positions [5, 3, 2050] .ticket none = (2051, 3) := by
  refine ⟨?_, by decide +kernel, by decide +kernel, by decide +kernel, by decide +kernel⟩
  rintro n ⟨bs, x, h, _⟩
  have e : memRead [] (SlotKind.ticket.address (ringSlot .ticket n)) = unwritten := rfl
  unfold readSlot at h
  rw [e, if_neg (by decide)] at h
  cases h

/-- A mirror record with the last creation number. -/
theorem test_witness_StartupFinishes_renumber :
    let m := memWrite [] (SlotKind.mirror.address 63) (mirrorBytes 63 (some (mirrored 4294967295)))
    ((readSlot m .mirror 63).bind (readMirror 63)).join = some (mirrored 4294967295) := by
  intro m
  have h : readSlot m .mirror 63 = some (mirrorBytes 63 (some (mirrored 4294967295))) :=
    readSlot_memWrite_self _ _ _ _ (by decide +kernel) (by decide +kernel) (by decide +kernel)
  rw [h]
  decide +kernel

/-- Lane 0 with this visit, its clear timer expired, its decks showing `kg`. -/
def clearing (st : VisitState) (kg : Int) (f : Lane → Lane := id) : State :=
  stableAt (visiting (visit st) fun x => f { x with clearTimer := .expired }) kg

theorem test_witness_DwellAndClearTimers_samples :
    let f : Sample := ⟨5, 0, 126, [(1000, .good)]⟩
    let empties := fun (s : State) => ∀ d ∈ LaneId.l0.decks,
      ((((s.toPart.modDeck 0 fun _ => s.toPart.sampled 0 cal1 f).deck d).published.map fun w =>
        decide (w.displayed.natAbs ≤ 100)) = some true)
    (∀ s ∈ [clearing .exiting 100, clearing .clearing 100, clearing .exiting 101,
        clearing .clearing 0 fun x => { x with state := .fault },
        clearing .clearing 0 fun x => { x with state := .fault, causes := { x.causes with barrier := true } }],
      s.toPart.settingsSettled ∧ s.phase = .running ∧ s.toPart.inFlightOn 0 = none ∧ s.monitor.selection = none ∧
      (s.toPart.deck 0).cal = some ⟨cal1, true, false⟩ ∧ (s.toPart.deck 0).lastSeq = none ∧
      (s.toPart.lane .l0).clearTimer = .expired ∧ (s.toPart.lane .l0).adoptedActive = true ∧ s.audit.session = none) ∧
      empties (clearing .exiting 100) ∧ ¬ empties (clearing .exiting 101) ∧
      (clearing .exiting 100).toPart.visit (laneOf 0) = some (visit .exiting) ∧
      ((clearing .exiting 100 fun x => { x with state := .fault }).toPart.lane .l0).causes = .empty ∧
      parseSample sample126 = some f := by
  unfold Part.settingsSettled Slot.settled; decide +kernel

theorem test_witness_DwellAndClearTimers_noData :
    let s := (stableAt (visiting (visit .clearing) fun x => { x with clearTimer := .running 0 }) 0).act
      (·.modDeck 2 fun x => { x with published := none })
    s.toPart.settingsSettled ∧ s.toPart.visit .l0 = some (visit .clearing) ∧ (s.toPart.deck 2).published = none ∧
      (s.toPart.lane .l0).clearTimer = .running 0 ∧ (s.toPart.deck 0).published = some (shows 0) := by
  unfold Part.settingsSettled Slot.settled; decide +kernel

theorem test_witness_AuditStepRows_entryless :
    let none_ := auditing [] none fun x => { x with cal := none }
    let damaged := auditing [] none fun x => { x with cal := some ⟨cal1, false, true⟩ }
    (∀ s ∈ [none_, damaged], s.toPart.settingsSettled ∧ s.toPart.takes 1 ∧ 32 < s.audit.trail.free ∧
      s.audit.session = some (session (some atOpen)) ∧ s.audit.calWrite = none) ∧ (none_.toPart.deck 1).cal = none ∧
      (damaged.toPart.deck 1).cal = some ⟨cal1, false, true⟩ ∧ StepKind.zero ≠ .load ∧ (0 : U32) = 0 := by
  unfold Part.settingsSettled Slot.settled Part.takes; decide +kernel

theorem test_witness_AuditStepRows_badCell :
    let s := auditing [openStep] (some 1) fun x => { x with lastSeq := some 9, remembered := List.replicate 8 .good }
    let bad : Sample := ⟨5, 1, 10, [(1000, .opened)]⟩
    s.toPart.settingsSettled ∧ s.toPart.visit (laneOf 1) = none ∧ (s.toPart.deck 1).service = .audit ∧
      parseSample (frameOf [5, 1, 10, 1, 0xE8, 3, 0, 3]) = some bad ∧
      (∃ y ∈ (bad.cells.take cal1.cells.length).map (·.2), y ≠ .good) ∧
      (s.toPart.deck 1).remembered.take 1 ≠ [.opened] := by
  unfold Part.settingsSettled Slot.settled; decide +kernel

theorem test_witness_CalibrationRequests_rows :
    let s := auditing [] none
    let trail := fun f => s.act (·.modTrail f)
    let tight := trail fun t => { t with nextSeq := 993 }
    let beyond := trail fun t => { t with oldest := 4294967296, nextSeq := 4294967296 }
    let full := trail fun t => { t with staging := List.replicate 16 record }
    let gap := trail fun t => { t with staging := List.replicate 15 record, gap := 1 }
    let fault := s.act (·.modStore fun x => { x with fault := true })
    let held := s.act (·.modStore fun x => { x with hold := .held })
    let ended := auditing [] none fun x => { x with counter := 4294967295 }
    let none_ := auditing [] none fun x => { x with cal := none }
    let damaged := auditing [] none fun x => { x with cal := some ⟨cal1, false, true⟩ }
    let busy := auditing [openStep] (some 1)
    (∀ t ∈ [s, tight, beyond, full, gap, fault, held, ended, none_, damaged, busy],
      t.toPart.settingsSettled ∧ t.toPart.takes 1 ∧ t.audit.calWrite = none ∧ t.audit.session.isSome = true) ∧
      tight.audit.trail.free = 32 ∧ 4294967295 < beyond.audit.trail.nextSeq ∧ 32 < beyond.audit.trail.free ∧
      full.audit.trail.staging.length = 16 ∧ 32 < full.audit.trail.free ∧ gap.audit.trail.staging.length = 15 ∧
      gap.audit.trail.gap = 1 ∧ fault.store.fault = true ∧ held.store.hold = .held ∧ held.store.fault = false ∧
      4294967295 ≤ (ended.toPart.deck 1).counter ∧ (none_.toPart.deck 1).cal = none ∧ none_.toPart.image 1 = none ∧
      (damaged.toPart.deck 1).cal = some ⟨cal1, false, true⟩ ∧ (∃ y, busy.audit.session = some y ∧ y.inFlight ≠ none) ∧
      parseCalEntry (List.replicate 15 0) (List.replicate 96 0) = none ∧ base.audit.session = none ∧
      parseCalEntry (cal1Bytes.take 15) (cal1Bytes.drop 15) = some cal1 ∧
      (cal1.capacity : Int) < |roundHalfAway 20000500 1000| := by
  unfold Part.settingsSettled Slot.settled Part.takes
  and_intros
  all_goals decide +kernel

theorem test_witness_AuditEnds_entries :
    let with_ := fun (c : Option CalSlot) => auditing [] none fun x => { x with cal := c }
    let busy := auditing [openStep] (some 1)
    (∀ c ∈ [none, some ⟨cal1, false, true⟩, some ⟨cal1, false, false⟩],
      (with_ c).toPart.settingsSettled ∧ (with_ c).toPart.takes 1 ∧ ((with_ c).toPart.deck 1).cal = c ∧
      (with_ c).audit.session = some (session (some atOpen)) ∧ ((with_ c).toPart.deck 1).service = .audit ∧
      ((with_ c).toPart.lane (laneOf 1)).state = .audit) ∧
      stateAfterSession .incomplete 1 .trade .empty ≠ .trade ∧ busy.audit.calWrite = none ∧
      (∃ x, busy.audit.session = some x ∧ x.inFlight = some 1 ∧ x.steps.length = 1) := by
  unfold Part.settingsSettled Slot.settled Part.takes; decide +kernel

theorem test_witness_FailedWriteBringsStoreFault_requests :
    let s := (writing base .trailMark 0x40).act fun p =>
      ((p.modTickets fun t => { t with ack := some 1, markWaiting := true }).modTrail fun t =>
        { t with ack := some 2, markWaiting := true }).modTables fun t => { t with
          commit := some ⟨.settings, 3, 7⟩, regChange := some ⟨4, true, 1023, none⟩ }
    let w := (auditing [] none).act (·.modAudit fun a => { a with calWrite := some ⟨5, 1, .zero 3, 1, .trail⟩ })
    let i := writing (onDeck 5 tradeDeck) (.table (.image 5)) 0x62600
    let g := writing s (.table .registerRecord) 0x63800
    (∀ t ∈ [s, writing w .trailRecord 0x50400, i, g], t.toPart.settingsSettled) ∧
      s.store.op = some ⟨.trailMark, 0x40, [1, 2]⟩ ∧ OpKind.trailMark.claimant = some .trailWriter ∧
      s.tickets.ack = some 1 ∧ s.audit.trail.ack = some 2 ∧ s.tables.commit.isSome = true ∧
      g.tables.regChange = some ⟨4, true, 1023, none⟩ ∧ (OpKind.table .registerRecord).claimant = some .tableWriter ∧
      s.audit.calWrite = none ∧ w.audit.calWrite = some ⟨5, 1, .zero 3, 1, .trail⟩ ∧ (w.toPart.deck 1).service = .audit ∧
      i.store.op = some ⟨.table (.image 5), 0x62600, [1, 2]⟩ ∧ (i.toPart.deck 5).cal ≠ none ∧
      (OpKind.table (.image 5)).claimant = some .tableWriter := by
  unfold Part.settingsSettled Slot.settled; decide +kernel

theorem test_witness_TableRequests_failing :
    let fails := onTables fun t => { t with
      classStaged := t.classStaged.setIfInBounds 47 ⟨none, false, false⟩
      classActive := t.classActive.setIfInBounds 0 ⟨none, true, true⟩ }
    let lane1 := onTables fun t => { t with settingsStaged := { t.settingsStaged with
      lanes := t.settingsStaged.lanes.set .l1 ⟨.default_, false, false⟩ } }
    let site := onTables fun t => { t with settingsStaged := { t.settingsStaged with site := ⟨.default_, false, false⟩ } }
    let com := onTables fun t => { t with commit := some ⟨.settings, 4, 7⟩ }
    (∀ s ∈ [fails, lane1, site, com], s.toPart.settingsSettled ∧ s.toPart.takes 1 ∧ s.store.fault = false ∧
      s.store.hold ≠ .held ∧ s.tables.settingsPrevious = none) ∧
      fails.tables.classStaged[47]? = some ⟨none, false, false⟩ ∧ (⟨none, false, false⟩ : Slot (Option ClassEntry)).fails = true ∧
      (∃ z ∈ fails.tables.classStaged.toList, z.good = false) ∧ (∃ z ∈ fails.tables.classActive.toList, z.good = false) ∧
      (lane1.tables.settingsStaged.lanes.get .l1).fails = true ∧ site.tables.settingsStaged.site.fails = true ∧
      lane1.tables.commit = none ∧ com.tables.commit = some ⟨.settings, 4, 7⟩ ∧ (2 : Byte).toNat < 3 := by
  unfold Part.settingsSettled Slot.settled Part.takes; decide +kernel

theorem test_witness_TableRequests_duplicate :
    let with_ := fun (z : Slot (Option ClassEntry)) => (onTables fun t => { t with
      classStaged := t.classStaged.setIfInBounds 47 z }).tables
    let held := fun (k : TableStore) (i : Nat) => ∃ x ∈ k.classStaged.toList.zipIdx, x.2 ≠ i ∧ x.1.good = true ∧
      x.1.val.map (·.id) = some class1.id
    held (with_ (.fresh (some class1))) 46 ∧ ¬ held (with_ (.fresh (some class1))) 47 ∧
      ¬ held (with_ ⟨some class1, false, false⟩) 46 ∧ ¬ held (with_ ⟨some class1, true, true⟩) 46 ∧
      (⟨some class1, false, false⟩ : Slot (Option ClassEntry)).fails = true := by decide +kernel

theorem test_witness_TableRequests_ranges :
    (∃ f ∈ laneFields, field (List.replicate 32 0) f.offset f.size < f.low) ∧
      (∀ f ∈ laneFields, f.low ≤ field (laneEntryBytes .default_) f.offset f.size ∧
        field (laneEntryBytes .default_) f.offset f.size ≤ f.high) ∧
      (∃ f ∈ siteFields, field (List.replicate 32 0) f.offset f.size < f.low) ∧
      ∀ f ∈ siteFields, f.low ≤ field (siteEntryBytes .default_) f.offset f.size ∧
        field (siteEntryBytes .default_) f.offset f.size ≤ f.high := by decide +kernel

theorem test_witness_RegisterRequests_rows :
    let fault := onStore fun x => { x with fault := true }
    let held := onStore fun x => { x with hold := .held }
    let busy := onTables fun t => { t with regChange := some ⟨4, true, 3, none⟩ }
    let s := fun (x : Slot (Option RegEntry)) => onTables fun t => { t with register := [(1023, x)] }
    let failing := s ⟨some reg1, false, false⟩
    (∀ u ∈ [fault, held, busy, s ⟨none, true, true⟩, failing], u.toPart.settingsSettled ∧ u.toPart.takes 1) ∧
      fault.store.fault = true ∧ held.store.hold = .held ∧ held.store.fault = false ∧ busy.tables.regChange ≠ none ∧
      ((s ⟨none, true, true⟩).tables.regSlot 1023).val = none ∧
      ((s ⟨none, true, true⟩).tables.regSlot 1023).damaged = true ∧
      (failing.tables.regSlot 1023).fails = true := by
  unfold Part.settingsSettled Slot.settled Part.takes; decide +kernel

end Sys2Proof.Tests
end

section
/-! PROOFS. Barrier positions and driven commands (R27, R30): the two switches, the command that follows the wanted one,
and what a set stop latch wants. -/

namespace Sys2Proof.Machine

/-! ## The position of a barrier (R27) -/

theorem position_eq_up_iff (b : Barrier) : b.position = .up ↔ b.up = true ∧ b.down = false := by
  unfold Barrier.position
  cases b.up <;> cases b.down <;> simp

theorem position_eq_down_iff (b : Barrier) : b.position = .down ↔ b.up = false ∧ b.down = true := by
  unfold Barrier.position
  cases b.up <;> cases b.down <;> simp

theorem position_eq_between_iff (b : Barrier) : b.position = .between ↔ b.up = false ∧ b.down = false := by
  unfold Barrier.position
  cases b.up <;> cases b.down <;> simp

theorem position_eq_conflict_iff (b : Barrier) : b.position = .conflict ↔ b.up = true ∧ b.down = true := by
  unfold Barrier.position
  cases b.up <;> cases b.down <;> simp

/-- No position satisfies STOP; RAISE and LOWER have one each. -/
theorem at_iff (b : Barrier) (c : BarrierCommand) :
    b.at c = true ↔ (c = .raise ∧ b.position = .up) ∨ (c = .lower ∧ b.position = .down) := by
  cases c with
  | raise => simp [Barrier.at]
  | lower => simp [Barrier.at]
  | stop => simp [Barrier.at]

/-- Settles O9: the switches determine the position, and `at_iff` reads it for the driven command. -/
theorem barrierPosition : Obligations.BarrierPosition := by
  intro b
  exact ⟨fun hu hd => (position_eq_up_iff b).2 ⟨hu, hd⟩, fun hu hd => (position_eq_down_iff b).2 ⟨hu, hd⟩,
    fun hu hd => (position_eq_between_iff b).2 ⟨hu, hd⟩, fun hu hd => (position_eq_conflict_iff b).2 ⟨hu, hd⟩,
    at_iff b b.driven⟩

/-! ## The driven command (R30) -/

section
variable (b : Barrier) {wanted : BarrierCommand} {blocked : Bool}

theorem follow_of_deferred (h : wanted = .lower ∧ blocked = true ∧ b.position ≠ .down) :
    b.follow wanted blocked = .stop := if_pos h

theorem follow_of_not_deferred (h : ¬ (wanted = .lower ∧ blocked = true ∧ b.position ≠ .down)) :
    b.follow wanted blocked = wanted := if_neg h

/-- Only a lowering is deferred, so a wanted STOP is driven as it is. -/
theorem follow_stop : b.follow .stop blocked = .stop :=
  follow_of_not_deferred b fun h => absurd h.1 (by decide)

end

/-- The end of a step drives what follows from the wanted command and the debounced beam of the same end. -/
theorem driven_barrier_driven (p : Part) (l : LaneId) (e : LaneEnd) :
    (p.driven l e).barrier.driven =
      (p.laneEnd l e).barrier.follow (p.wanted l e) (p.laneEnd l e).beamLevel := rfl

/-- The two first rows of R33 agree: a latched lane is red and wants STOP whether the part runs or not. -/
theorem outputs_of_stopLatch {x : Lane} (h : x.stopLatch = true) (phase : Phase) (ends : Admitting) (e : LaneEnd) :
    x.outputs phase ends e = (.red, .stop) := by
  unfold Lane.outputs
  by_cases hp : phase = .running
  · rw [if_neg (not_not_intro hp), if_pos h]
  · exact if_pos hp

theorem wanted_of_stopLatch {p : Part} {l : LaneId} (h : (p.lane l).stopLatch = true) (e : LaneEnd) :
    p.wanted l e = .stop := by
  unfold Part.wanted
  rw [outputs_of_stopLatch h]

/-- Settles O10: each case is one of `Barrier.follow`, and a stop latch wants STOP, which is never deferred. -/
theorem loweringIsDeferred : Obligations.LoweringIsDeferred := by
  intro p l e b d deferred
  have hd : d = b.follow (p.wanted l e) (p.laneEnd l e).beamLevel := driven_barrier_driven p l e
  refine ⟨fun h => hd.trans (follow_of_deferred b h), fun h => hd.trans (follow_of_not_deferred b h), fun h => ?_⟩
  have hw : p.wanted l e = .stop := wanted_of_stopLatch h e
  rw [hw, follow_stop] at hd
  exact ⟨hw, hd⟩

end Sys2Proof.Machine
end

section
/-! PROOFS. The end of a store hold (R172-R174): what a release, a lapse and an answered read make of the part, as
equations of the model's functions, and that each of them leaves the settings in use settled. -/

namespace Sys2Proof.Machine

/-! ## The pieces of an end -/

section
variable (p : Part)

theorem grant_of_no_claim (h : p.topClaim = none) : p.grant = p := by
  unfold Part.grant
  rw [h]
  exact ite_self p

theorem refuseReads_eq : p.refuseReads = { p with
    store := { p.store with holdReads := [] }
    link := { p.link with responses := p.link.responses ++
      p.store.holdReads.map fun r => ⟨r.corr, 31, .refused .noHold, false, false⟩ } } := by
  unfold Part.refuseReads
  rw [refuse_reads]
  rfl

theorem settleHold_of_released {cs : List U16} (h : p.store.ending = .released cs) :
    p.settleHold = (cs.foldl (fun q c => q.done c .storeRelease) p).endHold := by
  unfold Part.settleHold
  rw [h]

theorem settleHold_of_lapsed (h : p.store.ending = .lapsed) :
    p.settleHold = (p.notify (.holdLapsed p.store.holdReadCount)).endHold := by
  unfold Part.settleHold
  rw [h]

/-- A hold that is not ending goes on with the next of its reads (R173). -/
theorem settleHold_next {r : PendingRead} {rs : List PendingRead} (he : p.store.ending = .no)
    (ho : p.store.op = none) (hr : p.store.holdReads = r :: rs) :
    p.settleHold = p.modStore fun x => { x with
      holdReads := rs, op := some ⟨.holdRead r.corr r.length, r.address, []⟩ } := by
  unfold Part.settleHold
  rw [he]
  unfold Part.beginRead
  simp [hr, ho, he]

/-- While a read is performed, a release or a lapse only begins the end (R174). -/
theorem beginEnding_of_busy (e : HoldEnding) (h : p.store.op ≠ none) :
    p.beginEnding e = (p.modStore fun x => { x with ending := e, holdTimer := .stopped }).refuseReads := by
  unfold Part.beginEnding
  simp [refuseReads_eq, h]

theorem beginEnding_of_free (e : HoldEnding) (h : p.store.op = none) :
    p.beginEnding e =
      (p.modStore fun x => { x with ending := e, holdTimer := .stopped }).refuseReads.settleHold := by
  unfold Part.beginEnding
  simp [refuseReads_eq, h]

/-- With the port free a release is answered and the hold ends in its step (R174). -/
theorem beginEnding_released_of_free (corr : U16) (h : p.store.op = none) :
    p.beginEnding (.released [corr]) = (p.refuseReads.done corr .storeRelease).endHold := by
  rw [beginEnding_of_free p _ h, settleHold_of_released _ (cs := [corr]) (by rw [refuseReads_eq]; rfl), refuseReads_eq,
    refuseReads_eq]
  rfl

/-- With the port free a lapse is reported and the hold ends in its step (R174). -/
theorem beginEnding_lapsed_of_free (h : p.store.op = none) :
    p.beginEnding .lapsed = (p.refuseReads.notify (.holdLapsed p.store.holdReadCount)).endHold := by
  rw [beginEnding_of_free p _ h, settleHold_of_lapsed _ (by rw [refuseReads_eq]; rfl), refuseReads_eq, refuseReads_eq]
  rfl

/-! ## STORE_RELEASE in each state of the hold -/

theorem storeRelease_of_no_hold (corr : U16) (h : p.store.hold ≠ .held ∨ p.store.ending = .lapsed) :
    p.storeRelease corr = p.refuse corr .storeRelease .noHold := by
  unfold Part.storeRelease
  split
  case h_1 hh he => simp [hh, he] at h
  case h_2 cs hh he => simp [hh, he] at h
  case h_3 => rfl

theorem storeRelease_of_held (corr : U16) (hh : p.store.hold = .held) (he : p.store.ending = .no) :
    p.storeRelease corr = p.beginEnding (.released [corr]) := by
  unfold Part.storeRelease
  rw [hh, he]

theorem storeRelease_of_released (corr : U16) {cs : List U16} (hh : p.store.hold = .held)
    (he : p.store.ending = .released cs) :
    p.storeRelease corr = p.modStore fun x => { x with ending := .released (cs ++ [corr]) } := by
  unfold Part.storeRelease
  rw [hh, he]

end

/-! ## The settings in use stay settled -/

section
variable {p : Part}

theorem settled_modStore (h : p.settingsSettled) (f : Store → Store) : (p.modStore f).settingsSettled :=
  settled_of h rfl rfl rfl

theorem settled_refuseReads (h : p.settingsSettled) : p.refuseReads.settingsSettled := by
  rw [refuseReads_eq]
  exact settled_of h rfl rfl rfl

theorem settled_endHold (h : p.settingsSettled) : p.endHold.settingsSettled :=
  settled_grant (settled_modStore h _)

theorem settled_beginRead (h : p.settingsSettled) : p.beginRead.settingsSettled := by
  unfold Part.beginRead
  split
  · exact h
  · split
    · exact settled_modStore h _
    · exact h

theorem settled_settleHold (h : p.settingsSettled) : p.settleHold.settingsSettled := by
  unfold Part.settleHold
  split
  case h_1 => exact settled_beginRead h
  case h_2 cs _ =>
    rw [done_releases]
    exact settled_endHold (settled_of h rfl rfl rfl)
  case h_3 => exact settled_endHold (settled_notify h _)

theorem settled_beginEnding (h : p.settingsSettled) (e : HoldEnding) : (p.beginEnding e).settingsSettled := by
  have hq := settled_refuseReads (settled_modStore h fun x => { x with ending := e, holdTimer := .stopped })
  unfold Part.beginEnding
  dsimp only
  split
  · exact settled_settleHold hq
  · exact hq

theorem settled_storeRelease (h : p.settingsSettled) (corr : U16) : (p.storeRelease corr).settingsSettled := by
  unfold Part.storeRelease
  split
  case h_1 => exact settled_beginEnding h _
  case h_2 => exact settled_modStore h _
  case h_3 => exact settled_refuse h _ _ _

theorem settled_answerRead (h : p.settingsSettled) (corr : U16) (a n : Nat) (m : List Host.Cell) :
    (p.answerRead corr a n m).settingsSettled :=
  settled_settleHold (settled_modStore (settled_done h _ _ _) _)

end

/-! ## The commands -/

section
variable {s : State} (hs : s.toPart.settingsSettled)
include hs

theorem portGrant_endsAs : endsAs .portGrant s s.toPart.grant :=
  run_endsAs _ s Part.grant rfl (settled_grant hs)

theorem storeRelease_endsAs {corr : U16} (ht : s.toPart.takes corr) :
    endsAs (.storeRelease corr) s ((s.toPart.admitted corr .storeRelease).storeRelease corr) :=
  request_endsAs _ s corr .storeRelease (·.storeRelease corr) _ 0 rfl ht rfl
    (settled_storeRelease (settled_admitted hs _ _ _) corr)

theorem holdTimerExpiry_endsAs {deadline : Nat} (h : s.store.holdTimer = .running deadline) :
    endsAs .holdTimerExpiry s ((s.toPart.reach deadline).beginEnding .lapsed) := by
  refine endsAs_run _ s _ _ rfl ?_ (settled_beginEnding (settled_elapse hs _) _)
  unfold Part.expire
  rw [h]

/-- The read being performed is answered with the memory as it stands (R173). -/
theorem holdReadDone_endsAs {corr : U16} {a n : Nat} {bytes : List Byte}
    (h : s.store.op = some ⟨.holdRead corr n, a, bytes⟩) :
    endsAs .holdReadDone s (s.toPart.freePort.answerRead corr a n s.mem) := by
  refine endsAs_run _ s (fun p => p.freePort.answerRead corr a n s.mem) _ ?_ rfl
    (settled_answerRead (settled_modStore hs _) _ _ _ _)
  show execHoldReadDone s = _
  unfold execHoldReadDone State.readDone
  rw [h]

end

/-- The part once the read at the port has been answered with these bytes, before the hold goes on or ends (R173). -/
def Part.readAnswered (p : Part) (corr : U16) (bytes : List Byte) : Part :=
  ({ p with store := { p.store with op := none, holdReadCount := p.store.holdReadCount + 1 } } : Part).done corr
    .holdRead (.bytes bytes)

theorem answerRead_freePort (p : Part) (corr : U16) (a n : Nat) (m : List Host.Cell) :
    p.freePort.answerRead corr a n m =
      (p.readAnswered corr ((List.range n).map fun i => memRead m (a + i))).settleHold := by
  unfold Part.answerRead
  rw [memBytes_eq_map]
  rfl

/-- Settles O52: a release and a lapse are the cases of `Part.storeRelease` and `Part.beginEnding`, by the port free or
not, and an answered read is followed by `Part.settleHold`, by how the hold is ending. -/
theorem holdEnds : Obligations.HoldEnds := by
  unfold Obligations.HoldEnds
  intro unread ended
  have unread_eq : ∀ p, unread p = p.refuseReads := fun p => (refuseReads_eq p).symm
  refine ⟨grant_of_no_claim, fun _ => portGrant_endsAs, ?release, ?lapse, ?answer⟩
  case release =>
    intro corr s hs ht p c
    have hc : endsAs c s (p.storeRelease corr) := storeRelease_endsAs hs ht
    refine ⟨fun h => ?_, fun hh he => ⟨fun ho => ?_, fun ho => ?_⟩, fun cs hh he => ?_⟩
    · rwa [storeRelease_of_no_hold p corr h] at hc
    · rwa [storeRelease_of_held p corr hh he, beginEnding_of_busy p _ ho, ← unread_eq] at hc
    · rwa [storeRelease_of_held p corr hh he, beginEnding_released_of_free p corr ho, ← unread_eq] at hc
    · rwa [storeRelease_of_released p corr hh he] at hc
  case lapse =>
    intro deadline s hs ht p
    have hc : endsAs .holdTimerExpiry s (p.beginEnding .lapsed) := holdTimerExpiry_endsAs hs ht
    refine ⟨fun ho => ?_, fun ho => ?_⟩
    · rwa [beginEnding_of_busy p _ ho, ← unread_eq] at hc
    · rwa [beginEnding_lapsed_of_free p ho, ← unread_eq] at hc
  case answer =>
    intro corr a n bytes s hs hop p
    have hc : endsAs .holdReadDone s p.settleHold := answerRead_freePort .. ▸ holdReadDone_endsAs hs hop
    refine ⟨fun cs he => ?_, fun he => ?_, fun r rs he hr => ?_⟩
    · rwa [settleHold_of_released p he, done_releases] at hc
    · rwa [settleHold_of_lapsed p he] at hc
    · rwa [settleHold_next p he rfl hr] at hc

end Sys2Proof.Machine
end

section
/-! PROOFS. The machine as a whole: the front of the queue, the idle step, and the invariants that every command keeps
because of how it ends, with the reset state that meets them. -/

namespace Sys2Proof.Machine

/-! ## Which command a step runs -/

theorem step_of_front {c : Instr} {rest : List Instr} {s : State} (h : s.pending = c :: rest) :
    step s = exec c { s with pending := rest } := by
  unfold step
  rw [h]

theorem step_of_empty {s : State} (h : s.pending = []) : step s = idle s := by
  unfold step
  rw [h]

theorem idle_of_due {s : State} {i : Instr} (h : s.toPart.dueEvent = some i) : idle s = exec i s := by
  unfold idle
  rw [h]

theorem idle_of_none {s : State} (h : s.toPart.dueEvent = none) :
    idle s = .next { s with clock := s.clock.elapse 1 } := by
  unfold idle
  rw [h]
  rfl

/-- Settles O1. -/
theorem stepTakesFront : Obligations.StepTakesFront := fun _ _ _ h => step_of_front h

/-- Settles O2: an empty queue leaves the step to `idle`, which asks for the first due event. -/
theorem idleStep : Obligations.IdleStep := fun _ h =>
  ⟨fun hn => (step_of_empty h).trans (idle_of_none hn), fun _ hi => (step_of_empty h).trans (idle_of_due hi)⟩

/-- An invariant of the state that the passing of time keeps, and that every command keeps whatever waits, is kept by
every step. -/
theorem step_keeps {P : State → Prop} (hpop : ∀ s rest, P s → P { s with pending := rest })
    (htime : ∀ s : State, P s → P { s with clock := s.clock.elapse 1 })
    (hexec : ∀ c s t, P s → exec c s = .next t → P t) {s t : State} (h : P s) (hst : step s = .next t) : P t := by
  cases hp : s.pending with
  | cons c rest =>
    rw [step_of_front hp] at hst
    exact hexec c _ t (hpop s rest h) hst
  | nil =>
    rw [step_of_empty hp] at hst
    cases hd : s.toPart.dueEvent with
    | some i =>
      rw [idle_of_due hd] at hst
      exact hexec i s t h hst
    | none =>
      rw [idle_of_none hd] at hst
      obtain rfl : _ = t := Host.Outcome.next.inj hst
      exact htime s h

/-! ## The memory -/

/-- The command answers a next state with the record memory as it was. -/
def KeepsMemory (s : State) (o : Host.Outcome State Fault Refusal) : Prop := ∃ t, o = .next t ∧ t.mem = s.mem

theorem run_keepsMemory (s : State) (f : Part → Part) : KeepsMemory s (s.run f) := ⟨_, rfl, rfl⟩

theorem readDone_keepsMemory (s : State) (owns : Op → Option (List Host.Cell → Part → Part)) :
    KeepsMemory s (s.readDone owns) := by
  unfold State.readDone
  split
  · exact run_keepsMemory s _
  · split
    · exact run_keepsMemory s _
    · exact run_keepsMemory s _

/-- A command that ends no write, no reset and no startup runs on the part alone. -/
theorem exec_keepsMemory {c : Instr} (s : State) (h : reachesMemory c = false) : KeepsMemory s (exec c s) := by
  cases c
  case ticketFetchRead => exact readDone_keepsMemory s _
  case trailFetchRead => exact readDone_keepsMemory s _
  case holdReadDone => exact readDone_keepsMemory s _
  case trailRecordWritten => cases h
  case trailReadMarkWritten => cases h
  case ticketWritten => cases h
  case ticketReadMarkWritten => cases h
  case mirrorRecordWritten => cases h
  case classRecordWritten => cases h
  case settingsImageWritten => cases h
  case registerRecordWritten => cases h
  case calibrationImageWritten => cases h
  case recordWriteFailed => cases h
  case powerOn => cases h
  case lineReset => cases h
  case frameSent => cases h
  case startup => cases h
  all_goals exact run_keepsMemory s _

@[simp] theorem finish_marking (p : Part) : p.finish.store.marking = [] := rfl

/-- Settles O3: every command ends in `Part.finish`, and only the ends of writes, resets and startup write. -/
theorem noCommandStops : Obligations.NoCommandStops := by
  intro c s
  obtain ⟨t, p, ws, ht, hp, -, hq⟩ := exec_stepsTo c s
  refine ⟨t, ht, hq, by rw [hp, finish_marking], fun hc a => ?_⟩
  obtain ⟨u, hu, hm⟩ := exec_keepsMemory s hc
  obtain rfl : t = u := Host.Outcome.next.inj (ht.symm.trans hu)
  rw [hm]

/-- Settles O4: a command reaches the memory through `memWrite` alone, which keeps the canonical form. -/
theorem memoryStaysCanonical : Obligations.MemoryStaysCanonical := by
  intro s t h hst
  refine step_keeps (P := State.memoryCanonical) (fun _ _ h => h) (fun _ h => h) (fun c s t h he => ?_) h hst
  obtain ⟨u, p, ws, hu, -, hm, -⟩ := exec_stepsTo c s
  obtain rfl : u = t := Host.Outcome.next.inj (hu.symm.trans he)
  exact (congrArg Memory.wf hm).mpr (memWrites_wf s.mem ws h)

/-! ## Barriers that are driven LOWER -/

/-- No barrier of the lane is driven LOWER onto a blocked beam, unless it already stands DOWN. -/
def Part.laneLowersSafely (p : Part) (l : LaneId) : Prop :=
  ∀ e, (p.laneEnd l e).barrier.driven = .lower → (p.laneEnd l e).beamLevel = true →
    (p.laneEnd l e).barrier.position = .down

theorem laneLowersSafely_same {p q : Part} {l : LaneId} (h : p.laneLowersSafely l) (k : p.sameBarriers q) :
    q.laneLowersSafely l := by
  intro e
  rw [(k l e).1, (k l e).2]
  exact h e

/-- An end driven for this step lowers safely (R30), whatever was driven before. -/
theorem driven_lowersSafely (p : Part) (l : LaneId) (e : LaneEnd) :
    (p.driven l e).barrier.driven = .lower → (p.driven l e).beamLevel = true →
      (p.driven l e).barrier.position = .down :=
  drive_lowers _ _ _ _

theorem driveEnds_laneEnd (p : Part) (l m : LaneId) (e : LaneEnd) :
    ((p.driveEnd l .a).driveEnd l .b).laneEnd m e = if m = l then p.driven l e else p.laneEnd m e := by
  have hb : (p.driveEnd l .a).driven l .b = p.driven l .b := by
    unfold Part.driven
    rw [driveEnd_wanted, driveEnd_moveLimit, driveEnd_laneEnd]
    simp
  rw [driveEnd_laneEnd, driveEnd_laneEnd, hb]
  cases e <;> by_cases hm : m = l <;> simp [hm]

/-- The end of a step for one lane: its ends are driven, and nothing but their barriers' drive moves. -/
theorem driveLane_same (p : Part) (l : LaneId) :
    ∃ r, p.sameBarriers r ∧ ((r.driveEnd l .a).driveEnd l .b).sameBarriers (p.driveLane l) := by
  refine ⟨if p.drivesBySettings l then p.checkLane l else p,
    sameBarriers_ite _ (sameBarriers_checkLane (sameBarriers_refl p) l) (sameBarriers_refl p), ?_⟩
  unfold Part.driveLane
  exact sameBarriers_ite _ (sameBarriers_refl _) (sameBarriers_laneClear (sameBarriers_refl _) l .barrier)

theorem driveLane_lowersSafely (p : Part) (l : LaneId) : (p.driveLane l).laneLowersSafely l := by
  obtain ⟨r, -, k⟩ := driveLane_same p l
  refine laneLowersSafely_same (fun e => ?_) k
  rw [driveEnds_laneEnd, if_pos rfl]
  exact driven_lowersSafely r l e

theorem driveLane_lowersSafely_other {p : Part} {l m : LaneId} (hm : m ≠ l) (h : p.laneLowersSafely m) :
    (p.driveLane l).laneLowersSafely m := by
  obtain ⟨r, hr, k⟩ := driveLane_same p l
  refine laneLowersSafely_same (fun e => ?_) k
  rw [driveEnds_laneEnd, if_neg hm]
  exact laneLowersSafely_same h hr e

/-- R30 holds at the end of every step, whatever the step made of the part. -/
theorem finish_lowersSafely (p : Part) : p.finish.lowersSafely := by
  have h : ∀ l, ((p.driveLane .l0).driveLane .l1).laneLowersSafely l := by
    intro l
    cases l with
    | l0 => exact driveLane_lowersSafely_other (by decide) (driveLane_lowersSafely p .l0)
    | l1 => exact driveLane_lowersSafely _ .l1
  refine fun l => laneLowersSafely_same (h l) (sameBarriers_lanes (sameBarriers_refl _) ?_)
  unfold Part.finish Part.kick
  split
  · rfl
  · rfl

/-- Settles O5: every command ends in `Part.finish`, which drives the barriers by R30. -/
theorem loweringStaysSafe : Obligations.LoweringStaysSafe := by
  intro s t h hst
  refine step_keeps (P := fun s => s.toPart.lowersSafely) (fun _ _ h => h) (fun _ h => h) (fun c s t _ he => ?_) h hst
  obtain ⟨u, p, -, hu, hp, -, -⟩ := exec_stepsTo c s
  obtain rfl : u = t := Host.Outcome.next.inj (hu.symm.trans he)
  exact (congrArg Part.lowersSafely hp).mpr (finish_lowersSafely p)

/-! ## Reset -/

theorem reset_lowersSafely : Part.reset.lowersSafely := by
  intro l e h
  have hd : (Part.reset.laneEnd l e).barrier.driven = .stop := by cases l <;> cases e <;> rfl
  rw [hd] at h
  cases h

theorem default_parityRight : SettingsImage.default_.parityRight := ⟨rfl, rfl, rfl⟩

theorem tablesReset_parityRight {s : Slot (Option ClassEntry)}
    (h : s ∈ (Vector.replicate 48 (Slot.fresh (none : Option ClassEntry))).toList) : s.parityOk = true := by
  rw [Vector.toList_replicate] at h
  rw [List.eq_of_mem_replicate h]
  rfl

theorem deck_reset (d : DeckId) : Part.reset.deck d = Deck.afterReset := by
  simp [Part.deck, Part.reset]

theorem reset_parityRight : Part.reset.parityRight := by
  refine ⟨fun d c h => ?_, fun _ h => tablesReset_parityRight h, fun _ h => tablesReset_parityRight h,
    default_parityRight, default_parityRight, fun i h => ?_, fun x h => ?_⟩
  · rw [deck_reset] at h
    cases h
  · cases h
  · cases h

/-- Settles O7. -/
theorem invariantsHoldAtReset : Obligations.InvariantsHoldAtReset :=
  ⟨⟨List.Pairwise.nil, fun _ h => (List.not_mem_nil h).elim⟩, reset_lowersSafely, reset_parityRight, rfl⟩

end Sys2Proof.Machine
end

section
/-! PROOFS. The end of a step (R30-R33, R129, R138): what it makes of a part whose settings in use are settled, and what a
settings entry in use that fails its check brings. -/

namespace Sys2Proof.Machine

/-! ## Right parities leave the settings in use settled -/

theorem parityRight_lane {i : SettingsImage} (h : i.parityRight) (l : LaneId) : (i.lanes.get l).parityOk = true := by
  obtain ⟨h0, h1, -⟩ := h
  cases l with
  | l0 => exact h0
  | l1 => exact h1

/-- The image that is in force until every lane has adopted the active one. -/
theorem siteImage_parityRight {p : Part} (h : p.parityRight) : p.siteImage.parityRight := by
  obtain ⟨-, -, -, -, hactive, hprevious, -⟩ := h
  unfold Part.siteImage
  cases hp : p.tables.settingsPrevious with
  | none => exact hactive
  | some i => exact hprevious i hp

theorem adopted_parityRight {p : Part} (h : p.parityRight) (l : LaneId) : (p.adopted l).parityRight := by
  have hsite := siteImage_parityRight h
  obtain ⟨-, -, -, -, hactive, -⟩ := h
  unfold Part.adopted
  split
  · exact hactive
  · exact hsite

theorem settled_of_parityRight {p : Part} (h : p.parityRight) : p.settingsSettled :=
  ⟨.inr (parityRight_lane (adopted_parityRight h .l0) .l0), .inr (parityRight_lane (adopted_parityRight h .l1) .l1),
    .inr (siteImage_parityRight h).2.2⟩

/-! ## A settings entry that fails its check -/

/-- A lane OPEN or CLOSED without visit and cause. -/
def Part.laneIdle (p : Part) (l : LaneId) : Prop :=
  (p.lane l).causes = .empty ∧ p.visit l = none ∧ ((p.lane l).state = .closed ∨ (p.lane l).state = .opened)

/-- The lane in FAULT by SETTINGS_PARITY alone, with its notice (R36, R41). -/
def Part.settingsFault (p : Part) (l : LaneId) : Part :=
  (p.modLane l fun y => { y with
    state := .fault, causes := { LaneCauses.empty with settingsParity := true } }).notify
      (.laneState l .fault { LaneCauses.empty with settingsParity := true })

theorem laneRaise_settingsParity {p : Part} {l : LaneId} (h : p.laneIdle l) :
    p.laneRaise l .settingsParity = p.settingsFault l := by
  obtain ⟨hc, hv, hs⟩ := h
  exact laneRaise_noVisit p l .settingsParity hc hv hs

theorem laneIdle_of_lane {p q : Part} {l : LaneId} (h : p.laneIdle l) (k : q.lane l = p.lane l) : q.laneIdle l := by
  unfold Part.laneIdle Part.visit at *
  rw [k]
  exact h

/-- The lane entry in force marked damaged, and reported (R129). -/
def Part.laneEntryFails (p : Part) (l : LaneId) : Part :=
  (p.modAdopted l fun i => { i with
    lanes := i.lanes.set l { (p.adopted l).lanes.get l with damaged := true } }).notify
      (.parity (.settingsEntry (p.adoptedName l) l.toNat))

theorem lane_modAdopted (p : Part) (l m : LaneId) (f : SettingsImage → SettingsImage) :
    (p.modAdopted l f).lane m = p.lane m := lane_modTables p _ m

theorem laneIdle_laneEntryFails {p : Part} {l : LaneId} (h : p.laneIdle l) : (p.laneEntryFails l).laneIdle l :=
  laneIdle_of_lane h rfl

theorem checkLane_fails {p : Part} {l : LaneId} (h : p.laneIdle l) (hd : ((p.adopted l).lanes.get l).damaged = false)
    (hk : ((p.adopted l).lanes.get l).parityOk = false) : p.checkLane l = (p.laneEntryFails l).settingsFault l := by
  unfold Part.checkLane
  rw [if_neg (by simp [hd, hk])]
  exact laneRaise_settingsParity (laneIdle_laneEntryFails h)

theorem adopted_modAdopted (p : Part) (l : LaneId) (f : SettingsImage → SettingsImage) :
    (p.modAdopted l f).adopted l = f (p.adopted l) := by
  unfold Part.adopted
  rw [lane_modAdopted]
  unfold Part.modAdopted
  cases ha : (p.lane l).adoptedActive <;> cases hp : p.tables.settingsPrevious <;> simp [hp]

theorem get_set_self {α : Type} (x : PerLane α) (l : LaneId) (v : α) : (x.set l v).get l = v := by
  cases l <;> rfl

/-- The lane works with the default entry in place of the one marked damaged (R138). -/
theorem settings_laneEntryFails (p : Part) (l : LaneId) :
    ((p.laneEntryFails l).settingsFault l).settings l = .default_ := by
  have ha : ((p.laneEntryFails l).settingsFault l).adopted l =
      (p.modAdopted l fun i => { i with
        lanes := i.lanes.set l { (p.adopted l).lanes.get l with damaged := true } }).adopted l := by
    cases l <;> rfl
  unfold Part.settings
  rw [ha, adopted_modAdopted]
  dsimp only
  rw [get_set_self]
  rfl

theorem laneIdle_modEnd {p : Part} {l : LaneId} (h : p.laneIdle l) (e : LaneEnd) (f : EndState → EndState) :
    (p.modEnd l e f).laneIdle l := by
  obtain ⟨hc, hs⟩ := lane_modEnd_stateAndCauses p l e f
  unfold Part.laneIdle
  rw [hc, hs, visit_modEnd]
  exact h

/-- A failing read of the settings and a change of a lane end leave each other alone. -/
theorem checkLane_modEnd {p : Part} {l : LaneId} (h : p.laneIdle l)
    (hd : ((p.adopted l).lanes.get l).damaged = false) (hk : ((p.adopted l).lanes.get l).parityOk = false)
    (e : LaneEnd) (f : EndState → EndState) : (p.modEnd l e f).checkLane l = (p.checkLane l).modEnd l e f := by
  have ha := adopted_modEnd p l e f l
  rw [checkLane_fails h hd hk,
    checkLane_fails (laneIdle_modEnd h e f) (by rw [ha, hd]) (by rw [ha, hk])]
  cases l <;> cases e <;> rfl

theorem checkLane_now {p : Part} {l : LaneId} (h : p.laneIdle l) (hd : ((p.adopted l).lanes.get l).damaged = false)
    (hk : ((p.adopted l).lanes.get l).parityOk = false) : (p.checkLane l).clock = p.clock := by
  rw [checkLane_fails h hd hk]
  rfl

/-- A raw change away from the debounced level starts the debounce timer of the entry that its own read leaves in use
(R25, R138). -/
theorem beamChange_fails {p : Part} {l : LaneId} (h : p.laneIdle l)
    (hd : ((p.adopted l).lanes.get l).damaged = false) (hk : ((p.adopted l).lanes.get l).parityOk = false)
    {e : LaneEnd} {blocked : Bool} (hr : p.phase = .running) (hraw : (p.laneEnd l e).beamRaw ≠ blocked)
    (hlevel : (p.laneEnd l e).beamLevel ≠ blocked) :
    p.beamChange l e blocked = (p.checkLane l).modEnd l e fun y => { y with
      beamRaw := blocked, debounce := .running (p.clock.running + 10 * LaneEntry.default_.debounce) } := by
  have hset : (p.checkLane l).settings l = .default_ := by
    rw [checkLane_fails h hd hk]
    exact settings_laneEntryFails p l
  unfold Part.beamChange
  dsimp only
  rw [if_neg hraw, if_neg (not_not_intro hr), if_neg (Ne.symm hlevel), checkLane_modEnd h hd hk, modEnd_modEnd,
    settings_modEnd, hset]
  unfold Part.start Part.now
  rw [modEnd_clock, checkLane_now h hd hk]

/-- The site entry in force marked damaged, where it stands. -/
def Part.siteMarked (p : Part) : Part :=
  { p with tables := match p.tables.settingsPrevious with
      | some i => { p.tables with settingsPrevious := some { i with site := { i.site with damaged := true } } }
      | none => { p.tables with settingsActive := { p.tables.settingsActive with
          site := { p.tables.settingsActive.site with damaged := true } } } }

/-- The image whose site entry is in force, as a PARITY notice names it. -/
def Part.siteName (p : Part) : ImageName := if p.tables.settingsPrevious.isSome then .previous else .active

theorem checkSite_fails {p : Part} (h0 : p.laneIdle .l0) (h1 : p.laneIdle .l1)
    (hd : p.siteImage.site.damaged = false) (hk : p.siteImage.site.parityOk = false) :
    p.checkSite = ((p.siteMarked.notify (.parity (.settingsEntry p.siteName 2))).settingsFault .l0).settingsFault .l1 := by
  have hm : (p.modTables fun t =>
      if t.settingsPrevious.isSome then
        { t with settingsPrevious := t.settingsPrevious.map fun i =>
            { i with site := { p.siteImage.site with damaged := true } } }
      else { t with settingsActive := { t.settingsActive with site := { p.siteImage.site with damaged := true } } }) =
      p.siteMarked := by
    unfold Part.modTables Part.siteMarked Part.siteImage
    cases hp : p.tables.settingsPrevious <;> simp [hp]
  unfold Part.checkSite
  dsimp only
  rw [if_neg (by simp [hd, hk]), hm]
  have k0 : (p.siteMarked.notify (.parity (.settingsEntry p.siteName 2))).laneIdle .l0 := laneIdle_of_lane h0 rfl
  have k1 : ((p.siteMarked.notify (.parity (.settingsEntry p.siteName 2))).settingsFault .l0).laneIdle .l1 :=
    laneIdle_of_lane h1 rfl
  rw [← laneRaise_settingsParity k1, ← laneRaise_settingsParity k0]
  rfl

theorem site_checkSite {p : Part} (h0 : p.laneIdle .l0) (h1 : p.laneIdle .l1)
    (hd : p.siteImage.site.damaged = false) (hk : p.siteImage.site.parityOk = false) :
    p.checkSite.site = .default_ := by
  have ht : p.checkSite.tables = p.siteMarked.tables := by
    rw [checkSite_fails h0 h1 hd hk]
    rfl
  have hdam : p.checkSite.siteImage.site.damaged = true := by
    unfold Part.siteImage
    rw [ht]
    unfold Part.siteMarked
    cases hp : p.tables.settingsPrevious <;> simp [hp]
  unfold Part.site
  rw [if_pos hdam]

/-- Settles O8: settled settings are `finish_closes`, right parities settle them, and a failing entry is `checkLane_fails`
and `checkSite_fails`, with `beamChange_fails` for the step that reads it. -/
theorem finishCloses : Obligations.FinishCloses := by
  refine ⟨finish_closes, fun _ => settled_of_parityRight, ?_⟩
  intro faults idle
  refine ⟨fun p l h => ?_, fun p h0 h1 hd hk => ⟨checkSite_fails h0 h1 hd hk, site_checkSite h0 h1 hd hk⟩⟩
  intro x hd hk q
  have hq : p.checkLane l = q := checkLane_fails h hd hk
  refine ⟨hq, settings_laneEntryFails p l, fun e blocked s hs hr hraw hlevel hset => ?_⟩
  subst hs
  refine endsAs_run _ s (·.beamChange l e blocked) _ rfl ?_ (settled_modEnd hset l e _)
  rw [beamChange_fails h hd hk hr hraw hlevel, hq]

end Sys2Proof.Machine
end

section
/-! PROOFS. The outputs of a lane that runs (R33): one equation per row. -/

namespace Sys2Proof.Machine

section
variable {x : Lane} (hs : x.stopLatch = false) (ends : Admitting) (e : LaneEnd)
include hs

theorem outputs_not_opened_no_visit (hv : x.visit = none) (ho : x.state ≠ .opened) :
    x.outputs .running ends e = (.red, .lower) := by
  cases hst : x.state with
  | opened => exact absurd hst ho
  | closed => simp [Lane.outputs, hs, hv, hst]
  | audit => simp [Lane.outputs, hs, hv, hst]
  | fault => simp [Lane.outputs, hs, hv, hst]

/-- An OPEN lane without a visit shows GREEN at the ends where it admits (R33, R42). -/
theorem outputs_opened_no_visit (hv : x.visit = none) (ho : x.state = .opened) :
    x.outputs .running ends e = (if x.admits = true ∧ ends.admits e = true then .green else .red, .lower) := by
  simp [Lane.outputs, hs, hv, ho]

variable {v : Visit} (hv : x.visit = some v)
include hv

/-- A visit in CLEARING is let out where it came in, whatever the lane's state. -/
theorem outputs_clearing (hc : v.state = .clearing) :
    x.outputs .running ends e = (.red, if v.entry = e then .raise else .lower) := by
  simp [Lane.outputs, hs, hv, hc]

variable (ho : x.state = .opened)
include ho

theorem outputs_entering (hc : v.state = .entering) :
    x.outputs .running ends e = if v.entry = e then (.green, .raise) else (.red, .lower) := by
  simp [Lane.outputs, hs, hv, ho, hc]

theorem outputs_exiting (hc : v.state = .exiting) :
    x.outputs .running ends e = if v.entry = e then (.red, .lower) else (.green, .raise) := by
  simp [Lane.outputs, hs, hv, ho, hc]

/-- In the other visit states an OPEN lane keeps both ends shut. -/
theorem outputs_other (h1 : v.state ≠ .clearing) (h2 : v.state ≠ .entering) (h3 : v.state ≠ .exiting) :
    x.outputs .running ends e = (.red, .lower) := by
  cases hst : v.state with
  | clearing => exact absurd hst h1
  | entering => exact absurd hst h2
  | exiting => exact absurd hst h3
  | identify => simp [Lane.outputs, hs, hv, ho, hst]
  | consignWait => simp [Lane.outputs, hs, hv, ho, hst]
  | settling => simp [Lane.outputs, hs, hv, ho, hst]
  | held => simp [Lane.outputs, hs, hv, ho, hst]

end

/-- Settles O11: the rows of `Lane.outputs`. -/
theorem laneOutputsFollowState : Obligations.LaneOutputsFollowState := by
  intro x ends e
  refine ⟨fun h => outputs_of_stopLatch h .running ends e, fun hs =>
    ⟨outputs_not_opened_no_visit hs ends e, outputs_opened_no_visit hs ends e, fun v hv => ?_⟩⟩
  exact ⟨outputs_clearing hs ends e hv, outputs_entering hs ends e hv, outputs_exiting hs ends e hv,
    outputs_other hs ends e hv⟩

end Sys2Proof.Machine
end

section
/-! PROOFS. The yard link (R181-R191): the rows that answer or drop a request at once, the transmitter, the notice queues,
and the requests that the interface owns. -/

namespace Sys2Proof.Machine

/-! ## The rows of R182 -/

section
variable {p : Part} {corr : U16} {r : Req} {owner : Part → Part} {target : Byte}

theorem admitRequest_resetting (h : p.phase = .resetting) : p.admitRequest corr r owner target = p.countDrop := by
  unfold Part.admitRequest
  rw [if_pos h]

theorem admitRequest_full (h : 16 ≤ p.link.responses.length) : p.admitRequest corr r owner target = p.countDrop := by
  unfold Part.admitRequest
  rw [if_pos h, ite_self]

variable (hq : p.link.responses.length < 16)
include hq

theorem admitRequest_startup (h : p.phase = .startup) (hr : r ≠ .status) :
    p.admitRequest corr r owner target = p.respondNow corr r.code .starting false := by
  simp [Part.admitRequest, h, hr, Nat.not_le.mpr hq]

theorem admitRequest_restart (h : p.phase = .running) (hp : p.link.restart.isSome = true) (hr : r ≠ .status) :
    p.admitRequest corr r owner target = p.respondNow corr r.code .busy false := by
  simp [Part.admitRequest, h, hp, hr, Nat.not_le.mpr hq]

theorem admitRequest_duplicate (h : p.phase = .running) (hp : p.link.restart = none)
    (ho : ∃ o ∈ p.link.outstanding, o.corr = corr) :
    p.admitRequest corr r owner target = p.respondNow corr r.code .badValue true := by
  have hany : (p.link.outstanding.any fun o => decide (o.corr = corr)) = true := by simpa using ho
  simp [Part.admitRequest, h, hp, hany, Nat.not_le.mpr hq]

theorem admitRequest_crowded (h : p.phase = .running) (hp : p.link.restart = none)
    (ho : ∀ o ∈ p.link.outstanding, o.corr ≠ corr) (h8 : 8 ≤ p.link.outstanding.length) :
    p.admitRequest corr r owner target = p.respondNow corr r.code .busy false := by
  have hany : (p.link.outstanding.any fun o => decide (o.corr = corr)) = false := by simpa using ho
  simp [Part.admitRequest, h, hp, hany, h8, Nat.not_le.mpr hq]

/-- STATUS is taken in startup and with a RESTART pending too. -/
theorem admitRequest_status (h : p.phase ≠ .resetting) (h8 : p.link.outstanding.length < 8)
    (ho : ∀ o ∈ p.link.outstanding, o.corr ≠ corr) :
    p.admitRequest corr .status owner = owner (p.admitted corr .status) := by
  have hany : (p.link.outstanding.any fun o => decide (o.corr = corr)) = false := by simpa using ho
  simp [Part.admitRequest, Part.admitted, Part.modLink, h, hany, Nat.not_le.mpr hq, Nat.not_le.mpr h8]

end

/-- Every request is judged by the rows of R182 before its owner sees it. -/
theorem exec_request {c : Instr} {corr : U16} {r : Req} (h : requestOf c = some (corr, r)) :
    ∃ owner target, ∀ s, exec c s = s.run fun p => (beforeRequest c p).admitRequest corr r owner target := by
  cases c <;> cases h <;> exact ⟨_, _, fun _ => rfl⟩

theorem beforeRequest_eq (c : Instr) (p : Part) : ∃ b, beforeRequest c p = { p with calEn := b } := by
  unfold beforeRequest
  split
  · exact ⟨_, rfl⟩
  · exact ⟨p.calEn, rfl⟩

theorem settled_modLink {p : Part} (h : p.settingsSettled) (f : Link → Link) : (p.modLink f).settingsSettled :=
  settled_of h rfl rfl rfl

/-- Settles O12: the rows of `Part.admitRequest`. -/
theorem requestsAnsweredAtOnce : Obligations.RequestsAnsweredAtOnce := by
  intro c corr r s hc hs p
  obtain ⟨owner, target, hexec⟩ := exec_request hc
  obtain ⟨b, hb⟩ : ∃ b, p = { s.toPart with calEn := b } := beforeRequest_eq c s.toPart
  have hp : p.settingsSettled := hb ▸ settled_of hs rfl rfl rfl
  have hphase : p.phase = s.phase := by rw [hb]
  have hlink : p.link = s.link := by rw [hb]
  have ends_of : ∀ {q}, p.admitRequest corr r owner target = q → q.settingsSettled → endsAs c s q :=
    fun hq hset => endsAs_run c s _ _ (hexec s) hq hset
  rw [← hphase, ← hlink]
  refine ⟨fun h => ends_of (admitRequest_resetting h) (settled_modLink hp _),
    fun h => ends_of (admitRequest_full h) (settled_modLink hp _), fun h16 => ⟨?_, ?_, ?_, ?_⟩⟩
  · exact fun h hr => ends_of (admitRequest_startup h16 h hr) (settled_modLink hp _)
  · exact fun h hres hr => ends_of (admitRequest_restart h16 h hres hr) (settled_modLink hp _)
  · exact fun h hres ho => ends_of (admitRequest_duplicate h16 h hres ho) (settled_modLink hp _)
  · exact fun h hres ho h8 => ends_of (admitRequest_crowded h16 h hres ho h8) (settled_modLink hp _)

/-! ## The transmitter (R184, R185) -/

/-- The outstanding entries that a frame sent in full leaves: an owner's response frees its own. -/
def Link.outstandingAfter (k : Link) (f : OutFrame) : List Outstanding :=
  match f with
  | .response r => if r.immediate then k.outstanding else k.outstanding.filter fun o => o.corr ≠ r.corr
  | _ => k.outstanding

theorem sent_eq {k : Link} {f : OutFrame} (h : k.tx = some f) :
    k.sent = { k with tx := none, outstanding := k.outstandingAfter f } := by
  unfold Link.sent Link.outstandingAfter
  rw [h]
  cases f with
  | response r => cases hi : r.immediate <;> simp [hi]
  | notice n => rfl
  | monitor m => rfl

theorem frameSent_run {s : State} (h : s.link.sendsRestart = false) :
    exec .frameSent s = s.run fun p => p.modLink Link.sent := by
  show execFrameSent s = _
  unfold execFrameSent
  rw [h]
  rfl

/-- Settles O14: the cases of `Link.kick` and of `Link.sent`. -/
theorem transmitterServes : Obligations.TransmitterServes := by
  refine ⟨fun k ht => ⟨?_, ?_, ?_, ?_, ?_⟩, fun s f hs ht hr => ?_⟩
  · intro r rs h
    simp [Link.kick, ht, h]
  · intro h n ns hu
    simp [Link.kick, ht, h, hu]
  · intro h hu n ns hn
    simp [Link.kick, ht, h, hu, hn]
  · intro h hu hn m hm
    simp [Link.kick, ht, h, hu, hn, hm]
  · intro h hu hn hm
    simp [Link.kick, ht, h, hu, hn, hm]
  · refine endsAs_run _ s (·.modLink Link.sent) _ (frameSent_run hr) ?_ (settled_of hs rfl rfl rfl)
    unfold Part.modLink
    rw [sent_eq ht]
    rfl

/-! ## The notice queues (R186) -/

section
variable {k : Link} {n : Notice}

theorem queueNotice_routine (h : k.urgent.length + k.routine.length < 32) (hu : n.body.urgent = false) :
    k.queueNotice n = { k with routine := k.routine ++ [n] } := by
  simp [Link.queueNotice, h, hu]

theorem queueNotice_urgent (h : k.urgent.length + k.routine.length < 32) (hu : n.body.urgent = true) :
    k.queueNotice n = { k with urgent := k.urgent ++ [n] } := by
  simp [Link.queueNotice, h, hu]

/-- Nothing can make room: a ROUTINE notice, or an URGENT one among URGENT ones alone. -/
theorem queueNotice_lost (h : 32 ≤ k.urgent.length + k.routine.length)
    (hu : ¬ (n.body.urgent = true ∧ k.routine ≠ [])) : k.queueNotice n = { k with lost := true } := by
  unfold Link.queueNotice
  rw [if_neg (Nat.not_lt.mpr h), if_neg hu]

theorem queueNotice_displaces (h : 32 ≤ k.urgent.length + k.routine.length) (hu : n.body.urgent = true)
    (hr : k.routine ≠ []) :
    k.queueNotice n = { k with routine := k.routine.dropLast, urgent := k.urgent ++ [n], lost := true } := by
  unfold Link.queueNotice
  rw [if_neg (Nat.not_lt.mpr h), if_pos ⟨hu, hr⟩]

end

/-- Settles O15: the rows of `Link.queueNotice`. -/
theorem noticeQueueRows : Obligations.NoticeQueueRows := by
  intro p b n k held
  have hn : p.notify b = { p with link := k.queueNotice n } := rfl
  rw [hn]
  refine ⟨fun h hu => ?_, fun h hu => ?_, fun h hu => ?_, fun h hu hr => ?_, fun h hu hr => ?_⟩
  · rw [queueNotice_routine (k := k) (n := n) h hu]
  · rw [queueNotice_urgent (k := k) (n := n) h hu]
  · have hu' : n.body.urgent = false := hu
    rw [queueNotice_lost (k := k) (n := n) h (by simp [hu'])]
  · rw [queueNotice_displaces (k := k) (n := n) h hu hr]
  · rw [queueNotice_lost (k := k) (n := n) h fun hc => hc.2 hr]

/-! ## STATUS (R187, R188) -/

/-- The outputs of a lane while the part does not run, as STATUS reports them (R33, R188). -/
theorem laneOutputs_of_not_running {p : Part} (h : p.phase ≠ .running) (l : LaneId) :
    p.laneOutputs l = ⟨⟨.red, .red⟩, ⟨.stop, .stop⟩⟩ := by
  simp [Part.laneOutputs, Part.signal, Part.wanted, Lane.outputs, h]

theorem statusReport_startup {p : Part} (h : p.phase = .startup) :
    p.statusReport.full = none ∧
      p.statusReport.starting = some ⟨⟨⟨.red, .red⟩, ⟨.stop, .stop⟩⟩, ⟨⟨.red, .red⟩, ⟨.stop, .stop⟩⟩⟩ := by
  have ho := laneOutputs_of_not_running (p := p) (by rw [h]; decide)
  simp [Part.statusReport, h, ho]

theorem statusReport_running {p : Part} (h : p.phase = .running) :
    p.statusReport.starting = none ∧ p.statusReport.full = some p.fullStatus := by
  simp [Part.statusReport, h]

/-- Settles O16: STATUS is taken in startup and while running, and its report is read off the part that holds its own
outstanding entry. -/
theorem statusReportsState : Obligations.StatusReportsState := by
  intro corr s hs hphase h16 h8 ho p visit lane deck
  refine ⟨p.statusReport, ?_, ?_, rfl, rfl, fun h => statusReport_startup h, fun h => ?_⟩
  · refine endsAs_run _ s (·.admitRequest corr .status (·.status corr)) _ rfl ?_ (settled_of hs rfl rfl rfl)
    exact admitRequest_status h16 hphase h8 ho
  · have hlen : p.link.outstanding.length = s.link.outstanding.length + 1 := List.length_append
    have hpart : p.statusReport.part = p.partStatus := rfl
    rw [hpart]
    unfold Part.partStatus
    rw [hlen]
    rfl
  · obtain ⟨hstarting, hfull⟩ := statusReport_running (p := p) h
    exact ⟨hstarting, hfull⟩

/-! ## TIME_SET and RESTART (R190, R191) -/

/-- Settles O17: the rows of `Part.timeSet` and `Part.restartRequest`. -/
theorem timeSetAndRestart : Obligations.TimeSetAndRestart := by
  intro corr s hs ht p r
  have hp : p.settingsSettled := settled_admitted hs _ _ _
  have hr : r.settingsSettled := settled_admitted hs _ _ _
  have restarts : ∀ {force q}, r.restartRequest corr force = q → q.settingsSettled →
      endsAs (.restart corr force) s q := fun {force q} hq hset =>
    request_endsAs _ s corr .restart (·.restartRequest corr force) q 0 rfl ht hq hset
  have sets : ∀ {sec ms q}, p.timeSet corr sec ms = q → q.settingsSettled → endsAs (.timeSet corr sec ms) s q :=
    fun {sec ms q} hq hset => request_endsAs _ s corr .timeSet (·.timeSet corr sec ms) q 0 rfl ht hq hset
  refine ⟨fun sec ms => ⟨fun h => ?_, fun h => ?_⟩, fun force => ⟨fun h => ?_, fun hf hv => ?_⟩, fun code => ?_⟩
  · exact sets (if_neg (Nat.not_lt.mpr h)) (settled_of hp rfl rfl rfl)
  · exact sets (if_pos h) (settled_refuse hp _ _ _)
  · refine restarts (if_neg ?_) (settled_of hr rfl rfl rfl)
    rintro ⟨hf, hv⟩
    rcases h with h | ⟨h0, h1⟩
    · rw [h] at hf
      cases hf
    · rw [show r.visit .l0 = none from h0, show r.visit .l1 = none from h1] at hv
      simp at hv
  · exact restarts (if_pos ⟨hf, hv⟩) (settled_refuse hr _ _ _)
  · exact restarts rfl (settled_refuse hr _ _ _)

end Sys2Proof.Machine
end

section
/-! PROOFS. Bytes on the links (11.2): little-endian fields, escaping, and CRC-16. -/

namespace Sys2Proof.Machine

/-! ## Little-endian fields -/

@[simp] theorem length_leBytes (n v : Nat) : (leBytes n v).length = n := by
  induction n generalizing v with
  | zero => rfl
  | succ n ih => simp [leBytes, ih]

theorem readLe_leBytes (n v : Nat) : readLe (leBytes n v) = v % 256 ^ n := by
  induction n generalizing v with
  | zero => simp [leBytes, readLe, Nat.mod_one]
  | succ n ih =>
    simp only [leBytes, readLe, ih, BitVec.toNat_ofNat]
    rw [show 256 ^ (n + 1) = 256 * 256 ^ n by ring, Nat.mod_mul]

theorem readLe_leBytes_of_lt {n v : Nat} (h : v < 256 ^ n) : readLe (leBytes n v) = v := by
  rw [readLe_leBytes, Nat.mod_eq_of_lt h]

theorem readLe_lt (bs : List Byte) : readLe bs < 256 ^ bs.length := by
  induction bs with
  | nil => simp [readLe]
  | cons b bs ih =>
    have hb : b.toNat < 256 := b.isLt
    simp only [readLe, List.length_cons, Nat.pow_succ]
    omega

theorem leBytes_readLe (bs : List Byte) : leBytes bs.length (readLe bs) = bs := by
  induction bs with
  | nil => rfl
  | cons b bs ih =>
    have hb : b.toNat < 256 := b.isLt
    have hmod : BitVec.ofNat 8 (b.toNat + 256 * readLe bs) = b := by
      apply BitVec.eq_of_toNat_eq
      rw [BitVec.toNat_ofNat]
      omega
    have hdiv : (b.toNat + 256 * readLe bs) / 256 = readLe bs := by omega
    simp only [List.length_cons, leBytes, readLe, hmod, hdiv, ih]

theorem leBytes_eq_of_readLe {n v : Nat} {bs : List Byte} (hl : bs.length = n) (hv : readLe bs = v) :
    leBytes n v = bs := by
  rw [← hl, ← hv, leBytes_readLe]

theorem slice_append {a b rest : List Byte} {offset size : Nat} (ha : a.length = offset) (hb : b.length = size) :
    slice (a ++ (b ++ rest)) offset size = b := by
  unfold slice
  rw [← ha, List.drop_left, ← hb, List.take_left]

/-- A field is read off the bytes that stand at its offset. -/
theorem field_append {a b rest : List Byte} {offset size : Nat} (ha : a.length = offset) (hb : b.length = size) :
    field (a ++ (b ++ rest)) offset size = readLe b := by
  unfold field
  rw [slice_append ha hb]

theorem field_leBytes {a rest : List Byte} {offset size v : Nat} (ha : a.length = offset) (hv : v < 256 ^ size) :
    field (a ++ (leBytes size v ++ rest)) offset size = v := by
  rw [field_append ha (length_leBytes size v), readLe_leBytes_of_lt hv]

/-- A field of one byte. -/
theorem field_byte {a rest : List Byte} {b : Byte} {offset : Nat} (ha : a.length = offset) :
    field (a ++ b :: rest) offset 1 = b.toNat := by
  have h := field_append (b := [b]) (rest := rest) ha rfl
  simpa [readLe] using h

/-! ## Escaping -/

theorem escapeBytes_delimiter (bs : List Byte) : escapeBytes (0x7E :: bs) = 0x7D :: 0x5E :: escapeBytes bs := rfl

theorem escapeBytes_escape (bs : List Byte) : escapeBytes (0x7D :: bs) = 0x7D :: 0x5D :: escapeBytes bs := rfl

/-- A byte that needs no escape stands for itself. -/
theorem escapeBytes_plain {b : Byte} (h7d : b ≠ 0x7D) (h7e : b ≠ 0x7E) (bs : List Byte) :
    escapeBytes (b :: bs) = b :: escapeBytes bs := by
  rw [escapeBytes, if_neg h7e, if_neg h7d]

/-- An escaped byte is one of the two that are escaped, or plain. -/
theorem escape_cases (b : Byte) : b = 0x7E ∨ b = 0x7D ∨ b ≠ 0x7D ∧ b ≠ 0x7E := by
  by_cases h : b = 0x7E
  · exact .inl h
  · by_cases k : b = 0x7D
    · exact .inr (.inl k)
    · exact .inr (.inr ⟨k, h⟩)

theorem escapeBytes_append (a b : List Byte) : escapeBytes (a ++ b) = escapeBytes a ++ escapeBytes b := by
  induction a with
  | nil => rfl
  | cons x a ih =>
    obtain rfl | rfl | ⟨h7d, h7e⟩ := escape_cases x
    · rw [List.cons_append, escapeBytes_delimiter, escapeBytes_delimiter, ih]
      rfl
    · rw [List.cons_append, escapeBytes_escape, escapeBytes_escape, ih]
      rfl
    · rw [List.cons_append, escapeBytes_plain h7d h7e, escapeBytes_plain h7d h7e, ih]
      rfl

theorem delimiter_notMem_escapeBytes (bs : List Byte) : delimiter ∉ escapeBytes bs := by
  induction bs with
  | nil => exact List.not_mem_nil
  | cons b bs ih =>
    obtain rfl | rfl | ⟨h7d, h7e⟩ := escape_cases b
    · rw [escapeBytes_delimiter, List.mem_cons, List.mem_cons, not_or, not_or]
      exact ⟨by decide, by decide, ih⟩
    · rw [escapeBytes_escape, List.mem_cons, List.mem_cons, not_or, not_or]
      exact ⟨by decide, by decide, ih⟩
    · rw [escapeBytes_plain h7d h7e, List.mem_cons, not_or]
      exact ⟨Ne.symm h7e, ih⟩

theorem unescapeBytes_plain {b : Byte} (h7d : b ≠ 0x7D) (h7e : b ≠ 0x7E) (bs : List Byte) :
    unescapeBytes (b :: bs) = (unescapeBytes bs).map (b :: ·) := by
  cases bs with
  | nil =>
    unfold unescapeBytes
    rw [if_neg (not_or.mpr ⟨h7d, h7e⟩)]
    rfl
  | cons c bs =>
    rw [unescapeBytes, if_neg h7d, if_neg h7e]

theorem unescapeBytes_escapeBytes (bs : List Byte) : unescapeBytes (escapeBytes bs) = some bs := by
  induction bs with
  | nil => rfl
  | cons b bs ih =>
    obtain rfl | rfl | ⟨h7d, h7e⟩ := escape_cases b
    · show (unescapeBytes (escapeBytes bs)).map (0x7E :: ·) = _
      rw [ih]
      rfl
    · show (unescapeBytes (escapeBytes bs)).map (0x7D :: ·) = _
      rw [ih]
      rfl
    · rw [escapeBytes_plain h7d h7e, unescapeBytes_plain h7d h7e, ih]
      rfl

/-- What is read behind the escaping is what was escaped. -/
theorem eq_escapeBytes_of_unescapeBytes {bs r : List Byte} (h : unescapeBytes bs = some r) : bs = escapeBytes r := by
  fun_induction unescapeBytes bs generalizing r with
  | case1 =>
    obtain rfl : [] = r := Option.some.inj h
    rfl
  | case2 b hb => cases h
  | case3 b hb =>
    obtain rfl : [b] = r := Option.some.inj h
    obtain ⟨h7d, h7e⟩ := not_or.mp hb
    exact (escapeBytes_plain h7d h7e []).symm
  | case4 bs ih =>
    obtain ⟨r', hr, rfl⟩ := Option.map_eq_some_iff.mp h
    rw [ih hr, escapeBytes_delimiter]
  | case5 bs _ ih =>
    obtain ⟨r', hr, rfl⟩ := Option.map_eq_some_iff.mp h
    rw [ih hr, escapeBytes_escape]
  | case6 => cases h
  | case7 => cases h
  | case8 b c bs h7d h7e ih =>
    obtain ⟨r', hr, rfl⟩ := Option.map_eq_some_iff.mp h
    rw [ih hr, escapeBytes_plain h7d h7e]

theorem unescapeBytes_iff {bs r : List Byte} : unescapeBytes bs = some r ↔ bs = escapeBytes r :=
  ⟨eq_escapeBytes_of_unescapeBytes, fun h => h ▸ unescapeBytes_escapeBytes r⟩

theorem unframe_iff {wire f : List Byte} :
    unframe wire = some f ↔ ∃ r, wire = delimiter :: escapeBytes r ∧ f = delimiter :: r := by
  cases wire with
  | nil => simp [unframe]
  | cons b bs =>
    by_cases hb : b = delimiter
    · simp only [unframe, hb, if_true, Option.map_eq_some_iff, unescapeBytes_iff, List.cons.injEq, true_and]
      exact ⟨fun ⟨r, h, hf⟩ => ⟨r, h, hf.symm⟩, fun ⟨r, h, hf⟩ => ⟨r, h, hf.symm⟩⟩
    · simp [unframe, hb]

theorem unescapeFirst_plain {b : Byte} (h7d : b ≠ 0x7D) (h7e : b ≠ 0x7E) (n : Nat) (bs : List Byte) :
    unescapeFirst (n + 1) (b :: bs) = (unescapeFirst n bs).map (b :: ·) := by
  show (if b = 0x7E then none else if b ≠ 0x7D then (unescapeFirst n bs).map (b :: ·) else _) = _
  rw [if_neg h7e, if_pos h7d]

/-- The first bytes behind the escaping are read whatever follows them. -/
theorem unescapeFirst_escapeBytes (r rest : List Byte) : unescapeFirst r.length (escapeBytes r ++ rest) = some r := by
  induction r with
  | nil => rfl
  | cons b r ih =>
    obtain rfl | rfl | ⟨h7d, h7e⟩ := escape_cases b
    · show (unescapeFirst r.length (escapeBytes r ++ rest)).map (0x7E :: ·) = _
      rw [ih]
      rfl
    · show (unescapeFirst r.length (escapeBytes r ++ rest)).map (0x7D :: ·) = _
      rw [ih]
      rfl
    · rw [escapeBytes_plain h7d h7e, List.length_cons, List.cons_append, unescapeFirst_plain h7d h7e, ih]
      rfl

/-- What is read of the first bytes stands escaped at the front of the wire. -/
theorem eq_escapeBytes_of_unescapeFirst {n : Nat} {bs r : List Byte} (h : unescapeFirst n bs = some r) :
    r.length ≤ n ∧ ∃ rest, bs = escapeBytes r ++ rest := by
  fun_induction unescapeFirst n bs generalizing r with
  | case1 bs =>
    obtain rfl : [] = r := Option.some.inj h
    exact ⟨Nat.le_refl 0, bs, rfl⟩
  | case2 n =>
    obtain rfl : [] = r := Option.some.inj h
    exact ⟨Nat.zero_le _, [], rfl⟩
  | case3 => cases h
  | case4 n b bs h7e h7d ih =>
    obtain ⟨r', hr, rfl⟩ := Option.map_eq_some_iff.mp h
    obtain ⟨hl, rest, hbs⟩ := ih hr
    exact ⟨Nat.succ_le_succ hl, rest, by rw [hbs, escapeBytes_plain h7d h7e]; rfl⟩
  | case5 n b h7e h7d cs ih =>
    obtain ⟨r', hr, rfl⟩ := Option.map_eq_some_iff.mp h
    obtain ⟨hl, rest, hcs⟩ := ih hr
    obtain rfl : b = 0x7D := not_not.mp h7d
    exact ⟨Nat.succ_le_succ hl, rest, by rw [hcs, escapeBytes_delimiter]; rfl⟩
  | case6 n b h7e h7d cs ih =>
    obtain ⟨r', hr, rfl⟩ := Option.map_eq_some_iff.mp h
    obtain ⟨hl, rest, hcs⟩ := ih hr
    obtain rfl : b = 0x7D := not_not.mp h7d
    exact ⟨Nat.succ_le_succ hl, rest, by rw [hcs, escapeBytes_escape]; rfl⟩
  | case7 => cases h

/-! ## CRC-16 -/

theorem crc16Bit_lt {c : Nat} (h : c < 2 ^ 16) : crc16Bit c < 2 ^ 16 := by
  unfold crc16Bit
  split
  · next hc =>
    have hdiv : (2 * c ^^^ 0x11021) / 2 ^ 16 = 0 := by
      rw [Nat.xor_div_two_pow, show 2 * c / 2 ^ 16 = 1 by omega]
      rfl
    omega
  · omega

theorem crc16Byte_lt {c : Nat} (h : c < 2 ^ 16) (b : Byte) : crc16Byte c b < 2 ^ 16 := by
  have hb : b.toNat < 256 := b.isLt
  have hx : c ^^^ (b.toNat * 256) < 2 ^ 16 := Nat.xor_lt_two_pow h (by omega)
  exact crc16Bit_lt (crc16Bit_lt (crc16Bit_lt (crc16Bit_lt (crc16Bit_lt (crc16Bit_lt (crc16Bit_lt (crc16Bit_lt hx)))))))

theorem crc16_lt (bs : List Byte) : crc16 bs < 2 ^ 16 := by
  have h : ∀ c, c < 2 ^ 16 → bs.foldl crc16Byte c < 2 ^ 16 := by
    induction bs with
    | nil => exact fun c hc => hc
    | cons b bs ih =>
      intro c hc
      rw [List.foldl_cons]
      exact ih _ (crc16Byte_lt hc b)
  exact h 0xFFFF (by norm_num)

/-! ## Frames with their CRC-16 -/

/-- A frame as its offsets count it: the delimiter, its bytes, and the CRC-16 over them. -/
def framed (body : List Byte) : List Byte := delimiter :: (body ++ leBytes 2 (crc16 body))

theorem length_framed (body : List Byte) : (framed body).length = body.length + 3 := by
  simp [framed]

theorem frameCrcOk_framed (body : List Byte) : frameCrcOk (framed body) = true := by
  have hcrc : field (framed body) ((framed body).length - 2) 2 = crc16 body := by
    have h := field_leBytes (a := delimiter :: body) (rest := []) (offset := (framed body).length - 2) (size := 2)
      (v := crc16 body) (by simp [length_framed]) (crc16_lt body)
    rw [List.append_nil] at h
    exact h
  have hbody : ((framed body).drop 1).take ((framed body).length - 3) = body := by
    rw [length_framed, Nat.add_sub_cancel]
    exact List.take_left
  unfold frameCrcOk
  rw [hcrc, hbody, beq_self_eq_true]

/-- A frame whose CRC-16 is right is its bytes with that CRC-16 behind them. -/
theorem eq_framed_of_frameCrcOk {r : List Byte} (hl : 2 ≤ r.length) (h : frameCrcOk (delimiter :: r) = true) :
    delimiter :: r = framed (r.take (r.length - 2)) := by
  have hdrop : (r.drop (r.length - 2)).length = 2 := by
    rw [List.length_drop]
    omega
  have hfield : field (delimiter :: r) (r.length - 1) 2 = readLe (r.drop (r.length - 2)) := by
    have hsplit : delimiter :: r = (delimiter :: r.take (r.length - 2)) ++ (r.drop (r.length - 2) ++ []) := by
      rw [List.append_nil, List.cons_append, List.take_append_drop]
    rw [hsplit]
    refine field_append ?_ hdrop
    rw [List.length_cons, List.length_take]
    omega
  have hcrc : crc16 (r.take (r.length - 2)) = readLe (r.drop (r.length - 2)) := by
    rw [← hfield]
    exact (eq_of_beq h).symm
  unfold framed
  rw [leBytes_eq_of_readLe hdrop hcrc.symm, List.take_append_drop]

/-- A frame of at least three bytes that its receiver takes is one that was put on the wire. -/
theorem unframe_crc_iff {wire f : List Byte} (hl : 3 ≤ f.length) :
    (unframe wire = some f ∧ frameCrcOk f = true) ↔ ∃ body, wire = onWire body ∧ f = framed body := by
  constructor
  · rintro ⟨hf, hcrc⟩
    obtain ⟨r, rfl, rfl⟩ := unframe_iff.mp hf
    have heq := eq_framed_of_frameCrcOk (r := r) (by simpa using hl) hcrc
    refine ⟨_, ?_, heq⟩
    have hr : r = _ := List.cons_injective heq
    unfold onWire
    rw [← hr]
  · rintro ⟨body, rfl, rfl⟩
    exact ⟨unframe_iff.mpr ⟨_, rfl, rfl⟩, frameCrcOk_framed body⟩

/-- Five bytes in front of a list that is long enough. -/
theorem exists_five {bs : List Byte} (h : 5 ≤ bs.length) :
    ∃ a b c d e rest, bs = a :: b :: c :: d :: e :: rest := by
  match bs, h with
  | a :: b :: c :: d :: e :: rest, _ => exact ⟨a, b, c, d, e, rest, rfl⟩

/-! ## The frames of the yard link that are not dropped (R181, R193) -/

/-- What stands between the delimiter and the CRC-16 of a REQUEST frame. -/
def requestBody (corr : U16) (body : List Byte) : List Byte :=
  leBytes 2 (body.length + 8) ++ 1 :: (leBytes 2 corr.toNat ++ body)

theorem length_requestBody (corr : U16) (body : List Byte) : (requestBody corr body).length = body.length + 5 := by
  simp [requestBody]
  omega

theorem requestBody_kind (corr : U16) (body : List Byte) : field (framed (requestBody corr body)) 3 1 = 1 := by
  have h := field_byte (a := delimiter :: leBytes 2 (body.length + 8))
    (rest := leBytes 2 corr.toNat ++ body ++ leBytes 2 (crc16 (requestBody corr body))) (b := 1) (offset := 3) (by simp)
  have hf : framed (requestBody corr body) = (delimiter :: leBytes 2 (body.length + 8)) ++
      1 :: (leBytes 2 corr.toNat ++ body ++ leBytes 2 (crc16 (requestBody corr body))) := by
    simp [framed, requestBody]
  rw [hf]
  exact h

/-- The bytes between delimiter and CRC-16 of a frame of kind 1 whose length is right are those of a REQUEST. -/
theorem eq_requestBody {x : List Byte} (hx : 5 ≤ x.length) (hn : readLe (x.take 2) = x.length + 3)
    (hk : field (framed x) 3 1 = 1) : ∃ corr body, x = requestBody corr body := by
  obtain ⟨a, b, k, c, d, body, rfl⟩ := exists_five hx
  have hkind : k.toNat = 1 := by
    rw [← hk]
    exact (field_byte (a := [delimiter, a, b]) (offset := 3) rfl).symm
  obtain rfl : k = 1 := BitVec.eq_of_toNat_eq hkind
  have hlen : leBytes 2 (body.length + 8) = [a, b] := leBytes_eq_of_readLe rfl (by simpa using hn)
  have hcorr : leBytes 2 (BitVec.ofNat 16 (readLe [c, d])).toNat = [c, d] := by
    have hlt : readLe [c, d] < 2 ^ 16 := lt_of_lt_of_eq (readLe_lt [c, d]) (by norm_num)
    rw [BitVec.toNat_ofNat, Nat.mod_eq_of_lt hlt]
    exact leBytes_readLe [c, d]
  refine ⟨BitVec.ofNat 16 (readLe [c, d]), body, ?_⟩
  unfold requestBody
  rw [hlen, hcorr]
  rfl

theorem yardFrameBad_requestWire {corr : U16} {body : List Byte} (h : body.length + 8 ≤ 512) (rest : List Byte) :
    yardFrameBad (requestWire corr body ++ rest) = false := by
  have hwire : requestWire corr body ++ rest =
      delimiter :: (escapeBytes (requestBody corr body ++ leBytes 2 (crc16 (requestBody corr body))) ++ rest) := rfl
  have htwo : unescapeFirst 2
      (escapeBytes (requestBody corr body ++ leBytes 2 (crc16 (requestBody corr body))) ++ rest) =
      some (leBytes 2 (body.length + 8)) := by
    have hr := unescapeFirst_escapeBytes (leBytes 2 (body.length + 8))
      (escapeBytes (1 :: (leBytes 2 corr.toNat ++ body) ++ leBytes 2 (crc16 (requestBody corr body))) ++ rest)
    rw [← List.append_assoc, ← escapeBytes_append, length_leBytes] at hr
    rw [← hr]
    simp [requestBody]
  have hn : readLe (leBytes 2 (body.length + 8)) = body.length + 8 := readLe_leBytes_of_lt (by omega)
  have hbody : yardBodyBad (body.length + 8)
      (escapeBytes (requestBody corr body ++ leBytes 2 (crc16 (requestBody corr body))) ++ rest) = false := by
    have hlen : (requestBody corr body ++ leBytes 2 (crc16 (requestBody corr body))).length = body.length + 8 - 1 := by
      simp [length_requestBody]
    have hr := unescapeFirst_escapeBytes (requestBody corr body ++ leBytes 2 (crc16 (requestBody corr body))) rest
    rw [hlen] at hr
    unfold yardBodyBad
    rw [hr]
    show (decide ((framed (requestBody corr body)).length < body.length + 8) || !frameCrcOk (framed (requestBody corr body))
      || field (framed (requestBody corr body)) 3 1 != 1) = false
    rw [frameCrcOk_framed, requestBody_kind, length_framed, length_requestBody]
    simp
  rw [hwire]
  unfold yardFrameBad
  dsimp only
  rw [htwo]
  dsimp only
  rw [hn, hbody]
  simp
  omega

theorem exists_requestWire {wire : List Byte} (h : yardFrameBad wire = false) :
    ∃ corr body rest, body.length + 8 ≤ 512 ∧ wire = requestWire corr body ++ rest := by
  unfold yardFrameBad at h
  cases wire with
  | nil => cases h
  | cons b bs =>
    dsimp only at h
    cases htwo : unescapeFirst 2 bs with
    | none => rw [htwo] at h; cases h
    | some two =>
      rw [htwo] at h
      simp only [Bool.or_eq_false_iff, bne_eq_false_iff_eq, decide_eq_false_iff_not, Nat.not_lt] at h
      obtain ⟨⟨⟨⟨rfl, hl2⟩, h8⟩, h512⟩, hbody⟩ := h
      unfold yardBodyBad at hbody
      cases hall : unescapeFirst (readLe two - 1) bs with
      | none => rw [hall] at hbody; cases hbody
      | some r =>
        rw [hall] at hbody
        simp only [Bool.or_eq_false_iff, bne_eq_false_iff_eq, decide_eq_false_iff_not, Nat.not_lt,
          Bool.not_eq_false', List.length_cons] at hbody
        obtain ⟨⟨hrl, hcrc⟩, hkind⟩ := hbody
        obtain ⟨hle, rest, rfl⟩ := eq_escapeBytes_of_unescapeFirst hall
        have hlen : r.length = readLe two - 1 := by omega
        have hx := eq_framed_of_frameCrcOk (r := r) (by omega) hcrc
        have hrx : r = _ := List.cons_injective hx
        have hxl : (r.take (r.length - 2)).length = readLe two - 3 := by
          rw [List.length_take]
          omega
        have htake : two = (r.take (r.length - 2)).take 2 := by
          have hr2 := unescapeFirst_escapeBytes (r.take 2) (escapeBytes (r.drop 2) ++ rest)
          rw [← List.append_assoc, ← escapeBytes_append, List.take_append_drop, List.length_take,
            Nat.min_eq_left (by omega), htwo] at hr2
          rw [Option.some.inj hr2, List.take_take, Nat.min_eq_left (by omega)]
        rw [hx] at hkind
        obtain ⟨corr, body, hreq⟩ := eq_requestBody (x := r.take (r.length - 2)) (by omega)
          (by rw [← htake, hxl]; omega) hkind
        have hbl : body.length + 5 = readLe two - 3 := by rw [← hxl, hreq, length_requestBody]
        refine ⟨corr, body, rest, by omega, ?_⟩
        rw [hreq] at hrx
        rw [hrx]
        rfl

/-- R181: the frames that are not dropped are the REQUEST frames of at most 512 bytes. -/
theorem yardFrameBad_iff (wire : List Byte) : yardFrameBad wire = false ↔
    ∃ corr body rest, body.length + 8 ≤ 512 ∧ wire = requestWire corr body ++ rest :=
  ⟨exists_requestWire, fun ⟨_, _, rest, h, hw⟩ => hw ▸ yardFrameBad_requestWire h rest⟩

end Sys2Proof.Machine
end

section
/-! PROOFS. The yard frames that reach no block (R181, R182, R193): those that are dropped, and those whose code or body is
not that of a request. -/

namespace Sys2Proof.Machine

/-- The refusal at once of a request frame that names no request: its code, or some code where it has none (log 46). -/
def Part.refusesBody (p q : Part) (corr : U16) (code : Option Byte) (x : Reason) : Prop :=
  (∀ b, code = some b → q = p.respondNow corr b.toNat x false) ∧
    (code = none → ∃ b : Byte, q = ({ p with fresh := p.fresh + 1 } : Part).respondNow corr b.toNat x false)

section
variable {p : Part} {corr : U16} {code : Option Byte} {arguments : List Byte}

theorem namesNone_of_wf (h : (Instr.unknownRequest corr code arguments).wf = true) :
    namesNone (code.toList ++ arguments) = true ∧ (code = none → arguments = []) := by
  have hw : (namesNone (code.toList ++ arguments) && (code.isSome || arguments.isEmpty)) = true := h
  rw [Bool.and_eq_true, Bool.or_eq_true] at hw
  refine ⟨hw.1, fun hc => ?_⟩
  subst hc
  simpa using hw.2

/-- Whether a frame's code is that of STATUS, as `Part.unknownRequest` judges it. -/
theorem isStatus_iff (h : code = none → arguments = []) :
    (code.toList ++ arguments).head?.map (·.toNat) = some Req.status.code ↔ code = some 1 := by
  cases code with
  | none =>
    rw [h rfl]
    simp
  | some b =>
    simp only [Option.toList_some, List.cons_append, List.nil_append, List.head?_cons, Option.map_some,
      Option.some.injEq]
    exact ⟨fun hb => BitVec.eq_of_toNat_eq hb, fun hb => congrArg BitVec.toNat hb⟩

theorem refuseUnknown_refuses (h : code = none → arguments = []) (x : Reason) :
    p.refusesBody (p.refuseUnknown corr (code.toList ++ arguments) x) corr code x := by
  refine ⟨fun b hb => ?_, fun hc => ?_⟩
  · rw [hb]
    rfl
  · rw [hc, h hc]
    exact ⟨_, rfl⟩

variable (hw : namesNone (code.toList ++ arguments) = true)
include hw

theorem unknownRequest_dropped (h : p.phase = .resetting ∨ 16 ≤ p.link.responses.length) :
    p.unknownRequest corr (code.toList ++ arguments) = p.countDrop := by
  unfold Part.unknownRequest
  dsimp only
  rw [if_neg (by simp [hw])]
  rcases h with h | h
  · rw [if_pos h]
  · rw [if_pos h, ite_self]

variable (hq : p.link.responses.length < 16)
include hq

theorem unknownRequest_running (h : p.phase = .running) (hr : p.link.restart = none) :
    p.unknownRequest corr (code.toList ++ arguments) = p.refuseUnknown corr (code.toList ++ arguments) .badValue := by
  simp [Part.unknownRequest, hw, h, hr, Nat.not_le.mpr hq]

variable (hc : code = none → arguments = [])
include hc

theorem unknownRequest_starting (h : p.phase = .startup) (h1 : code ≠ some 1) :
    p.unknownRequest corr (code.toList ++ arguments) = p.refuseUnknown corr (code.toList ++ arguments) .starting := by
  unfold Part.unknownRequest
  rw [decide_eq_false (mt (isStatus_iff hc).mp h1)]
  simp [hw, h, Nat.not_le.mpr hq]

theorem unknownRequest_busy (h : p.phase = .running) (hr : p.link.restart.isSome = true) (h1 : code ≠ some 1) :
    p.unknownRequest corr (code.toList ++ arguments) = p.refuseUnknown corr (code.toList ++ arguments) .busy := by
  unfold Part.unknownRequest
  rw [decide_eq_false (mt (isStatus_iff hc).mp h1)]
  simp [hw, h, hr, Nat.not_le.mpr hq]

theorem unknownRequest_statusCode (h : p.phase ≠ .resetting) (h1 : code = some 1) :
    p.unknownRequest corr (code.toList ++ arguments) = p.refuseUnknown corr (code.toList ++ arguments) .badValue := by
  unfold Part.unknownRequest
  rw [decide_eq_true ((isStatus_iff hc).mpr h1)]
  simp [hw, h, Nat.not_le.mpr hq]

end

theorem yardFrameDrop_bad {s : State} {wire : List Byte} (hs : s.toPart.settingsSettled)
    (h : yardFrameBad wire = true) : endsAs (.yardFrameDrop wire) s s.toPart.countDrop :=
  endsAs_run _ s (fun p => if p.phase = .resetting ∨ yardFrameBad wire = true then p.countDrop else p) _ rfl
    (if_pos (.inr h)) (settled_modLink hs _)

/-- Settles O13: `yardFrameBad_iff` says which frames are dropped, and the rows of `Part.unknownRequest` what becomes of the
others that name no request. -/
theorem badYardFrames : Obligations.BadYardFrames := by
  refine ⟨yardFrameBad_iff, fun s hs => ⟨fun wire _ h => yardFrameDrop_bad hs h, ?_⟩⟩
  intro corr code arguments hwf c answers
  obtain ⟨hw, hc⟩ := namesNone_of_wf hwf
  have ends_of : ∀ {q}, s.toPart.unknownRequest corr (code.toList ++ arguments) = q → q.settingsSettled →
      endsAs c s q := fun hq hset =>
    endsAs_run c s (·.unknownRequest corr (code.toList ++ arguments)) _ rfl hq hset
  have answers_of : ∀ {x}, s.toPart.unknownRequest corr (code.toList ++ arguments) =
      s.toPart.refuseUnknown corr (code.toList ++ arguments) x → answers x := by
    intro x hx
    obtain ⟨hsome, hnone⟩ := refuseUnknown_refuses (p := s.toPart) (corr := corr) hc x
    refine ⟨fun b hb => ends_of (hx.trans (hsome b hb)) (settled_modLink hs _), fun hn => ?_⟩
    obtain ⟨b, hb⟩ := hnone hn
    exact ⟨b, ends_of (hx.trans hb) (settled_of hs rfl rfl rfl)⟩
  refine ⟨fun h => ends_of (unknownRequest_dropped hw h) (settled_modLink hs _), fun h16 => ⟨?_, ?_, ?_, ?_, ?_⟩⟩
  · exact fun h h1 => answers_of (unknownRequest_starting hw h16 hc h h1)
  · exact fun h h1 => answers_of (unknownRequest_statusCode hw h16 hc (by rw [h]; decide) h1)
  · exact fun h hr h1 => answers_of (unknownRequest_busy hw h16 hc h hr h1)
  · exact fun h _ h1 => answers_of (unknownRequest_statusCode hw h16 hc (by rw [h]; decide) h1)
  · exact fun h hr => answers_of (unknownRequest_running hw h16 h hr)

end Sys2Proof.Machine
end

section
/-! PROOFS. Encodings that are read back (11.2, 11.3, R127, R167): slots of the record memory, read marks and class
entries. -/

namespace Sys2Proof.Machine

/-! ## Fields of a run of numbers -/

theorem length_flatMap_leBytes (w : Nat) (xs : List Nat) : (xs.flatMap (leBytes w)).length = w * xs.length := by
  induction xs with
  | nil => rfl
  | cons x xs ih => simp [ih, Nat.mul_add, Nat.add_comm]

/-- The `i`-th number of a run is read at its offset. -/
theorem field_flatMap {pre post : List Byte} {w : Nat} {xs : List Nat} {i : Nat} (hi : i < xs.length)
    (hx : xs[i] < 256 ^ w) :
    field (pre ++ (xs.flatMap (leBytes w) ++ post)) (pre.length + w * i) w = xs[i] := by
  have hsplit : xs.flatMap (leBytes w) =
      (xs.take i).flatMap (leBytes w) ++ (leBytes w xs[i] ++ (xs.drop (i + 1)).flatMap (leBytes w)) := by
    conv_lhs => rw [← List.take_append_drop i xs, List.drop_eq_getElem_cons hi]
    rw [List.flatMap_append, List.flatMap_cons]
  have hbytes : pre ++ (xs.flatMap (leBytes w) ++ post) = (pre ++ (xs.take i).flatMap (leBytes w)) ++
      (leBytes w xs[i] ++ ((xs.drop (i + 1)).flatMap (leBytes w) ++ post)) := by
    rw [hsplit]
    simp
  rw [hbytes]
  refine field_leBytes ?_ hx
  rw [List.length_append, length_flatMap_leBytes, List.length_take, Nat.min_eq_left hi.le]

theorem map_field_flatMap {pre post : List Byte} {w : Nat} {xs : List Nat} (hx : ∀ x ∈ xs, x < 256 ^ w) :
    ((List.range xs.length).map fun i => field (pre ++ (xs.flatMap (leBytes w) ++ post)) (pre.length + w * i) w) = xs := by
  refine List.ext_getElem (by simp) fun i h1 h2 => ?_
  rw [List.getElem_map, List.getElem_range]
  exact field_flatMap h2 (hx _ (List.getElem_mem h2))

theorem readLe_zeros (n : Nat) : readLe (List.replicate n 0) = 0 := by
  induction n with
  | zero => rfl
  | succ n ih =>
    rw [List.replicate_succ, readLe, ih]
    rfl

/-- A field inside a run of zero bytes is 0. -/
theorem field_zeros {pre post : List Byte} {m offset size : Nat} (h1 : pre.length ≤ offset)
    (h2 : offset + size ≤ pre.length + m) : field (pre ++ (List.replicate m 0 ++ post)) offset size = 0 := by
  have hsplit : List.replicate m (0 : Byte) = List.replicate (offset - pre.length) 0 ++
      (List.replicate size 0 ++ List.replicate (m - (offset - pre.length) - size) 0) := by
    rw [List.replicate_append_replicate, List.replicate_append_replicate]
    congr 1
    omega
  have hbytes : pre ++ (List.replicate m 0 ++ post) = (pre ++ List.replicate (offset - pre.length) 0) ++
      (List.replicate size 0 ++ (List.replicate (m - (offset - pre.length) - size) 0 ++ post)) := by
    rw [hsplit]
    simp only [List.append_assoc]
  rw [hbytes, field_append (by simp; omega) List.length_replicate, readLe_zeros]

theorem length_padTo {n : Nat} {bs : List Byte} (h : bs.length ≤ n) : (padTo n bs).length = n := by
  simp [padTo]
  omega

/-! ## Slots of the record memory (R167) -/

section
variable {k : SlotKind} {body : List Byte} (h6 : 6 ≤ k.size) (hb : body.length ≤ k.size - 6)
include h6 hb

theorem length_sealRecord : (sealRecord k body).length = k.size := by
  simp [sealRecord, length_padTo hb]
  omega

theorem slotValid_sealRecord (hk : k.code < 256) : slotValid k (sealRecord k body) = true := by
  set f := leBytes 2 writtenMarker ++ (leBytes 1 k.code ++ (0 :: padTo (k.size - 6) body)) with hf
  have hseal : sealRecord k body = f ++ leBytes 2 (crc16 f) := rfl
  have hlen : f.length = k.size - 2 := by
    simp [hf, length_padTo hb]
    omega
  have hmarker : field (f ++ leBytes 2 (crc16 f)) 0 2 = writtenMarker := by
    have h := field_leBytes (a := []) (offset := 0) (size := 2) (v := writtenMarker)
      (rest := leBytes 1 k.code ++ (0 :: padTo (k.size - 6) body) ++ leBytes 2 (crc16 f)) rfl (by decide)
    simpa [hf] using h
  have hcode : field (f ++ leBytes 2 (crc16 f)) 2 1 = k.code := by
    have h := field_leBytes (a := leBytes 2 writtenMarker) (offset := 2) (size := 1) (v := k.code)
      (rest := 0 :: padTo (k.size - 6) body ++ leBytes 2 (crc16 f)) rfl (by simpa using hk)
    simpa [hf] using h
  have hcrc : field (f ++ leBytes 2 (crc16 f)) (k.size - 2) 2 = crc16 f := by
    have h := field_leBytes (a := f) (rest := []) (size := 2) hlen (crc16_lt f)
    rwa [List.append_nil] at h
  have htake : (f ++ leBytes 2 (crc16 f)).take (k.size - 2) = f := by
    rw [← hlen, List.take_left]
  unfold slotValid
  rw [hseal, hmarker, hcode, hcrc, htake]
  simp

end

/-- The body of a slot is read from offset 4 on. -/
theorem sealRecord_body (k : SlotKind) (body : List Byte) : ∃ rest, sealRecord k body =
    (leBytes 2 writtenMarker ++ (leBytes 1 k.code ++ [0])) ++ (body ++ rest) := by
  refine ⟨List.replicate (k.size - 6 - body.length) 0 ++ leBytes 2 (crc16 (leBytes 2 writtenMarker ++
    (leBytes 1 k.code ++ (0 :: padTo (k.size - 6) body)))), ?_⟩
  simp [sealRecord, padTo]

theorem readMark_markBytes (k : SlotKind) {n : Nat} (h : n < 4294967296) : readMark (markBytes k n) = n := by
  obtain ⟨rest, hrest⟩ := sealRecord_body k (leBytes 4 n)
  unfold readMark markBytes
  rw [hrest]
  exact field_leBytes rfl (by simpa using h)

/-! ## Class entries (R127) -/

theorem classEntry_ranges {c : ClassEntry} (h : c.ok = true) :
    c.id < 256 ∧ c.sizes.length ≤ 8 ∧ (∀ n ∈ c.sizes, n < 256) ∧ c.limits.length = c.sizes.length ∧
      (∀ n ∈ c.limits, n < 65536) ∧ c.gross < 4294967296 := by
  simp only [ClassEntry.ok, Bool.and_eq_true, decide_eq_true_eq, List.all_eq_true] at h
  obtain ⟨⟨⟨⟨⟨hid, hlen⟩, hsizes⟩, hlimits⟩, hvals⟩, hgross⟩ := h
  refine ⟨by omega, hlen.2, fun n hn => ?_, hlimits, fun n hn => ?_, by omega⟩
  · have := hsizes n hn
    omega
  · have := hvals n hn
    omega

/-- The entry's bytes up to its sizes, and behind them. -/
theorem classEntryBytes_sizes (c : ClassEntry) : classEntryBytes (some c) =
    [1, BitVec.ofNat 8 c.id, BitVec.ofNat 8 c.sizes.length, 0] ++
      (c.sizes.flatMap (leBytes 1) ++ (List.replicate (8 - c.sizes.length) 0 ++
        (padTo 16 (c.limits.flatMap (leBytes 2)) ++ leBytes 4 c.gross))) := by
  simp [classEntryBytes, leBytes, padTo]

/-- The entry's bytes up to its limits, and behind them. -/
theorem classEntryBytes_limits (c : ClassEntry) : classEntryBytes (some c) =
    ([1, BitVec.ofNat 8 c.id, BitVec.ofNat 8 c.sizes.length, 0] ++ padTo 8 (c.sizes.flatMap (leBytes 1))) ++
      (c.limits.flatMap (leBytes 2) ++ (List.replicate (16 - c.limits.length * 2) 0 ++ leBytes 4 c.gross)) := by
  simp [classEntryBytes, leBytes, padTo]

section
variable {c : ClassEntry} (h : c.ok = true)
include h

theorem length_classSizes : (padTo 8 (c.sizes.flatMap (leBytes 1))).length = 8 := by
  obtain ⟨-, hlen, -⟩ := classEntry_ranges h
  exact length_padTo (by rw [length_flatMap_leBytes]; omega)

theorem length_classLimits : (padTo 16 (c.limits.flatMap (leBytes 2))).length = 16 := by
  obtain ⟨-, hlen, -, hlimits, -⟩ := classEntry_ranges h
  exact length_padTo (by rw [length_flatMap_leBytes]; omega)

theorem length_classEntryBytes : (classEntryBytes (some c)).length = 32 := by
  simp [classEntryBytes, length_classSizes h, length_classLimits h]

theorem field_classEntry_id : field (classEntryBytes (some c)) 1 1 = c.id := by
  obtain ⟨hid, -⟩ := classEntry_ranges h
  exact field_leBytes (a := [1]) rfl (by simpa using hid)

theorem field_classEntry_count : field (classEntryBytes (some c)) 2 1 = c.sizes.length := by
  obtain ⟨-, hlen, -⟩ := classEntry_ranges h
  exact field_leBytes (a := [1, BitVec.ofNat 8 c.id]) rfl (by omega)

theorem fields_classEntry_sizes :
    ((List.range c.sizes.length).map fun i => field (classEntryBytes (some c)) (4 + i) 1) = c.sizes := by
  obtain ⟨-, -, hsizes, -⟩ := classEntry_ranges h
  rw [classEntryBytes_sizes]
  have hm := map_field_flatMap (pre := [1, BitVec.ofNat 8 c.id, BitVec.ofNat 8 c.sizes.length, 0]) (w := 1)
    (post := List.replicate (8 - c.sizes.length) 0 ++ (padTo 16 (c.limits.flatMap (leBytes 2)) ++ leBytes 4 c.gross))
    (xs := c.sizes) (by simpa using hsizes)
  simpa using hm

theorem fields_classEntry_limits :
    ((List.range c.sizes.length).map fun i => field (classEntryBytes (some c)) (12 + 2 * i) 2) = c.limits := by
  obtain ⟨-, -, -, hlimits, hvals, -⟩ := classEntry_ranges h
  rw [classEntryBytes_limits]
  have hm := map_field_flatMap
    (pre := [1, BitVec.ofNat 8 c.id, BitVec.ofNat 8 c.sizes.length, 0] ++ padTo 8 (c.sizes.flatMap (leBytes 1))) (w := 2)
    (post := List.replicate (16 - c.limits.length * 2) 0 ++ leBytes 4 c.gross) (xs := c.limits) (by simpa using hvals)
  rw [List.length_append, length_classSizes h] at hm
  rw [hlimits] at hm ⊢
  exact hm

theorem field_classEntry_gross : field (classEntryBytes (some c)) 28 4 = c.gross := by
  obtain ⟨-, -, -, -, -, hgross⟩ := classEntry_ranges h
  have hf := field_leBytes (a := [1, BitVec.ofNat 8 c.id, BitVec.ofNat 8 c.sizes.length, 0] ++
    (padTo 8 (c.sizes.flatMap (leBytes 1)) ++ padTo 16 (c.limits.flatMap (leBytes 2)))) (rest := []) (offset := 28)
    (size := 4) (v := c.gross) (by simp [length_classSizes h, length_classLimits h]) (by simpa using hgross)
  rw [← hf]
  simp [classEntryBytes, leBytes]

/-- Beyond the group count the entry holds no size and no limit. -/
theorem fields_classEntry_rest {i : Nat} (h1 : c.sizes.length ≤ i) (h8 : i < 8) :
    field (classEntryBytes (some c)) (4 + i) 1 = 0 ∧ field (classEntryBytes (some c)) (12 + 2 * i) 2 = 0 := by
  obtain ⟨-, -, -, hlimits, -⟩ := classEntry_ranges h
  constructor
  · rw [classEntryBytes_sizes, ← List.append_assoc]
    refine field_zeros ?_ ?_ <;> rw [List.length_append, length_flatMap_leBytes, List.length_cons] <;> simp <;> omega
  · rw [classEntryBytes_limits, ← List.append_assoc]
    refine field_zeros ?_ ?_ <;>
      rw [List.length_append, List.length_append, length_flatMap_leBytes, length_classSizes h] <;> simp <;> omega

theorem parse_classEntryBytes : parseClassEntry (classEntryBytes (some c)) = some (some c) := by
  obtain ⟨-, hlen, -⟩ := classEntry_ranges h
  have hflag : field (classEntryBytes (some c)) 0 1 = 1 := field_leBytes (a := []) rfl (by decide)
  have hrest : ((List.range 8).all fun i => decide (i < c.sizes.length) ||
      (field (classEntryBytes (some c)) (4 + i) 1 == 0 && field (classEntryBytes (some c)) (12 + 2 * i) 2 == 0)) = true := by
    rw [List.all_eq_true]
    intro i hi
    by_cases hlt : i < c.sizes.length
    · simp [hlt]
    · obtain ⟨hs, hl⟩ := fields_classEntry_rest h (Nat.not_lt.mp hlt) (List.mem_range.mp hi)
      simp [hs, hl]
  unfold parseClassEntry
  rw [hflag, field_classEntry_count h, field_classEntry_id h, field_classEntry_gross h]
  dsimp only
  rw [Nat.min_eq_left hlen, fields_classEntry_sizes h, fields_classEntry_limits h, hrest]
  simp [readFlag, hlen, h]

end

/-- Settles O60. -/
theorem encodingsReadBack : Obligations.EncodingsReadBack := by
  refine ⟨fun bs => ⟨unescapeBytes_escapeBytes bs, delimiter_notMem_escapeBytes bs⟩, fun k n hk hn => ?_,
    fun c h => ⟨length_classEntryBytes h, parse_classEntryBytes h⟩, List.length_replicate, by decide⟩
  have hsize : 6 ≤ k.size ∧ (leBytes 4 n).length ≤ k.size - 6 ∧ k.code < 256 := by
    rw [length_leBytes]
    rcases hk with rfl | rfl <;> decide
  obtain ⟨h6, hb, hcode⟩ := hsize
  exact ⟨length_sealRecord h6 hb, slotValid_sealRecord h6 hb hcode, readMark_markBytes k hn⟩

end Sys2Proof.Machine
end

section
/-! PROOFS. Sample frames and tag frames (11.2, R1, R46, R193): those that are not corrupt, and the sample frames that a
deck channel drops. -/

namespace Sys2Proof.Machine

/-! ## The layout of a sample frame -/

/-- The bytes of one cell: its raw count and the code of its status. -/
def sampleCell (c : BitVec 24 × Byte) : List Byte := leBytes 3 c.1.toNat ++ [c.2]

/-- A cell as the receiver reads it. -/
def cellRead (c : BitVec 24 × Byte) : Int × CellStatus := (c.1.toInt, CellStatus.ofCode c.2.toNat)

/-- What stands between the delimiter and the CRC-16 of a sample frame. -/
def sampleBody (node deck seq : Byte) (cells : List (BitVec 24 × Byte)) : List Byte :=
  node :: deck :: seq :: BitVec.ofNat 8 cells.length :: cells.flatMap sampleCell

theorem length_sampleCell (c : BitVec 24 × Byte) : (sampleCell c).length = 4 := rfl

theorem length_flatMap_sampleCell (cells : List (BitVec 24 × Byte)) :
    (cells.flatMap sampleCell).length = 4 * cells.length := by
  induction cells with
  | nil => rfl
  | cons c cells ih =>
    rw [List.flatMap_cons, List.length_append, ih, length_sampleCell, List.length_cons]
    omega

theorem length_sampleBody (node deck seq : Byte) (cells : List (BitVec 24 × Byte)) :
    (sampleBody node deck seq cells).length = 4 + 4 * cells.length := by
  simp only [sampleBody, List.length_cons, length_flatMap_sampleCell]
  omega

theorem ofCode_toNat (b : Byte) : CellStatus.ofCode b.toNat =
    if b = 0 then .good else if b = 1 then .overRange else if b = 2 then .underRange else .opened := by
  have hne : ∀ n : Byte, b ≠ n → b.toNat ≠ n.toNat := fun n h k => h (BitVec.eq_of_toNat_eq k)
  split
  · next h => rw [h]; rfl
  · next h0 =>
    split
    · next h => rw [h]; rfl
    · next h1 =>
      split
      · next h => rw [h]; rfl
      · next h2 =>
        have k0 : b.toNat ≠ 0 := hne 0 h0
        have k1 : b.toNat ≠ 1 := hne 1 h1
        have k2 : b.toNat ≠ 2 := hne 2 h2
        unfold CellStatus.ofCode
        split <;> simp_all

theorem signed_toNat (v : BitVec 24) : signed 3 v.toNat = v.toInt := by
  unfold signed BitVec.toInt
  norm_num

/-- Every cell of a frame is read at its offset. -/
theorem cells_read (pre post : List Byte) (cells : List (BitVec 24 × Byte)) (hpre : pre.length = 5) :
    ((List.range cells.length).map fun i =>
      (fieldInt (pre ++ (cells.flatMap sampleCell ++ post)) (5 + 4 * i) 3,
        CellStatus.ofCode (field (pre ++ (cells.flatMap sampleCell ++ post)) (8 + 4 * i) 1))) = cells.map cellRead := by
  refine List.ext_getElem (by simp) fun i h1 h2 => ?_
  have hi : i < cells.length := by simpa using h1
  have hsplit : cells.flatMap sampleCell = (cells.take i).flatMap sampleCell ++
      (sampleCell cells[i] ++ (cells.drop (i + 1)).flatMap sampleCell) := by
    conv_lhs => rw [← List.take_append_drop i cells, List.drop_eq_getElem_cons hi]
    rw [List.flatMap_append, List.flatMap_cons]
  have hlen : (pre ++ (cells.take i).flatMap sampleCell).length = 5 + 4 * i := by
    rw [List.length_append, length_flatMap_sampleCell, List.length_take, Nat.min_eq_left hi.le, hpre]
  have hbytes : pre ++ (cells.flatMap sampleCell ++ post) = (pre ++ (cells.take i).flatMap sampleCell) ++
      (leBytes 3 cells[i].1.toNat ++ (cells[i].2 :: ((cells.drop (i + 1)).flatMap sampleCell ++ post))) := by
    rw [hsplit]
    simp [sampleCell]
  have hcount : field (pre ++ (cells.flatMap sampleCell ++ post)) (5 + 4 * i) 3 = cells[i].1.toNat := by
    rw [hbytes]
    exact field_leBytes hlen cells[i].1.isLt
  have hstatus : field (pre ++ (cells.flatMap sampleCell ++ post)) (8 + 4 * i) 1 = cells[i].2.toNat := by
    rw [hbytes, ← List.append_assoc]
    refine field_byte ?_
    rw [List.length_append, hlen, length_leBytes]
    omega
  rw [List.getElem_map, List.getElem_map, List.getElem_range, hstatus]
  unfold fieldInt cellRead
  rw [hcount, signed_toNat]

/-- Any bytes of the right number are those of cells. -/
theorem exists_cells (n : Nat) (bs : List Byte) (h : bs.length = 4 * n) :
    ∃ cells : List (BitVec 24 × Byte), cells.length = n ∧ bs = cells.flatMap sampleCell := by
  induction n generalizing bs with
  | zero => exact ⟨[], rfl, List.length_eq_zero_iff.mp h⟩
  | succ n ih =>
    match bs, h with
    | a :: b :: c :: d :: bs, h =>
      obtain ⟨cells, hl, hbs⟩ := ih bs (by simp only [List.length_cons] at h; omega)
      have hcount : leBytes 3 (BitVec.ofNat 24 (readLe [a, b, c])).toNat = [a, b, c] := by
        have hlt : readLe [a, b, c] < 2 ^ 24 := lt_of_lt_of_eq (readLe_lt [a, b, c]) (by norm_num)
        rw [BitVec.toNat_ofNat, Nat.mod_eq_of_lt hlt]
        exact leBytes_readLe [a, b, c]
      refine ⟨(BitVec.ofNat 24 (readLe [a, b, c]), d) :: cells, by rw [List.length_cons, hl], ?_⟩
      rw [List.flatMap_cons, ← hbs]
      unfold sampleCell
      rw [hcount]
      rfl

/-! ## Sample frames that are not corrupt (R1) -/

/-- What a sample frame in the layout of 11.2 is read as. -/
theorem parseSample_sampleWire {node deck seq : Byte} {cells : List (BitVec 24 × Byte)} (h1 : 1 ≤ cells.length)
    (h8 : cells.length ≤ 8) : parseSample (sampleWire node deck seq cells) =
      some ⟨node.toNat, deck.toNat, seq.toNat, cells.map cellRead⟩ := by
  set f := framed (sampleBody node deck seq cells) with hf
  have hframe : unframe (sampleWire node deck seq cells) = some f := unframe_iff.mpr ⟨_, rfl, rfl⟩
  have hbytes : f = [delimiter, node, deck, seq, BitVec.ofNat 8 cells.length] ++ (cells.flatMap sampleCell ++
      leBytes 2 (crc16 (sampleBody node deck seq cells))) := by
    simp [hf, framed, sampleBody]
  have hlen : f.length = 7 + 4 * cells.length := by
    rw [hf, length_framed, length_sampleBody]
    omega
  have hn : field f 4 1 = cells.length := by
    rw [hbytes]
    exact (field_byte (a := [delimiter, node, deck, seq]) rfl).trans
      ((BitVec.toNat_ofNat ..).trans (Nat.mod_eq_of_lt (by omega)))
  have hnode : field f 1 1 = node.toNat := by rw [hbytes]; exact field_byte (a := [delimiter]) rfl
  have hdeck : field f 2 1 = deck.toNat := by rw [hbytes]; exact field_byte (a := [delimiter, node]) rfl
  have hseq : field f 3 1 = seq.toNat := by rw [hbytes]; exact field_byte (a := [delimiter, node, deck]) rfl
  have hcells := cells_read [delimiter, node, deck, seq, BitVec.ofNat 8 cells.length]
    (leBytes 2 (crc16 (sampleBody node deck seq cells))) cells rfl
  rw [← hbytes] at hcells
  unfold parseSample
  rw [hframe]
  simp only [Option.bind_eq_bind, Option.bind_some, hn]
  rw [if_pos ⟨h1, h8, hlen, frameCrcOk_framed _⟩, hnode, hdeck, hseq, hcells]
  rfl

/-- A frame that is not corrupt stands in the layout of 11.2. -/
theorem sampleWire_of_parseSample {wire : List Byte} {f : Sample} (h : parseSample wire = some f) :
    ∃ node deck seq cells, 1 ≤ List.length cells ∧ List.length cells ≤ 8 ∧ wire = sampleWire node deck seq cells := by
  unfold parseSample at h
  cases hu : unframe wire with
  | none => rw [hu] at h; cases h
  | some g =>
    rw [hu] at h
    simp only [Option.bind_eq_bind, Option.bind_some] at h
    split at h
    · next hc =>
      obtain ⟨h1, h8, hlen, hcrc⟩ := hc
      obtain ⟨body, rfl, rfl⟩ := (unframe_crc_iff (by omega)).mp ⟨hu, hcrc⟩
      rw [length_framed] at hlen
      obtain ⟨node, deck, seq, count, b, bs, rfl⟩ := exists_five (bs := body) (by omega)
      have hn : field (framed (node :: deck :: seq :: count :: b :: bs)) 4 1 = count.toNat :=
        field_byte (a := [delimiter, node, deck, seq]) rfl
      rw [hn] at h1 h8 hlen
      simp only [List.length_cons] at hlen
      obtain ⟨cells, hl, hcells⟩ := exists_cells count.toNat (b :: bs) (by rw [List.length_cons]; omega)
      refine ⟨node, deck, seq, cells, by omega, by omega, ?_⟩
      have hcount : BitVec.ofNat 8 cells.length = count := by
        rw [hl, BitVec.ofNat_toNat, BitVec.setWidth_eq]
      show onWire _ = onWire (sampleBody node deck seq cells)
      unfold sampleBody
      rw [hcount, hcells]
    · cases h

theorem parseSample_iff (wire : List Byte) (f : Sample) : parseSample wire = some f ↔
    ∃ node deck seq cells, 1 ≤ List.length cells ∧ cells.length ≤ 8 ∧ wire = sampleWire node deck seq cells ∧
      f = ⟨node.toNat, deck.toNat, seq.toNat, cells.map cellRead⟩ := by
  constructor
  · intro h
    obtain ⟨node, deck, seq, cells, h1, h8, rfl⟩ := sampleWire_of_parseSample h
    rw [parseSample_sampleWire h1 h8] at h
    exact ⟨node, deck, seq, cells, h1, h8, rfl, (Option.some.inj h).symm⟩
  · rintro ⟨node, deck, seq, cells, h1, h8, rfl, rfl⟩
    exact parseSample_sampleWire h1 h8

/-! ## Tag frames (R46) -/

theorem readerEnd_iff (n : Nat) (l : LaneId) (e : LaneEnd) : readerEnd n = some (l, e) ↔ n = readerOf l e := by
  unfold readerEnd
  split
  · cases l <;> cases e <;> simp [readerOf]
  · cases l <;> cases e <;> simp [readerOf]
  · cases l <;> cases e <;> simp [readerOf]
  · cases l <;> cases e <;> simp [readerOf]
  · next h0 h1 h2 h3 =>
    cases l <;> cases e
    · simpa [readerOf] using h0
    · simpa [readerOf] using h1
    · simpa [readerOf] using h2
    · simpa [readerOf] using h3

/-- What stands between the delimiter and the CRC-16 of a tag frame. -/
def tagBody (reader : Byte) (tag : TagId) : List Byte := reader :: leBytes 6 tag.toNat

theorem field_tagBody_reader (reader : Byte) (tag : TagId) : field (framed (tagBody reader tag)) 1 1 = reader.toNat :=
  field_byte (a := [delimiter]) rfl

theorem field_tagBody_tag (reader : Byte) (tag : TagId) : field (framed (tagBody reader tag)) 2 6 = tag.toNat :=
  field_leBytes (a := [delimiter, reader]) rfl tag.isLt

theorem parseTag_tagWire (l : LaneId) (e : LaneEnd) (tag : TagId) :
    parseTag (tagWire (readerOf l e) tag) = some (l, e, tag) := by
  have hframe : unframe (tagWire (readerOf l e) tag) = some (framed (tagBody (BitVec.ofNat 8 (readerOf l e)) tag)) :=
    unframe_iff.mpr ⟨_, rfl, rfl⟩
  have hreader : readerEnd (BitVec.ofNat 8 (readerOf l e)).toNat = some (l, e) := by
    cases l <;> cases e <;> rfl
  have hlen : (framed (tagBody (BitVec.ofNat 8 (readerOf l e)) tag)).length = 10 := by
    rw [length_framed]
    rfl
  unfold parseTag
  rw [hframe]
  simp only [Option.bind_eq_bind, Option.bind_some, field_tagBody_reader, hreader]
  rw [if_pos ⟨hlen, frameCrcOk_framed _⟩, field_tagBody_tag, BitVec.ofNat_toNat, BitVec.setWidth_eq]
  rfl

theorem tagWire_of_parseTag {wire : List Byte} {l : LaneId} {e : LaneEnd} {tag : TagId}
    (h : parseTag wire = some (l, e, tag)) : wire = tagWire (readerOf l e) tag := by
  unfold parseTag at h
  cases hu : unframe wire with
  | none => rw [hu] at h; cases h
  | some g =>
    rw [hu] at h
    simp only [Option.bind_eq_bind, Option.bind_some] at h
    obtain ⟨⟨l', e'⟩, hend, h⟩ := Option.bind_eq_some_iff.mp h
    dsimp only at h
    split at h
    · next hc =>
      obtain ⟨hlen, hcrc⟩ := hc
      obtain ⟨body, rfl, rfl⟩ := (unframe_crc_iff (by omega)).mp ⟨hu, hcrc⟩
      rw [length_framed] at hlen
      cases body with
      | nil => cases hlen
      | cons r bs =>
        have hbs : bs.length = 6 := by simpa using hlen
        have hlt : readLe bs < 2 ^ 48 := lt_of_lt_of_eq (readLe_lt bs) (by rw [hbs]; norm_num)
        have htag : leBytes 6 (BitVec.ofNat 48 (readLe bs)).toNat = bs := by
          rw [BitVec.toNat_ofNat, Nat.mod_eq_of_lt hlt, ← hbs, leBytes_readLe]
        have hbody : r :: bs = tagBody r (BitVec.ofNat 48 (readLe bs)) := by
          unfold tagBody
          rw [htag]
        rw [hbody] at hend h ⊢
        rw [field_tagBody_reader, readerEnd_iff] at hend
        rw [field_tagBody_tag, BitVec.ofNat_toNat, BitVec.setWidth_eq] at h
        obtain ⟨rfl, rfl, rfl⟩ : l' = l ∧ e' = e ∧ _ = tag := by simpa using h
        unfold tagWire tagBody
        rw [← hend, BitVec.ofNat_toNat, BitVec.setWidth_eq]
    · cases h

theorem parseTag_iff (wire : List Byte) (l : LaneId) (e : LaneEnd) (tag : TagId) :
    parseTag wire = some (l, e, tag) ↔ wire = tagWire (readerOf l e) tag :=
  ⟨tagWire_of_parseTag, fun h => h ▸ parseTag_tagWire l e tag⟩

/-! ## Sample frames that a deck channel drops -/

theorem entry_damaged_of_unusable {x : Deck} {c : CalSlot} (hc : x.cal = some c) (h : x.usable = false) :
    c.damaged = true := by
  unfold Deck.usable at h
  rw [hc] at h
  simpa using h

theorem not_accepts {x : Deck} {d : DeckId} {c : CalEntry} {f : Sample}
    (h : f.node ≠ c.node ∨ f.deck ≠ d.val ∨ f.cells.length < c.cells.length ∨ x.lastSeq = some f.seq) :
    x.accepts d c f = false := by
  unfold Deck.accepts
  rw [decide_eq_false_iff_not]
  rintro ⟨hnode, hdeck, hcells, hseq⟩
  rcases h with h | h | h | h
  · exact h hnode
  · exact h hdeck
  · omega
  · exact hseq h

/-- A frame that is not valid for the deck changes nothing (R1, R23). -/
theorem sampleFrame_dropped {p : Part} {d : DeckId} {wire : List Byte}
    (h : p.phase ≠ .running ∨ (p.deck d).usable = false ∨ parseSample wire = none ∨
      ∃ f c, parseSample wire = some f ∧ (p.deck d).cal = some c ∧
        (f.node ≠ c.entry.node ∨ f.deck ≠ d.val ∨ f.cells.length < c.entry.cells.length ∨
          (p.deck d).lastSeq = some f.seq)) : p.sampleFrame d wire = p := by
  unfold Part.sampleFrame
  split
  · next c f hc hf =>
    rw [if_neg]
    rintro ⟨hrun, hdam, hacc⟩
    rcases h with h | h | h | ⟨f', c', hf', hc', h⟩
    · exact h hrun
    · rw [entry_damaged_of_unusable hc h] at hdam
      cases hdam
    · rw [hf] at h
      cases h
    · obtain rfl : f = f' := Option.some.inj (hf.symm.trans hf')
      obtain rfl : c = c' := Option.some.inj (hc.symm.trans hc')
      rw [not_accepts h] at hacc
      cases hacc
  · rfl

/-- Settles O22: `parseSample_iff`, and the rows of R1 in `Part.sampleFrame`. -/
theorem wrongSampleDropped : Obligations.WrongSampleDropped := by
  refine ⟨fun wire f => ?_, fun d wire s hs h => endsAs_run _ s (·.sampleFrame d wire) _ rfl (sampleFrame_dropped h) hs⟩
  rw [parseSample_iff]
  unfold cellRead
  simp only [ofCode_toNat]

/-! ## The monitor selection (R21) -/

theorem deckTarget_none {b : Byte} (h : 5 < b.toNat) : deckTarget b = none := by
  unfold deckTarget DeckId.ofCode
  rw [dif_neg (by omega)]

theorem deckTarget_of {b : Byte} {d : DeckId} (h : d.val = b.toNat) : deckTarget b = some d := by
  have hb : b.toNat < 6 := h ▸ d.isLt
  unfold deckTarget DeckId.ofCode
  rw [dif_pos hb]
  exact congrArg some (Fin.ext h.symm)

theorem monitorSet_badTarget (p : Part) (corr : U16) {deck : Byte} (n : Byte) (h : 5 < deck.toNat) :
    p.monitorSet corr (some (deck, n)) = p.refuse corr .monitorSet .badTarget := by
  simp [Part.monitorSet, deckTarget_none h]

theorem monitorSet_deck (p : Part) (corr : U16) {deck : Byte} {d : DeckId} (h : deckTarget deck = some d) (n : Byte) :
    p.monitorSet corr (some (deck, n)) =
      if n.toNat < 1 ∨ 50 < n.toNat then p.refuse corr .monitorSet .badValue
      else ({ p with monitor := ⟨some (d, n.toNat), 0⟩ } : Part).done corr .monitorSet := by
  simp [Part.monitorSet, h]

/-- Settles O26: the rows of `Part.monitorSet`. -/
theorem monitorSetRows : Obligations.MonitorSetRows := by
  refine ⟨?_, rfl⟩
  intro corr s hs ht p
  have hp : p.settingsSettled := settled_admitted hs _ _ _
  have sets : ∀ {sel q}, p.monitorSet corr sel = q → q.settingsSettled → endsAs (.monitorSet corr sel) s q :=
    fun {sel q} hq hset => request_endsAs _ s corr .monitorSet (·.monitorSet corr sel) q 0 rfl ht hq hset
  refine ⟨sets rfl (settled_of hp rfl rfl rfl), fun deck n => ⟨fun h => ?_, fun h hn => ?_, fun d hd h1 h50 => ?_⟩⟩
  · exact sets (monitorSet_badTarget p corr n h) (settled_refuse hp _ _ _)
  · have hd : deckTarget deck = some ⟨deck.toNat, by omega⟩ := deckTarget_of rfl
    exact sets ((monitorSet_deck p corr hd n).trans (if_pos hn)) (settled_refuse hp _ _ _)
  · exact sets ((monitorSet_deck p corr (deckTarget_of hd) n).trans (if_neg (by omega))) (settled_of hp rfl rfl rfl)

end Sys2Proof.Machine
end

section
/-! PROOFS. Targets that do not exist (R139): the request is refused BAD_TARGET before anything else is judged. -/

namespace Sys2Proof.Machine

/-- A request that is taken and that its owner refuses. -/
theorem request_refused {c : Instr} {s : State} {corr : U16} {r : Req} {owner : Part → Part} {target : Byte} {x : Reason}
    (hc : exec c s = s.run fun p => p.admitRequest corr r owner target) (hs : s.toPart.settingsSettled)
    (ht : s.toPart.takes corr)
    (ho : owner (s.toPart.admitted corr r target) = (s.toPart.admitted corr r target).refuse corr r x) :
    endsAs c s ((s.toPart.admitted corr r target).refuse corr r x) :=
  request_endsAs c s corr r owner _ target hc ht ho (settled_refuse (settled_admitted hs _ _ _) _ _ _)

/-- A CAL_WRITE that is taken brings the level of CAL_EN with it (R154). -/
theorem calWrite_endsAs {s : State} {corr : U16} {deck : Byte} {entry : List Byte} {z : Bool} {q : Part}
    (ht : s.toPart.takes corr)
    (hq : ({ s.toPart.admitted corr .calWrite with calEn := z } : Part).calWrite corr deck entry = q)
    (hs : q.settingsSettled) : endsAs (.calWrite corr deck entry z) s q := by
  refine endsAs_run _ s
    (fun p => ({ p with calEn := z } : Part).admitRequest corr .calWrite (·.calWrite corr deck entry)) q rfl ?_ hs
  have ht' : ({ s.toPart with calEn := z } : Part).takes corr := ht
  rw [← hq]
  exact admitRequest_takes _ corr .calWrite (·.calWrite corr deck entry) ht'

theorem laneTarget_none {b : Byte} (h : 1 < b.toNat) : laneTarget b = none := by
  unfold laneTarget LaneId.ofCode
  split
  · omega
  · omega
  · rfl

theorem indexExists_false {t : TableId} {i : Nat} (h : if t = TableId.classes then 48 ≤ i else 3 ≤ i) :
    indexExists t i = false := by
  cases t with
  | classes => simpa [indexExists] using h
  | settings => simpa [indexExists] using h

/-- Settles O59: every owner looks at the target first. -/
theorem badTargetsRefused : Obligations.BadTargetsRefused := by
  intro corr b index n s hs ht bad
  refine ⟨fun h => ?_, fun code v => ?_, fun h => ?_, fun h => ?_, fun h => ?_, fun code e k => ?_, fun t e h => ?_,
    fun address h => ?_⟩
  · have hl := laneTarget_none h
    exact ⟨request_refused (owner := (·.laneOpen corr b)) rfl hs ht (by simp [Part.laneOpen, hl]),
      request_refused (owner := (·.laneClose corr b)) rfl hs ht (by simp [Part.laneClose, hl]),
      request_refused (owner := (·.release corr b)) rfl hs ht (by simp [Part.release, hl]),
      request_refused (owner := (·.visitAbort corr b)) rfl hs ht (by simp [Part.visitAbort, hl]),
      fun e v => request_refused (owner := (·.admitVehicle corr b e v)) rfl hs ht (by simp [Part.admitVehicle, hl])⟩
  · refine request_refused (owner := (·.admitVehicle corr b (.undefined code) v)) rfl hs ht ?_
    cases hl : laneTarget b with
    | none => simp [Part.admitVehicle, hl]
    | some l => simp [Part.admitVehicle, hl, endTarget]
  · have hd := deckTarget_none h
    refine ⟨fun r => request_refused (owner := (·.auditOpen corr b r)) rfl hs ht (by simp [Part.auditOpen, hd]),
      fun e z => ?_, request_refused (owner := (·.zeroSet corr b)) rfl hs ht (by simp [Part.zeroSet, hd]),
      fun k => request_refused (owner := (·.monitorSet corr (some (b, k)))) rfl hs ht (monitorSet_badTarget _ corr k h)⟩
    exact calWrite_endsAs ht (by simp [Part.calWrite, hd, beforeRequest])
      (settled_of hs rfl rfl rfl)
  · exact request_refused (owner := (·.pendingRead corr b)) rfl hs ht (if_pos h)
  · exact ⟨fun e => request_refused (owner := (·.registerPut corr n e)) rfl hs ht (if_pos h),
      request_refused (owner := (·.registerRemove corr n)) rfl hs ht (if_pos h),
      request_refused (owner := (·.registerGet corr n)) rfl hs ht (if_pos h)⟩
  · exact ⟨request_refused (owner := (·.tableWrite corr (.undefined code) index e)) rfl hs ht rfl,
      request_refused (owner := (·.tableRead corr (.undefined code) index)) rfl hs ht rfl,
      request_refused (owner := (·.tableDiscard corr (.undefined code))) rfl hs ht rfl,
      request_refused (owner := (·.tableCommit corr (.undefined code) k)) rfl hs ht rfl⟩
  · have hi := indexExists_false h
    exact ⟨request_refused (owner := (·.tableWrite corr (.known t) index e)) rfl hs ht
        (by simp [Part.tableWrite, tableTarget, hi]),
      request_refused (owner := (·.tableRead corr (.known t) index)) rfl hs ht
        (by simp [Part.tableRead, tableTarget, hi])⟩
  · exact request_refused (owner := (·.holdRead corr address n)) rfl hs ht (if_pos h)

end Sys2Proof.Machine
end

section
/-! PROOFS. Resets (R175, R180, R189, R192), the restoration of a deck (R178), the trail's rows (R161), and what a good
sample publishes (R9-R13). -/

namespace Sys2Proof.Machine

/-! ## Resets -/

/-- What the start of a reset leaves of a lane (R45, R74, R95). -/
theorem clear_wiped (x : Lane) : x.wiped x.clear := by
  refine ⟨rfl, rfl, rfl, rfl, rfl, rfl, rfl, rfl, ?_, rfl, rfl, rfl, rfl, rfl, fun e => ?_⟩
  · simp [Lane.clear, Lane.afterReset]
  · cases e with
    | a => rfl
    | b => rfl

/-- Outside the running phase every signal is RED (R33). -/
theorem signal_of_not_running {p : Part} (h : p.phase ≠ .running) (l : LaneId) (e : LaneEnd) : p.signal l e = .red := by
  simp [Part.signal, Lane.outputs, h]

theorem deck_clear (p : Part) (phase : Phase) (cause : ResetCause) (clock : Clock) (d : DeckId) :
    (p.clear phase cause clock).deck d = Deck.afterReset := deck_reset d

theorem resetTo_leavesReset (s : State) {phase : Phase} (cause : ResetCause) (clock : Clock) (h : phase ≠ .running) :
    ∃ t, s.resetTo phase cause clock = .next t ∧ leavesReset s t phase cause clock := by
  refine ⟨{ (s.act fun p => p.clear phase cause clock) with mem := s.cutMemory }, ?_, ?_⟩
  · simp only [State.resetTo, State.act, clear_finish _ _ _ _ h]
  · refine ⟨rfl, rfl, rfl, rfl, rfl, rfl, rfl, rfl, rfl, rfl, fun d => deck_clear s.toPart phase cause clock d, rfl,
      fun l => ⟨?_, fun e => signal_of_not_running h l e⟩, rfl, cutMemory_read s⟩
    cases l with
    | l0 => exact clear_wiped s.lanes.l0
    | l1 => exact clear_wiped s.lanes.l1

theorem frameSent_restart {s : State} (h : s.link.sendsRestart = true) :
    exec .frameSent s = s.resetTo .startup .command s.clock.restart := if_pos h

/-- Settles O18: every kind of reset is `State.resetTo`, and the release of the line begins startup. -/
theorem resetsClearEverything : Obligations.ResetsClearEverything := by
  intro s
  refine ⟨resetTo_leavesReset s .power .lost (by decide), resetTo_leavesReset s .line s.clock.restart (by decide),
    fun h => ?_, fun hs h => ?_, fun hs h => ?_⟩
  · rw [frameSent_restart h]
    exact resetTo_leavesReset s .command s.clock.restart (by decide)
  · exact endsAs_run _ s
      (fun p => if p.phase = .resetting then { p with phase := .startup, clock := p.clock.restart } else p) _ rfl
      (if_pos h) (settled_of hs rfl rfl rfl)
  · exact endsAs_run _ s
      (fun p => if p.phase = .resetting then { p with phase := .startup, clock := p.clock.restart } else p) _ rfl
      (if_neg h) hs

/-! ## A deck restored from its image (R178) -/

theorem restore_some (x : Deck) (i : CalImage) (high : Option Nat) :
    let y := x.restore (some i) high
    y.cal = some ⟨i.entry, true, false⟩ ∧ y.zd = some (1000 * i.entry.zcal) ∧ y.marker = none :=
  ⟨rfl, rfl, rfl⟩

theorem restore_image_newer (x : Deck) (i : CalImage) {high : Option Nat} (h : high.getD 0 ≤ i.counter) :
    let y := x.restore (some i) high
    y.counter = i.counter ∧ y.causes = i.persisted.causes ∧
      y.service = if 1 ≤ i.marker.getD 0 then .suspended else i.persisted.state := by
  simp [Deck.restore, Deck.zeroFromCal, Nat.not_lt.mpr h]

theorem restore_image_older (x : Deck) (i : CalImage) {high : Option Nat} (h : i.counter < high.getD 0) :
    let y := x.restore (some i) high
    y.counter = high.getD 0 ∧ y.causes = { i.persisted.causes with imageInvalid := true } ∧
      y.service = if i.marker.isSome then .suspended else .fault := by
  simp [Deck.restore, Deck.zeroFromCal, h, DeckCauses.add]

/-- Settles O20. -/
theorem imageRestoreRows : Obligations.ImageRestoreRows := by
  intro x high
  refine ⟨⟨rfl, rfl, rfl, rfl, rfl⟩, fun i => ?_⟩
  obtain ⟨hcal, hzd, hmarker⟩ := restore_some x i high
  exact ⟨hcal, hzd, hmarker, fun h => restore_image_newer x i h, fun h => restore_image_older x i h⟩

/-! ## A record handed to the trail (R161) -/

/-- Settles O49: the rows of `Trail.hand`. -/
theorem trailHandRows : Obligations.TrailHandRows := by
  intro t r gap
  refine ⟨fun hg hf hl => ?_, fun hg h => ?_, fun hg hf hl => ?_, fun hg h => ?_⟩
  · unfold Trail.hand
    rw [if_pos hg, if_pos ⟨hf, hl⟩]
  · unfold Trail.hand
    rw [if_pos hg, if_neg (by omega)]
  · unfold Trail.hand
    rw [if_neg (by omega), if_pos ⟨hf, by omega⟩]
  · unfold Trail.hand
    rw [if_neg (by omega), if_neg (by omega)]

/-! ## Rounding (00_scope.md, Masses) -/

/-- Half a denominator added and divided: the nearest whole number, halves up. -/
theorem half_up_nearest {n den : Int} (hn : 0 ≤ n) (hd : 0 < den) :
    let r := (2 * n + den) / (2 * den)
    0 ≤ r * den ∧ 2 * |n - r * den| ≤ den ∧ (2 * |n - r * den| = den → n ≤ r * den) := by
  intro r
  have hmod := Int.emod_nonneg (2 * n + den) (b := 2 * den) (by omega)
  have hlt := Int.emod_lt_of_pos (2 * n + den) (b := 2 * den) (by omega)
  have hsplit : 2 * (r * den) + (2 * n + den) % (2 * den) = 2 * n + den := by
    have hq : 2 * den * r + (2 * n + den) % (2 * den) = 2 * n + den := Int.mul_ediv_add_emod (2 * n + den) (2 * den)
    have hassoc : 2 * den * r = 2 * (r * den) := by ring
    rwa [hassoc] at hq
  have hr : 0 ≤ r := Int.ediv_nonneg (by omega) (by omega)
  refine ⟨Int.mul_nonneg hr hd.le, ?_, fun h => ?_⟩
  · rcases abs_cases (n - r * den) with ⟨habs, _⟩ | ⟨habs, _⟩ <;> rw [habs] <;> omega
  · rcases abs_cases (n - r * den) with ⟨habs, _⟩ | ⟨habs, _⟩ <;> rw [habs] at h <;> omega

theorem roundHalfAway_nearest {num den : Int} (hd : 0 < den) :
    let r := roundHalfAway num den
    2 * |num - r * den| ≤ den ∧ (2 * |num - r * den| = den → |num| ≤ |r * den|) := by
  intro r
  by_cases h : 0 ≤ num
  · have hr : r = (2 * num + den) / (2 * den) := if_pos h
    obtain ⟨hpos, hnear, htie⟩ := half_up_nearest h hd
    rw [← hr] at hpos hnear htie
    exact ⟨hnear, fun k => by rw [abs_of_nonneg h, abs_of_nonneg hpos]; exact htie k⟩
  · have hr : r = -((2 * -num + den) / (2 * den)) := if_neg h
    obtain ⟨hpos, hnear, htie⟩ := half_up_nearest (n := -num) (by omega) hd
    have hflip : -num - (2 * -num + den) / (2 * den) * den = -(num - r * den) := by
      rw [hr]
      ring
    have hmul : (2 * -num + den) / (2 * den) * den = -(r * den) := by
      rw [hr]
      ring
    rw [hflip, abs_neg] at hnear htie
    rw [hmul] at hpos htie
    refine ⟨hnear, fun k => ?_⟩
    rw [abs_of_nonpos (by omega), abs_of_nonpos (by omega)]
    exact htie k

/-! ## What a good sample publishes (R9-R13) -/

theorem evaluate_over {x : Deck} {c : CalEntry} {w : Published} (hc : x.cal = some ⟨c, true, false⟩)
    (hb : x.badCells = false) (hw : x.published = some w) (h : c.overload < w.displayed) : x.evaluate = .over := by
  simp [Deck.evaluate, hc, hb, hw, h]

theorem evaluate_within {x : Deck} {c : CalEntry} {w : Published} (hc : x.cal = some ⟨c, true, false⟩)
    (hb : x.badCells = false) (hw : x.published = some w) (h : w.displayed ≤ c.overload) :
    x.evaluate = if x.stability.length = 8 ∧ spread x.stability ≤ (c.motionBand * c.e * 1000 : Nat) then .stable
      else .motion := by
  simp [Deck.evaluate, hc, hb, hw, Int.not_lt.mpr h]

theorem pushWindow_eq (w : List Int) (depth : Nat) (v : Int) :
    pushWindow w depth v = (w ++ [v]).drop (w.length + 1 - depth) := by
  unfold pushWindow
  rw [List.length_append]
  rfl

/-- Settles O21: rounding is `roundHalfAway_nearest`, and the rows of the weight status are those of `Deck.evaluate`. -/
theorem samplePublishes : Obligations.SamplePublishes := by
  refine ⟨fun num den hd => roundHalfAway_nearest hd, ?_⟩
  intro x c raw hc hb y f net
  set z : Deck := { x with
    filter := y.filter, stability := y.stability, published := y.published } with hz
  have hstatus : y.status = z.evaluate := rfl
  have hzc : z.cal = some ⟨c, true, false⟩ := hc
  have hzb : z.badCells = false := hb
  refine ⟨pushWindow_eq _ _ _, pushWindow_eq _ _ _, ⟨_, rfl, rfl, rfl, rfl, ?_, fun h => ?_, fun h hl hsp => ?_,
    fun h hm => ?_⟩, rfl, rfl, rfl, rfl, rfl⟩
  · show expandedGrams c.e net = _
    unfold expandedGrams
    push_cast
    rfl
  · rw [hstatus]
    exact evaluate_over hzc hzb rfl h
  · rw [hstatus, evaluate_within hzc hzb rfl h, if_pos ⟨hl, by push_cast; exact hsp⟩]
  · rw [hstatus, evaluate_within hzc hzb rfl h, if_neg]
    rintro ⟨hl, hsp⟩
    push_cast at hsp
    rcases hm with hm | hm
    · exact hm hl
    · exact absurd hsp (Int.not_le.mpr hm)

end Sys2Proof.Machine
end

section
/-! PROOFS. Every step keeps every parity right (log 16): no operation writes a table entry or a calibration entry with a
parity that fails, so that under right parities every read finds its entry good. One lemma per operation, in the order of
the model. -/

namespace Sys2Proof.Machine

/-! ## Where the parities stand -/

/-- Every parity in the tables is right. -/
def TableStore.parityRight (t : TableStore) : Prop :=
  (∀ s ∈ t.classStaged.toList, s.parityOk = true) ∧ (∀ s ∈ t.classActive.toList, s.parityOk = true) ∧
    t.settingsStaged.parityRight ∧ t.settingsActive.parityRight ∧
    (∀ i, t.settingsPrevious = some i → i.parityRight) ∧ ∀ x ∈ t.register, x.2.parityOk = true

/-- Every parity of a calibration entry is right. -/
def Part.calRight (p : Part) : Prop := ∀ d : DeckId, ∀ c, (p.deck d).cal = some c → c.parityOk = true

theorem parityRight_iff (p : Part) : p.parityRight ↔ p.calRight ∧ p.tables.parityRight := Iff.rfl

/-- Parts with the same decks and the same tables. -/
theorem parityRight_same {p q : Part} (h : p.parityRight) (hd : q.decks = p.decks) (ht : q.tables = p.tables) :
    q.parityRight := by
  rw [parityRight_iff] at h ⊢
  unfold Part.calRight Part.deck at *
  rw [hd, ht]
  exact h

theorem parityRight_ite {a b : Part} (c : Prop) [Decidable c] (ha : a.parityRight) (hb : b.parityRight) :
    (if c then a else b).parityRight := by split <;> assumption

theorem parityRight_foldl {α : Type} (f : Part → α → Part) (hf : ∀ p a, p.parityRight → (f p a).parityRight)
    (xs : List α) : ∀ p : Part, p.parityRight → (xs.foldl f p).parityRight := by
  induction xs with
  | nil => exact fun _ h => h
  | cons x xs ih => exact fun p h => ih (f p x) (hf p x h)

section
variable {q : Part} (h : q.parityRight)
include h

/-! ## The operations that the commands share -/

theorem parityRight_modDeck {d : DeckId} {f : Deck → Deck}
    (hf : ∀ c, (f (q.deck d)).cal = some c → c.parityOk = true) : (q.modDeck d f).parityRight := by
  refine ⟨fun e c hc => ?_, h.2⟩
  rw [deck_modDeck] at hc
  by_cases he : e = d
  · rw [if_pos he] at hc
    exact hf c hc
  · rw [if_neg he] at hc
    exact h.1 e c hc

theorem parityRight_modDeck_same {d : DeckId} {f : Deck → Deck} (hf : ∀ x, (f x).cal = x.cal) :
    (q.modDeck d f).parityRight :=
  parityRight_modDeck h fun c hc => h.1 d c (hf _ ▸ hc)

theorem parityRight_modTables {f : TableStore → TableStore} (hf : (f q.tables).parityRight) :
    (q.modTables f).parityRight := ⟨h.1, hf⟩

theorem parityRight_notify (b : NoticeBody) : (q.notify b).parityRight := h
theorem parityRight_done (corr : U16) (r : Req) (d : RespData) : (q.done corr r d).parityRight := h
theorem parityRight_refuse (corr : U16) (r : Req) (x : Reason) : (q.refuse corr r x).parityRight := h
theorem parityRight_modLane (l : LaneId) (f : Lane → Lane) : (q.modLane l f).parityRight := h

theorem parityRight_handTrail (o : Option DeckId) (b : TrailBody) : (q.handTrail o b).parityRight := by
  unfold Part.handTrail
  exact parityRight_ite _ h h

theorem parityRight_markDirty (i : Nat) : (q.markDirty i).parityRight := by
  unfold Part.markDirty
  exact parityRight_ite _ h h

theorem parityRight_setSlot (i : Nat) (e : Option PendingEntry) : (q.setSlot i e).parityRight :=
  parityRight_markDirty (q := q.modPairing fun x => { x with slots := x.slots.setIfInBounds i e }) h i

theorem parityRight_markImage (d : DeckId) : (q.markImage d).parityRight := by
  unfold Part.markImage
  exact parityRight_ite _ h h

theorem parityRight_judgePersisted (d : DeckId) : (q.judgePersisted d).parityRight := by
  unfold Part.judgePersisted
  refine parityRight_ite _ h (parityRight_markImage ?_ d)
  exact parityRight_modDeck_same h fun _ => rfl

theorem parityRight_enterLaneState (l : LaneId) (st : LaneState) : (q.enterLaneState l st).parityRight := by
  unfold Part.enterLaneState
  exact parityRight_ite _ h h

theorem parityRight_laneClear (l : LaneId) (c : LaneCause) : (q.laneClear l c).parityRight := by
  unfold Part.laneClear
  have k : (q.modLane l fun x => { x with causes := x.causes.put false c }).parityRight := h
  exact parityRight_ite _ (parityRight_ite _ (parityRight_enterLaneState k l _) k) h

theorem parityRight_laneRaiseIdle (l : LaneId) (c : LaneCause) : (q.laneRaiseIdle l c).parityRight := by
  unfold Part.laneRaiseIdle
  have k : (q.modLane l fun x => { x with causes := x.causes.put true c }).parityRight := h
  exact parityRight_ite _ h (parityRight_ite _ (parityRight_enterLaneState k l _) k)

theorem parityRight_clearDeckFault (l : LaneId) : (q.clearDeckFault l).parityRight := by
  unfold Part.clearDeckFault
  exact parityRight_ite _ (parityRight_laneClear h l _) h

/-! ## Tickets and the lists of the pairing unit -/

theorem parityRight_issueTicket (t : Ticket) (g : Option (LaneId × Byte)) : (q.issueTicket t g).parityRight := by
  unfold Part.issueTicket
  exact parityRight_ite _ h h

theorem parityRight_renumber : q.renumber.parityRight := by
  unfold Part.renumber
  exact parityRight_ite _ h (parityRight_foldl _ (fun _ i k => parityRight_markDirty k i) _ _ h)

theorem parityRight_reserve (i : Nat) (v : VehicleId) (r : Option Nat) : (q.reserve i v r).parityRight := by
  unfold Part.reserve
  dsimp only
  refine parityRight_renumber ?_
  exact parityRight_setSlot h i _

theorem parityRight_releasePending (v : Visit) : (q.releasePending v).parityRight := by
  rw [releasePending_rest]
  exact h

theorem parityRight_expireConsignments (n : Nat) : (q.expireConsignments n).parityRight := by
  unfold Part.expireConsignments
  dsimp only
  refine parityRight_foldl _ (fun _ c k => ?_) _ _ h
  exact parityRight_notify k (.consignExpired c.vehicle c.consignment.commodity)

/-! ## Adoption, window restarts and service states -/

theorem parityRight_adopt (l : LaneId) : (q.adopt l).parityRight := by
  unfold Part.adopt
  dsimp only
  have k : (q.modLane l fun x => { x with adoptedActive := true, adoptedValid := true }).parityRight := h
  have k2 := parityRight_laneClear k l .settingsParity
  refine parityRight_notify ?_ _
  generalize (q.modLane l fun x => { x with adoptedActive := true, adoptedValid := true }).laneClear l
    .settingsParity = r at k2 ⊢
  have k3 := parityRight_ite ((r.tables.settingsActive.lanes.get l).damaged = true)
    (parityRight_laneRaiseIdle k2 l .settingsParity) k2
  refine parityRight_ite _ (parityRight_modTables k3 ?_) k3
  obtain ⟨-, hstaged, hactive, hs, ha, -, hr⟩ := k3
  exact ⟨hstaged, hactive, hs, ha, fun _ hi => (nomatch hi), hr⟩

theorem parityRight_completeStep (r : Option Reading) : (q.completeStep r).parityRight := by
  unfold Part.completeStep
  split
  · exact h
  · split
    · refine parityRight_notify (parityRight_handTrail ?_ _ _) _
      exact h
    · exact h

theorem parityRight_windowRestart (d : DeckId) : (q.windowRestart d).parityRight := by
  unfold Part.windowRestart
  have k : (q.modDeck d Deck.restart).parityRight := parityRight_modDeck_same h fun _ => rfl
  exact parityRight_ite _ (parityRight_completeStep k _) k

theorem parityRight_serviceHead (d : DeckId) (n : ServiceState) : (q.serviceHead d n).parityRight := by
  unfold Part.serviceHead
  dsimp only
  have k := parityRight_windowRestart (parityRight_handTrail
    (parityRight_modDeck_same h (d := d) (f := fun x => { x with service := n }) fun _ => rfl) (some d)
      (.service (q.deck d).service n ((q.modDeck d fun x => { x with service := n }).deck d).causes)) d
  exact parityRight_ite _ (parityRight_modDeck_same k fun _ => rfl) k

theorem parityRight_serviceTail (d : DeckId) (o n : ServiceState) : (q.serviceTail d o n).parityRight := by
  unfold Part.serviceTail
  exact parityRight_judgePersisted h d

theorem parityRight_serviceToAudit (d : DeckId) : (q.serviceToAudit d).parityRight := by
  unfold Part.serviceToAudit
  have k := parityRight_serviceHead h d .audit
  exact parityRight_serviceTail (parityRight_ite _ (parityRight_clearDeckFault k _) k) d _ _

theorem parityRight_activate (s : Session) : (q.activate s).parityRight := by
  unfold Part.activate
  refine parityRight_notify (parityRight_markImage ?_ _) _
  refine parityRight_modDeck_same ?_ fun _ => rfl
  refine parityRight_serviceToAudit (parityRight_handTrail (parityRight_enterLaneState ?_ _ _) _ _) _
  exact h

/-! ## The ends of a visit -/

theorem parityRight_settleLaneState (l : LaneId) : (q.settleLaneState l).parityRight := by
  unfold Part.settleLaneState
  exact parityRight_ite _ (parityRight_enterLaneState h l _) h

theorem parityRight_startPendingAudit (l : LaneId) : (q.startPendingAudit l).parityRight := by
  unfold Part.startPendingAudit
  split
  · exact h
  · exact parityRight_ite _ (parityRight_activate h _) h

theorem parityRight_closeStep (l : LaneId) (c : Bool) : (q.closeStep l c).parityRight := by
  unfold Part.closeStep
  split
  · exact h
  · next v _ =>
    dsimp only
    have k1 : ((q.enterExitAxles l v.count (q.lane l).exitAxles).modLane l
      fun x => x.enterExit.emptySlot).parityRight := h
    generalize ((q.enterExitAxles l v.count (q.lane l).exitAxles).modLane l fun x => x.enterExit.emptySlot) = r at k1 ⊢
    have k2 := parityRight_ite (c = true) (parityRight_notify k1
      (.visitClosed l v.count v.kind (v.capture.map (·.gross)) v.abort (q.lane l).exitAxles)) k1
    refine parityRight_startPendingAudit (parityRight_settleLaneState ?_ l) l
    generalize (if c = true then r.notify (.visitClosed l v.count v.kind (v.capture.map (·.gross)) v.abort
      (q.lane l).exitAxles) else r) = t at k2 ⊢
    exact parityRight_ite _ k2 (parityRight_adopt k2 l)

theorem parityRight_abortEffect (l : LaneId) (v : Visit) (r : AbortReason) : (q.abortEffect l v r).parityRight := by
  unfold Part.abortEffect
  refine parityRight_releasePending ?_ v
  exact h

theorem parityRight_endAtOnce (l : LaneId) (r : AbortReason) : (q.endAtOnce l r).parityRight := by
  unfold Part.endAtOnce
  split
  · exact h
  · exact parityRight_closeStep (parityRight_abortEffect h l _ r) l false

theorem parityRight_enterClearing (l : LaneId) : (q.enterClearing l).parityRight := h

theorem parityRight_abortVisit (l : LaneId) (r : AbortReason) : (q.abortVisit l r).parityRight := by
  unfold Part.abortVisit
  split
  · exact h
  · next v _ =>
    have ends := parityRight_endAtOnce h l r
    have clears := parityRight_enterClearing (parityRight_abortEffect h l v r) l
    split <;> assumption

theorem parityRight_visitFault (l : LaneId) : (q.visitFault l).parityRight := by
  unfold Part.visitFault
  exact parityRight_ite _ (parityRight_enterClearing h l) (parityRight_abortVisit h l _)

/-! ## Lane faults and changes of service state -/

theorem parityRight_laneRaise (l : LaneId) (c : LaneCause) : (q.laneRaise l c).parityRight := by
  unfold Part.laneRaise
  have k : (q.modLane l fun x => { x with causes := x.causes.put true c }).parityRight := h
  refine parityRight_ite _ h (parityRight_ite _ k ?_)
  have fault := parityRight_enterLaneState k l .fault
  cases (q.lane l).state with
  | audit => exact k
  | fault => exact k
  | closed => exact fault
  | opened => exact parityRight_visitFault fault l

theorem parityRight_changeService (d : DeckId) (n : ServiceState) : (q.changeService d n).parityRight := by
  unfold Part.changeService
  have k := parityRight_serviceHead h d n
  refine parityRight_ite _ h (parityRight_serviceTail (parityRight_ite _ (parityRight_laneRaise k _ _) ?_) d _ n)
  exact parityRight_ite _ (parityRight_clearDeckFault k _) k

theorem parityRight_raiseCause (d : DeckId) (c : DeckCause) : (q.raiseCause d c).parityRight := by
  unfold Part.raiseCause
  have k : (q.modDeck d fun x => { x with causes := x.causes.add c }).parityRight := parityRight_modDeck_same h fun _ => rfl
  exact parityRight_ite _ h (parityRight_ite _ (parityRight_changeService k d _) (parityRight_judgePersisted k d))

/-! ## Reads under right parities find their entries good -/

theorem readEntry_right (d : DeckId) : q.readEntry d = q := by
  unfold Part.readEntry
  split
  · rfl
  · next c hc => rw [if_pos (by rw [h.1 d c hc, Bool.or_true])]

theorem tradeRead_right (d : DeckId) (n : ServiceState) : q.tradeRead d n = q := by
  unfold Part.tradeRead
  rw [readEntry_right h d, ite_self]

theorem checkLane_right (l : LaneId) : q.checkLane l = q :=
  checkLane_settled q l (.inr (parityRight_lane (adopted_parityRight h l) l))

theorem checkSite_right : q.checkSite = q := checkSite_settled q (settled_of_parityRight h)

theorem parityRight_checkLane (l : LaneId) : (q.checkLane l).parityRight := (checkLane_right h l).symm ▸ h

theorem parityRight_checkSite : q.checkSite.parityRight := (checkSite_right h).symm ▸ h

theorem parityRight_readEntry (d : DeckId) : (q.readEntry d).parityRight := (readEntry_right h d).symm ▸ h

theorem parityRight_tradeRead (d : DeckId) (n : ServiceState) : (q.tradeRead d n).parityRight :=
  (tradeRead_right h d n).symm ▸ h

theorem matchClass_right (permits pattern is : List Nat) : (Part.matchClass permits pattern is q).1 = q := by
  induction is with
  | nil => rfl
  | cons i is ih =>
    unfold Part.matchClass
    split
    · rfl
    · next s hs =>
      have hok : s.parityOk = true := h.2.2.1 s (Vector.mem_toList_iff.mpr (Vector.mem_of_getElem? hs))
      rw [if_neg (c := s.parityOk = false) (by rw [hok]; decide), apply_ite Prod.fst, ih]
      split
      · rfl
      · split
        · exact ih
        · rw [apply_ite Prod.fst, ih, ite_self]

end

/-- Under right parities the search of a register changes nothing. -/
theorem searchRegister_right (hit : RegEntry → Bool) (q : Part) :
    ∀ rs : List (Nat × Slot (Option RegEntry)), (∀ x ∈ rs, x.2.parityOk = true) →
      (Part.searchRegister hit rs q).1 = q := by
  intro rs
  induction rs with
  | nil => exact fun _ => rfl
  | cons x rs ih =>
    intro hr
    obtain ⟨i, s⟩ := x
    have rest := ih fun y hy => hr y (List.mem_cons_of_mem _ hy)
    have hok : s.parityOk = true := hr _ List.mem_cons_self
    unfold Part.searchRegister
    rw [if_neg (c := s.parityOk = false) (by rw [hok]; decide), apply_ite Prod.fst, rest]
    split
    · rfl
    · split
      · exact rest
      · rw [apply_ite Prod.fst, rest, ite_self]

end Sys2Proof.Machine
end

section
/-! PROOFS. The course of a visit, the deck channels, the audit unit and the lanes' lines keep every parity right
(log 16). -/

namespace Sys2Proof.Machine

section
variable {q : Part} (h : q.parityRight)
include h

/-! ## The course of a visit -/

theorem parityRight_consignStep (l : LaneId) (v : Visit) (id : VehicleId) : (q.consignStep l v id).parityRight := by
  unfold Part.consignStep
  split
  · exact h
  · exact h

theorem parityRight_classifyFull (l : LaneId) (id : VehicleId) : (q.classifyFull l id).parityRight := by
  unfold Part.classifyFull
  split
  · exact h
  · exact parityRight_ite _ (parityRight_consignStep h l _ _) (parityRight_endAtOnce h l _)

theorem parityRight_classify (l : LaneId) (v : Visit) (id : VehicleId) : (q.classify l v id).parityRight := by
  unfold Part.classify
  refine parityRight_ite _ (parityRight_endAtOnce h l _) ?_
  split
  · split
    · next i e _ _ g _ => exact parityRight_setSlot h i (some { e with state := .claimed g l })
    · exact parityRight_endAtOnce h l _
  · split
    · next i _ => exact parityRight_consignStep (parityRight_reserve h i id v.regIndex) l _ id
    · rw [checkSite_right h]
      exact parityRight_classifyFull h l id

theorem parityRight_setIdentity (l : LaneId) (x : Identity) : (q.setIdentity l x).parityRight := by
  unfold Part.setIdentity
  split
  · exact h
  · refine parityRight_classify ?_ l _ _
    exact h

theorem parityRight_settleRestart (l : LaneId) : (q.settleRestart l).parityRight := h

theorem parityRight_settleTry (l : LaneId) : (q.settleTry l).parityRight := by
  unfold Part.settleTry
  rw [checkLane_right h]
  exact parityRight_ite _ (parityRight_ite _ h h) h

theorem parityRight_enterSettling (l : LaneId) : (q.enterSettling l).parityRight := by
  unfold Part.enterSettling
  have k : ((q.modLane l fun x => { x with
    visit := x.visit.map fun v => { v with state := .settling }, quietTimer := .stopped }).settleRestart l).parityRight := h
  exact parityRight_ite _ (parityRight_abortVisit k l _) (parityRight_settleTry k l)

theorem parityRight_tryEnterSettling (l : LaneId) : (q.tryEnterSettling l).parityRight := by
  unfold Part.tryEnterSettling
  split
  · exact h
  · exact parityRight_ite _ (parityRight_enterSettling h l) h

theorem parityRight_screenSteps (l : LaneId) (permits : List Nat) (gross : Int) (steps : List Int) :
    (q.screenSteps l permits gross steps).1.parityRight := by
  unfold Part.screenSteps
  dsimp only
  split
  · rw [matchClass_right]
    · exact h
    · exact h
  · exact h

theorem parityRight_formVerdict (l : LaneId) (permits : List Nat) (gross captured : Int) :
    (q.formVerdict l permits gross captured).1.parityRight := by
  unfold Part.formVerdict
  dsimp only
  split
  · exact h
  · split
    · exact parityRight_screenSteps h l permits gross _
    · exact h

theorem parityRight_takeEffect (l : LaneId) (v : Visit) (c : Capture) : (q.takeEffect l v c).parityRight := by
  unfold Part.takeEffect
  dsimp only
  split
  · exact h
  · split
    · exact h
    · split
      · exact h
      · exact parityRight_setSlot h _ _
  · split
    · exact h
    · exact parityRight_issueTicket h _ _
  · split
    · exact h
    · split
      · exact h
      · split
        · exact parityRight_issueTicket (parityRight_setSlot h _ _) _ _
        · exact h

theorem parityRight_enterExiting (l : LaneId) : (q.enterExiting l).parityRight := by
  unfold Part.enterExiting
  split
  · exact h
  · dsimp only
    split
    · exact h
    · refine parityRight_takeEffect ?_ l _ _
      exact h

theorem parityRight_capture (l : LaneId) (v : Visit) : (q.capture l v).parityRight := by
  unfold Part.capture
  dsimp only
  have k := parityRight_formVerdict h l v.permits (q.displayedWeights l).sum (q.rawTotal l)
  generalize q.formVerdict l v.permits (q.displayedWeights l).sum (q.rawTotal l) = r at k ⊢
  split
  · exact k
  · refine parityRight_enterExiting ?_ l
    exact k

theorem parityRight_settleComplete (l : LaneId) : (q.settleComplete l).parityRight := by
  unfold Part.settleComplete
  rw [checkLane_right h]
  dsimp only
  split
  · exact h
  · exact parityRight_ite _ h (parityRight_ite _ (parityRight_abortVisit h l _)
      (parityRight_ite _ h (parityRight_capture h l _)))

theorem parityRight_storeRetry (l : LaneId) : (q.storeRetry l).parityRight := by
  unfold Part.storeRetry
  split
  · exact h
  · exact parityRight_ite _ (parityRight_settleComplete h l) h

theorem parityRight_tryClose (l : LaneId) : (q.tryClose l).parityRight := by
  unfold Part.tryClose
  rw [checkLane_right h]
  exact parityRight_ite _ (parityRight_ite _ (parityRight_closeStep h l true) h) h

theorem parityRight_laneReact (d : DeckId) (good : Bool) (before : WeightStatus) :
    (q.laneReact d good before).parityRight := by
  unfold Part.laneReact
  dsimp only
  split
  · exact parityRight_ite _ (parityRight_abortVisit h _ _) (parityRight_settleTry
      (parityRight_ite _ h (parityRight_settleRestart h _)) _)
  · exact parityRight_ite _ (parityRight_tryClose h _) h
  · exact parityRight_ite _ (parityRight_tryClose h _) h
  · exact h

/-! ## The end of a step -/

theorem parityRight_driveLane (l : LaneId) : (q.driveLane l).parityRight := by
  unfold Part.driveLane
  rw [checkLane_right h, ite_self]
  have k : ((q.driveEnd l .a).driveEnd l .b).parityRight := h
  exact parityRight_ite _ k (parityRight_laneClear k l _)

theorem parityRight_finish : q.finish.parityRight := by
  have k := parityRight_driveLane (parityRight_driveLane h .l0) .l1
  unfold Part.finish Part.kick
  generalize (q.driveLane .l0).driveLane .l1 = r at k ⊢
  have kicked : (if r.phase = .resetting then r else r.modLink Link.kick).parityRight := parityRight_ite _ k k
  exact kicked

/-! ## The deck channels -/

theorem parityRight_relay (d : DeckId) (seq : Nat) (cells : List Int) (raw : Int) :
    (q.relay d seq cells raw).parityRight := by
  unfold Part.relay
  split
  · exact h
  · exact parityRight_ite _ h (parityRight_ite _ h h)

theorem parityRight_trackZero (d : DeckId) (c : CalEntry) : (q.trackZero d c).parityRight := by
  unfold Part.trackZero
  dsimp only
  split
  · refine parityRight_ite _ (parityRight_ite _ ?_ (parityRight_raiseCause h d _)) h
    exact parityRight_modDeck_same h fun _ => rfl
  · exact h

theorem parityRight_measureStep (d : DeckId) (c : CalEntry) : (q.measureStep d c).parityRight := by
  unfold Part.measureStep
  split
  · split
    · exact h
    · exact parityRight_ite _ (parityRight_completeStep h _) h
  · exact h

theorem parityRight_goodSample (d : DeckId) (c : CalEntry) (s : Sample) : (q.goodSample d c s).parityRight := by
  unfold Part.goodSample
  dsimp only
  generalize List.zipWith (fun k x => cellGrams k x.1) c.cells s.cells = cells
  generalize (if (q.deck d).clearance.isRunning = false ∧ ((q.deck d).causes.linkLoss = true ∨
    (q.deck d).causes.cellFault = true) then q.start 2000 else (q.deck d).clearance) = run
  have taken : (q.modDeck d fun x => ({ x with badCells := false, clearance := run }).take c cells.sum).parityRight :=
    parityRight_modDeck_same h fun _ => rfl
  have k := parityRight_relay taken d s.seq cells cells.sum
  exact parityRight_ite _ (parityRight_measureStep (parityRight_trackZero k d c) d c) k

theorem parityRight_badFrame (d : DeckId) : (q.badFrame d).parityRight := by
  unfold Part.badFrame
  have k : (q.modDeck d fun x => { x with
      badCells := true, status := .noData, published := none, clearance := .stopped }).parityRight :=
    parityRight_modDeck_same h fun _ => rfl
  exact parityRight_raiseCause (parityRight_ite _ (parityRight_completeStep k _) k) d _

theorem parityRight_channelFrame (d : DeckId) {c : CalSlot} (hc : c.parityOk = true) (s : Sample) :
    (q.channelFrame d c s).1.parityRight := by
  unfold Part.channelFrame
  rw [if_neg (by rw [hc]; decide)]
  dsimp only
  generalize (s.cells.take c.entry.cells.length).map (·.2) = sts
  have k1 := parityRight_ite (sts ≠ (q.deck d).remembered.take c.entry.cells.length) (parityRight_windowRestart h d) h
  generalize (if sts ≠ (q.deck d).remembered.take c.entry.cells.length then q.windowRestart d else q) = r at k1 ⊢
  have k2 : (r.modDeck d fun x => { x with
      remembered := sts ++ List.replicate (8 - c.entry.cells.length) .good }).parityRight :=
    parityRight_modDeck_same k1 fun _ => rfl
  split
  · exact parityRight_goodSample k2 d c.entry s
  · exact parityRight_badFrame k2 d

theorem parityRight_trackSequence (d : DeckId) (c : CalEntry) (seq : Nat) : (q.trackSequence d c seq).parityRight := by
  unfold Part.trackSequence
  dsimp only
  generalize missing (q.deck d).lastSeq seq = n
  have k1 : (q.modDeck d fun x => { x with gapCount := min 65535 (x.gapCount + n) }).parityRight :=
    parityRight_modDeck_same h fun _ => rfl
  generalize (q.modDeck d fun x => { x with gapCount := min 65535 (x.gapCount + n) }) = r at k1 ⊢
  have ended : ((r.windowRestart d).modDeck d Deck.endRun).parityRight :=
    parityRight_modDeck_same (parityRight_windowRestart k1 d) fun _ => rfl
  have k2 := parityRight_ite (3 < n) ended k1
  generalize (if 3 < n then (r.windowRestart d).modDeck d Deck.endRun else r) = t at k2 ⊢
  exact parityRight_modDeck_same k2 fun _ => rfl

theorem parityRight_sampleFrame (d : DeckId) (wire : List Byte) : (q.sampleFrame d wire).parityRight := by
  unfold Part.sampleFrame
  split
  · next c s hc _ =>
    refine parityRight_ite _ (parityRight_laneReact ?_ d _ _) h
    exact parityRight_channelFrame (parityRight_trackSequence h d c.entry s.seq) d (h.1 d c hc) s
  · exact h

theorem parityRight_sampleTimeout (d : DeckId) : (q.sampleTimeout d).parityRight := by
  unfold Part.sampleTimeout
  refine parityRight_laneReact (parityRight_raiseCause ?_ d _) d _ _
  refine parityRight_modDeck_same (parityRight_windowRestart ?_ d) fun _ => rfl
  exact parityRight_modDeck_same h fun _ => rfl

theorem parityRight_clearAuto (d : DeckId) : (q.clearAuto d).parityRight := by
  unfold Part.clearAuto
  have k : (q.modDeck d fun x => { x with causes := x.causes.needsAudit }).parityRight :=
    parityRight_modDeck_same h fun _ => rfl
  exact parityRight_ite _ (parityRight_ite _ (parityRight_tradeRead (parityRight_changeService k d _) d _) k) h

theorem parityRight_clearanceExpiry (d : DeckId) : (q.clearanceExpiry d).parityRight := by
  unfold Part.clearanceExpiry
  refine parityRight_laneReact ?_ d _ _
  exact parityRight_modDeck_same (parityRight_windowRestart (parityRight_clearAuto h d) d) fun _ => rfl

/-- An expiry finds the parities as they were. -/
theorem parityRight_expire (t : Timer) {f : Part → Part} (hf : ∀ p : Part, p.parityRight → (f p).parityRight) :
    (q.expire t f).parityRight := by
  unfold Part.expire
  split
  · exact hf _ h
  · exact h

end

end Sys2Proof.Machine
end

section
/-! PROOFS. The audit unit's requests, the treadles and the lanes' requests keep every parity right (log 16). -/

namespace Sys2Proof.Machine

section
variable {q : Part} (h : q.parityRight)
include h

/-! ## Audit sessions and steps -/

theorem parityRight_admitRequest (corr : U16) (r : Req) (target : Byte) {f : Part → Part}
    (hf : ∀ p : Part, p.parityRight → (f p).parityRight) : (q.admitRequest corr r f target).parityRight := by
  unfold Part.admitRequest
  refine parityRight_ite _ h (parityRight_ite _ h (parityRight_ite _ h (parityRight_ite _ h (parityRight_ite _ h
    (parityRight_ite _ h (hf _ ?_))))))
  exact h

theorem parityRight_openSession (corr : U16) (s : Session) : (q.openSession corr s).parityRight := by
  unfold Part.openSession
  have k : (q.openPending s).parityRight := h
  exact parityRight_ite _ (parityRight_done k _ _ _) (parityRight_done (parityRight_activate h s) _ _ _)

theorem parityRight_auditOpen (corr : U16) (deck : Byte) (reason : Coded AuditReason) :
    (q.auditOpen corr deck reason).parityRight := by
  unfold Part.auditOpen
  split
  · exact h
  · exact h
  · rw [checkSite_right h]
    exact parityRight_ite _ h (parityRight_ite _ h (parityRight_ite _ h
      (parityRight_openSession (parityRight_ite _ h h) corr _)))

theorem parityRight_auditWaitExpiry : (q.expire q.audit.waitTimer fun p =>
    match p.audit.session with
    | none => p
    | some x => (p.removePending x).notify (.auditLapsed x.deck x.reason)).parityRight := by
  refine parityRight_expire h _ fun p k => ?_
  split
  · exact k
  · exact k

theorem parityRight_takeStep (corr : U16) (s : Session) (kind : StepKind) (reference : Int) (cell : Option Nat) :
    (q.takeStep corr s kind reference cell).parityRight := by
  unfold Part.takeStep
  rw [readEntry_right h, ite_self]
  exact parityRight_ite _ h (parityRight_ite _ h h)

theorem parityRight_auditStep (corr : U16) (kind : Coded StepKind) (reference : U32) (cell : Option Byte) :
    (q.auditStep corr kind reference cell).parityRight := by
  unfold Part.auditStep
  split
  · exact h
  · refine parityRight_ite _ h (parityRight_ite _ h ?_)
    split
    · exact h
    · exact parityRight_takeStep h corr _ _ _ _

/-! ## Calibration writes -/

theorem parityRight_startCalWrite (w : CalWrite) (b : TrailBody) : (q.startCalWrite w b).parityRight :=
  parityRight_handTrail (q := q.modAudit fun a => { a with calWrite := some w }) h _ _

theorem parityRight_acceptCalWrite (corr : U16) (s : Session) (e : CalEntry) :
    (q.acceptCalWrite corr s e).parityRight := by
  unfold Part.acceptCalWrite
  rw [readEntry_right h]
  dsimp only
  split
  · exact parityRight_startCalWrite h _ _
  · refine parityRight_startCalWrite ?_ _ _
    exact h

theorem parityRight_calWrite (corr : U16) (deck : Byte) (entry : List Byte) :
    (q.calWrite corr deck entry).parityRight := by
  unfold Part.calWrite
  split
  · exact h
  · split
    · exact h
    · refine parityRight_ite _ h (parityRight_ite _ h (parityRight_ite _ h ?_))
      split
      · exact h
      · refine parityRight_ite _ h ?_
        split
        · exact h
        · exact parityRight_acceptCalWrite h corr _ _

theorem parityRight_judgeZcal (corr : U16) (d : DeckId) (c : CalEntry) (z : Int) :
    (q.judgeZcal corr d c z).parityRight := by
  unfold Part.judgeZcal
  refine parityRight_ite _ h ?_
  split
  · exact h
  · exact parityRight_startCalWrite h _ _

theorem parityRight_withZero (corr : U16) (d : DeckId) {f : Part → CalEntry → Int → Part}
    (hf : ∀ c z, (f q c z).parityRight) : (q.withZero corr d f).parityRight := by
  unfold Part.withZero
  rw [readEntry_right h]
  dsimp only
  split
  · exact hf _ _
  · exact h

theorem parityRight_auditZeroSet (corr : U16) (d : DeckId) : (q.auditZeroSet corr d).parityRight := by
  unfold Part.auditZeroSet
  split
  · exact h
  · exact parityRight_ite _ h (parityRight_ite _ h (parityRight_ite _ h
      (parityRight_withZero h corr d fun c z => parityRight_judgeZcal h corr d c (newZcal z))))

theorem parityRight_tradeZeroSet (corr : U16) (d : DeckId) : (q.tradeZeroSet corr d).parityRight := by
  unfold Part.tradeZeroSet
  refine parityRight_ite _ h (parityRight_withZero h corr d fun c z => parityRight_ite _ h ?_)
  refine parityRight_done ?_ _ _ _
  exact parityRight_modDeck_same h fun _ => rfl

theorem parityRight_zeroSet (corr : U16) (deck : Byte) : (q.zeroSet corr deck).parityRight := by
  unfold Part.zeroSet
  split
  · exact h
  · split
    · exact parityRight_auditZeroSet h corr _
    · exact parityRight_tradeZeroSet h corr _
    · exact h

theorem parityRight_advanceCalWrite (r : TrailRecord) : (q.advanceCalWrite r).parityRight := by
  unfold Part.advanceCalWrite
  split
  · exact h
  · next w _ =>
    dsimp only
    refine parityRight_ite _ ?_ h
    have k : (q.modDeck w.deck fun x => { x with
        counter := w.newCount, marker := some (((q.audit.session.map (·.writes)).getD 0) + 1) }).parityRight :=
      parityRight_modDeck_same h fun _ => rfl
    exact k

theorem parityRight_takeEntry (d : DeckId) (e : CalEntry) : (q.takeEntry d e).parityRight := by
  unfold Part.takeEntry
  refine parityRight_windowRestart (parityRight_modDeck h fun c hc => ?_) d
  cases hu : (q.deck d).usable with
  | true =>
    rw [hu] at hc
    cases hc
    rfl
  | false =>
    rw [hu] at hc
    cases hc
    rfl

/-- A new Zcal keeps the parity of its entry. -/
theorem parityRight_takeZcal (d : DeckId) (z : Int) : (q.modDeck d fun x => x.takeZcal z).parityRight := by
  refine parityRight_modDeck h fun c hc => ?_
  obtain ⟨b, hb, rfl⟩ := Option.map_eq_some_iff.mp hc
  exact h.1 d b hb

theorem parityRight_completeCalWrite (crc : Nat) : (q.completeCalWrite crc).parityRight := by
  unfold Part.completeCalWrite
  split
  · exact h
  · next w _ =>
    cases w.change with
    | entry e => exact parityRight_takeEntry h w.deck e
    | zero z =>
      dsimp only
      rw [readEntry_right h]
      exact parityRight_takeZcal h w.deck z

theorem parityRight_failCalWrite : q.failCalWrite.parityRight := by
  unfold Part.failCalWrite
  split
  · exact h
  · dsimp only
    split
    · exact h
    · refine parityRight_raiseCause ?_ _ _
      exact h

/-! ## The ends of a session -/

theorem parityRight_leaveAudit (l : LaneId) (st : LaneState) : (q.leaveAudit l st).parityRight := by
  unfold Part.leaveAudit
  dsimp only
  exact parityRight_ite _ (parityRight_enterLaneState h l _)
    (parityRight_ite _ (parityRight_enterLaneState h l _) (parityRight_enterLaneState h l _))

theorem parityRight_endSession (s : Session) (o : AtOpen) (v : AuditVerdict) (aborted : Bool) :
    (q.endSession s o v aborted).parityRight := by
  unfold Part.endSession
  dsimp only
  generalize (if v = .pass then (q.deck s.deck).causes.autoOnly else (q.deck s.deck).causes) = causes
  refine parityRight_tradeRead (parityRight_notify (parityRight_leaveAudit ?_ _ _) _) _ _
  have opened : ((q.handTrail (some s.deck) (.auditClose v aborted s.steps.length
      (countedSteps s.firstCounted s.steps).length s.writes o.count (q.deck s.deck).counter
      (stateAfterSession v s.writes o.deck causes))).modDeck s.deck fun x => { x with causes := causes }).parityRight :=
    parityRight_modDeck_same (parityRight_handTrail h _ _) fun _ => rfl
  have changed := parityRight_changeService opened s.deck (stateAfterSession v s.writes o.deck causes)
  generalize Part.changeService _ s.deck (stateAfterSession v s.writes o.deck causes) = r at changed ⊢
  have unmarked : (r.modDeck s.deck fun x => { x with marker := none }).parityRight :=
    parityRight_modDeck_same changed fun _ => rfl
  exact parityRight_markImage unmarked s.deck

theorem parityRight_auditClose (corr : U16) : (q.auditClose corr).parityRight := by
  unfold Part.auditClose
  split
  · exact h
  · split
    · exact h
    · rw [readEntry_right h]
      exact parityRight_ite _ h (parityRight_done (parityRight_endSession h _ _ _ _) _ _ _)

theorem parityRight_auditAbort (corr : U16) : (q.auditAbort corr).parityRight := by
  unfold Part.auditAbort
  split
  · exact h
  · refine parityRight_ite _ h ?_
    split
    · exact h
    · refine parityRight_done (parityRight_endSession ?_ _ _ _ _) _ _ _
      exact h

theorem parityRight_monitorSet (corr : U16) (selection : Option (Byte × Byte)) :
    (q.monitorSet corr selection).parityRight := by
  unfold Part.monitorSet
  split
  · exact h
  · split
    · exact h
    · exact parityRight_ite _ h h

/-! ## Treadles and axle screens -/

theorem parityRight_markInvalid (l : LaneId) : (q.markInvalid l).parityRight := by
  unfold Part.markInvalid
  split
  · exact h
  · exact parityRight_ite _ h h

theorem parityRight_entryPass (l : LaneId) : (q.entryPass l).parityRight := by
  unfold Part.entryPass
  exact parityRight_ite _ h h

theorem parityRight_disposeEntry (l : LaneId) (st : VisitState) (ev : Decoded) :
    (q.disposeEntry l st ev).parityRight := by
  unfold Part.disposeEntry
  split
  · refine parityRight_entryPass ?_ l
    exact h
  · have k : (q.setLane l (q.lane l).reverse.1).parityRight := h
    exact parityRight_ite _ (parityRight_abortVisit k l _) (parityRight_entryPass k l)
  · exact parityRight_ite _ (parityRight_markInvalid h l) (parityRight_markInvalid h l)

theorem parityRight_dispose (l : LaneId) (e : LaneEnd) (ev : Decoded) : (q.dispose l e ev).parityRight := by
  unfold Part.dispose
  split
  · exact h
  · next v _ =>
    refine parityRight_ite _ ?_ (parityRight_ite _ ?_ (parityRight_ite _ h h))
    · split
      · exact parityRight_ite _ (parityRight_markInvalid h l) h
      · exact parityRight_ite _ (parityRight_markInvalid h l) h
      · exact parityRight_disposeEntry h l _ ev
      · exact parityRight_disposeEntry h l _ ev
      · exact h
    · have k : (q.setVisit l { v with exitOverrun := true }).parityRight := h
      exact parityRight_ite _ (parityRight_markInvalid k l) k

theorem parityRight_decodeEdge (l : LaneId) (e : LaneEnd) (line : Treadle) (stamp : Nat) :
    (q.decodeEdge l e line stamp).parityRight := by
  unfold Part.decodeEdge
  rw [checkLane_right h]
  dsimp only
  rw [ite_self]
  split
  · exact h
  · refine parityRight_dispose ?_ l e _
    exact h

theorem parityRight_takeLatch (l : LaneId) (e : LaneEnd) (line : Treadle) : (q.takeLatch l e line).parityRight := by
  unfold Part.takeLatch
  split
  · exact h
  · refine parityRight_decodeEdge ?_ l e line _
    exact h

theorem parityRight_latchEdge (l : LaneId) (e : LaneEnd) (line : Treadle) : (q.latchEdge l e line).parityRight := by
  unfold Part.latchEdge
  split
  · exact h
  · exact parityRight_markInvalid h l

theorem parityRight_windowExpiry (l : LaneId) (e : LaneEnd) : (q.windowExpiry l e).parityRight := by
  unfold Part.windowExpiry
  split
  · exact h
  · next expiry _ =>
    have k : (q.reach expiry).parityRight := h
    dsimp only
    rw [checkLane_right k, ite_self]
    refine parityRight_dispose ?_ l e _
    exact h

/-! ## The other lane lines -/

theorem parityRight_beamChange (l : LaneId) (e : LaneEnd) (blocked : Bool) : (q.beamChange l e blocked).parityRight := by
  unfold Part.beamChange
  have k : (q.modEnd l e fun y => { y with beamRaw := blocked }).parityRight := h
  refine parityRight_ite _ h (parityRight_ite _ k (parityRight_ite _ k ?_))
  exact parityRight_checkLane k l

theorem parityRight_beamEvent (l : LaneId) (e : LaneEnd) (blocked : Bool) : (q.beamEvent l e blocked).parityRight := by
  unfold Part.beamEvent
  split
  · exact h
  · split
    · exact parityRight_ite _ (parityRight_tryEnterSettling h l) h
    · exact parityRight_settleTry (parityRight_settleRestart h l) l
    · exact h
    · exact h
    · exact h

theorem parityRight_switchChange (l : LaneId) (e : LaneEnd) (up down : Bool) :
    (q.switchChange l e up down).parityRight := by
  unfold Part.switchChange
  refine parityRight_ite _ h (parityRight_ite _ h (parityRight_ite _ ?_ h))
  refine parityRight_checkLane (q := Part.modEnd _ _ _ _) ?_ l
  exact h

theorem parityRight_stopEdge (l : LaneId) (active : Bool) : (q.stopEdge l active).parityRight := by
  unfold Part.stopEdge
  refine parityRight_ite _ h (parityRight_ite _ (parityRight_laneRaise ?_ l _) h)
  exact h

/-! ## The lanes' requests -/

theorem parityRight_laneOpen (corr : U16) (lane : Byte) : (q.laneOpen corr lane).parityRight := by
  unfold Part.laneOpen
  split
  · exact h
  · exact parityRight_ite _ h (parityRight_ite _ h (parityRight_ite _ h (parityRight_ite _ h
      (parityRight_enterLaneState h _ _))))

theorem parityRight_clearStop (l : LaneId) : (q.clearStop l).parityRight := by
  unfold Part.clearStop
  refine parityRight_ite _ (parityRight_laneClear ?_ l _) h
  exact h

theorem parityRight_laneClose (corr : U16) (lane : Byte) : (q.laneClose corr lane).parityRight := by
  unfold Part.laneClose
  split
  · exact h
  · next l _ =>
    have k := parityRight_clearStop h l
    dsimp only
    refine parityRight_done ?_ _ _ _
    split
    · exact k
    · exact k
    · exact parityRight_ite _ (parityRight_enterLaneState k l _) k
    · exact k

theorem searchRegister_register (hit : RegEntry → Bool) : (Part.searchRegister hit q.tables.register q).1 = q :=
  searchRegister_right hit q _ h.2.2.2.2.2.2

theorem parityRight_identifyByName (l : LaneId) (v : VehicleId) : (q.identifyByName l v).parityRight := by
  unfold Part.identifyByName
  dsimp only
  rw [searchRegister_register h]
  split
  · exact parityRight_setIdentity h l _
  · exact parityRight_setIdentity h l _

theorem parityRight_admitVisit (corr : U16) (l : LaneId) (e : LaneEnd) (v : VehicleId) :
    (q.admitVisit corr l e v).parityRight := by
  unfold Part.admitVisit
  have k : (q.startVisit l e (.inr v)).parityRight := h
  exact parityRight_ite _ (parityRight_identifyByName h l v) (parityRight_ite _ (parityRight_identifyByName k l v) h)

theorem parityRight_admitVehicle (corr : U16) (lane : Byte) (atEnd : Coded LaneEnd) (vehicle : List Byte) :
    (q.admitVehicle corr lane atEnd vehicle).parityRight := by
  unfold Part.admitVehicle
  split
  · split
    · exact h
    · rw [checkLane_right h, ite_self]
      exact parityRight_admitVisit h corr _ _ _
  · exact h

theorem parityRight_release (corr : U16) (lane : Byte) : (q.release corr lane).parityRight := by
  unfold Part.release
  split
  · exact h
  · split
    · exact h
    · refine parityRight_ite _ h (parityRight_ite _ h (parityRight_done (parityRight_enterExiting ?_ _) _ _ _))
      exact h

theorem parityRight_visitAbort (corr : U16) (lane : Byte) : (q.visitAbort corr lane).parityRight := by
  unfold Part.visitAbort
  split
  · exact h
  · split
    · exact h
    · exact h
    · exact h
    · exact parityRight_abortVisit h _ _

theorem parityRight_listConsignment (corr : U16) (v : VehicleId) (c : Consignment) :
    (q.listConsignment corr v c).parityRight := by
  unfold Part.listConsignment
  exact parityRight_ite _ h (parityRight_ite _ h (parityRight_ite _ h h))

theorem parityRight_consign (corr : U16) (vehicle : List Byte) (c : Consignment) :
    (q.consign corr vehicle c).parityRight := by
  unfold Part.consign
  split
  · exact h
  · next v _ =>
    refine parityRight_ite _ h (parityRight_ite _ h ?_)
    cases hw : q.waitingLane v with
    | none =>
      dsimp only
      rw [hw]
      exact parityRight_listConsignment h corr v c
    | some l =>
      dsimp only
      rw [checkLane_right h, hw]
      dsimp only
      split
      · exact h
      · exact h

theorem parityRight_cancelPending (corr : U16) (vehicle : List Byte) : (q.cancelPending corr vehicle).parityRight := by
  unfold Part.cancelPending
  split
  · exact h
  · split
    · exact h
    · split
      · exact parityRight_ite _ h (parityRight_ite _ h
          (parityRight_done (parityRight_issueTicket (parityRight_setSlot h _ _) _ _) _ _ _))
      · exact h

theorem parityRight_pendingRead (corr : U16) (index : Byte) : (q.pendingRead corr index).parityRight := by
  unfold Part.pendingRead
  exact parityRight_ite _ h h

end

end Sys2Proof.Machine
end

section
/-! PROOFS. The table store, the record memory, startup and the yard link keep every parity right, and so does every step
(log 16). -/

namespace Sys2Proof.Machine

/-! ## Images of slots whose parities are right -/

theorem slots_set_right {α : Type} {n : Nat} {xs : Vector (Slot α) n} {i : Nat} {y : Slot α}
    (h : ∀ s ∈ xs.toList, s.parityOk = true) (hy : y.parityOk = true) :
    ∀ s ∈ (xs.setIfInBounds i y).toList, s.parityOk = true := by
  intro s hs
  rw [Vector.toList_setIfInBounds] at hs
  rcases List.mem_or_eq_of_mem_set hs with hmem | rfl
  · exact h s hmem
  · exact hy

theorem slots_map_right {α β : Type} {n : Nat} {xs : Vector α n} {f : α → Slot β} (hf : ∀ a, (f a).parityOk = true) :
    ∀ s ∈ (xs.map f).toList, s.parityOk = true := by
  intro s hs
  rw [Vector.toList_map] at hs
  obtain ⟨a, -, rfl⟩ := List.mem_map.mp hs
  exact hf a

theorem slots_ofFn_right {α : Type} {n : Nat} {f : Fin n → Slot α} (hf : ∀ i, (f i).parityOk = true) :
    ∀ s ∈ (Vector.ofFn f).toList, s.parityOk = true := by
  intro s hs
  rw [Vector.toList_ofFn] at hs
  obtain ⟨i, rfl⟩ := List.mem_ofFn.mp hs
  exact hf i

/-- The parities of a settings image with one lane entry of right parity in place of another. -/
theorem setLane_parityRight {i : SettingsImage} (h : i.parityRight) (l : LaneId) {s : Slot LaneEntry}
    (hs : s.parityOk = true) : ({ i with lanes := i.lanes.set l s } : SettingsImage).parityRight := by
  obtain ⟨h0, h1, hsite⟩ := h
  cases l with
  | l0 => exact ⟨hs, h1, hsite⟩
  | l1 => exact ⟨h0, hs, hsite⟩

theorem mem_writeRegister {r : List (Nat × Slot (Option RegEntry))} (h : ∀ x ∈ r, x.2.parityOk = true) (i : Nat)
    (e : Option RegEntry) : ∀ x ∈ writeRegister r i e, x.2.parityOk = true := by
  intro x hx
  unfold writeRegister at hx
  rcases List.mem_append.mp hx with hx | hx
  · rcases List.mem_append.mp hx with hx | hx
    · exact h x (List.mem_of_mem_filter hx)
    · split at hx
      · obtain rfl := List.mem_singleton.mp hx
        rfl
      · cases hx
  · exact h x (List.mem_of_mem_filter hx)

section
variable {q : Part} (h : q.parityRight)
include h

/-! ## Reads with their parity check -/

theorem parityRight_noteParity {α : Type} (s : Slot α) (what : ParityAt) : (q.noteParity s what).parityRight := by
  unfold Part.noteParity
  exact parityRight_ite _ h h

theorem parityRight_readStagedClass (i : Nat) : (q.readStagedClass i).parityRight := by
  unfold Part.readStagedClass
  split
  · exact h
  · next s hs =>
    obtain ⟨hstaged, hrest⟩ := h.2
    have hok : s.parityOk = true := hstaged s (Vector.mem_toList_iff.mpr (Vector.mem_of_getElem? hs))
    exact parityRight_noteParity (parityRight_modTables h ⟨slots_set_right (y := s.checked) hstaged hok, hrest⟩) _ _

theorem parityRight_readOtherClasses (i : Nat) : (q.readOtherClasses i).parityRight :=
  parityRight_foldl _ (fun _ j k => parityRight_readStagedClass k j) _ _ h

theorem parityRight_readActiveClass (i : Nat) : (q.readActiveClass i).parityRight := by
  unfold Part.readActiveClass
  split
  · exact h
  · next s hs =>
    obtain ⟨hstaged, hactive, hrest⟩ := h.2
    have hok : s.parityOk = true := hactive s (Vector.mem_toList_iff.mpr (Vector.mem_of_getElem? hs))
    exact parityRight_noteParity (parityRight_modTables h ⟨hstaged, slots_set_right (y := s.checked) hactive hok, hrest⟩) _ _

theorem parityRight_readStagedLane (l : LaneId) : (q.readStagedLane l).parityRight := by
  unfold Part.readStagedLane
  obtain ⟨hstaged, hactive, hs, hrest⟩ := h.2
  exact parityRight_noteParity (parityRight_modTables h
    ⟨hstaged, hactive, setLane_parityRight (s := (q.tables.settingsStaged.lanes.get l).checked) hs l (parityRight_lane hs l), hrest⟩) _ _

theorem parityRight_readStagedSite : q.readStagedSite.parityRight := by
  unfold Part.readStagedSite
  obtain ⟨hstaged, hactive, ⟨h0, h1, hsite⟩, hrest⟩ := h.2
  exact parityRight_noteParity (parityRight_modTables h ⟨hstaged, hactive, ⟨h0, h1, hsite⟩, hrest⟩) _ _

theorem parityRight_readActiveLane (l : LaneId) : (q.readActiveLane l).parityRight := by
  unfold Part.readActiveLane
  obtain ⟨hstaged, hactive, hs, ha, hrest⟩ := h.2
  have k := parityRight_noteParity (parityRight_modTables h (f := fun t => { t with
      settingsActive := { t.settingsActive with
        lanes := t.settingsActive.lanes.set l (q.tables.settingsActive.lanes.get l).checked } })
    ⟨hstaged, hactive, hs, setLane_parityRight (s := (q.tables.settingsActive.lanes.get l).checked) ha l (parityRight_lane ha l), hrest⟩)
    (q.tables.settingsActive.lanes.get l) (.settingsEntry .active l.toNat)
  exact parityRight_ite _ (parityRight_laneRaise k l _) k

theorem parityRight_readActiveSite : q.readActiveSite.parityRight := by
  unfold Part.readActiveSite
  obtain ⟨hstaged, hactive, hs, ⟨h0, h1, hsite⟩, hrest⟩ := h.2
  have k := parityRight_noteParity (parityRight_modTables h (f := fun t => { t with
      settingsActive := { t.settingsActive with site := q.tables.settingsActive.site.checked } })
    ⟨hstaged, hactive, hs, ⟨h0, h1, hsite⟩, hrest⟩) q.tables.settingsActive.site (.settingsEntry .active 2)
  exact parityRight_ite _ (parityRight_laneRaise (parityRight_laneRaise k _ _) _ _) k

theorem parityRight_readStaged (t : TableId) : (q.readStaged t).parityRight := by
  cases t with
  | classes => exact parityRight_foldl _ (fun _ j k => parityRight_readStagedClass k j) _ _ h
  | settings =>
    exact parityRight_readStagedSite (parityRight_readStagedLane (parityRight_readStagedLane h .l0) .l1)

theorem parityRight_readRegister (i : Nat) : (q.readRegister i).parityRight := by
  unfold Part.readRegister
  obtain ⟨hstaged, hactive, hs, ha, hp, hr⟩ := h.2
  refine parityRight_noteParity (parityRight_modTables h ⟨hstaged, hactive, hs, ha, hp, fun x hx => ?_⟩) _ _
  obtain ⟨y, hy, rfl⟩ := List.mem_map.mp hx
  split
  · exact hr y hy
  · exact hr y hy

theorem parityRight_readOtherSlots (i : Nat) : (q.readOtherSlots i).parityRight := by
  unfold Part.readOtherSlots
  have noted := parityRight_foldl (fun (p : Part) (x : Nat × Slot (Option RegEntry)) =>
    p.noteParity x.2 (.registerSlot x.1)) (fun _ _ k => parityRight_noteParity k _ _)
    (q.tables.register.filter fun x => decide (x.1 ≠ i)) q h
  obtain ⟨hstaged, hactive, hs, ha, hp, hr⟩ := noted.2
  refine parityRight_modTables noted ⟨hstaged, hactive, hs, ha, hp, fun x hx => ?_⟩
  obtain ⟨y, hy, rfl⟩ := List.mem_map.mp hx
  split
  · exact hr y hy
  · exact hr y hy

/-! ## The table store's requests -/

theorem parityRight_putClass (corr : U16) (i : Nat) (c : Option ClassEntry) : (q.putClass corr i c).parityRight := by
  obtain ⟨hstaged, hrest⟩ := h.2
  exact parityRight_done (parityRight_modTables h ⟨slots_set_right hstaged rfl, hrest⟩) _ _ _

theorem parityRight_writeClass (corr : U16) (i : Nat) (entry : List Byte) : (q.writeClass corr i entry).parityRight := by
  unfold Part.writeClass
  split
  · exact h
  · exact parityRight_putClass h corr i none
  · have k := parityRight_readOtherClasses h i
    exact parityRight_ite _ k (parityRight_putClass k corr i _)

theorem parityRight_writeSettings (corr : U16) (i : Nat) (entry : List Byte) :
    (q.writeSettings corr i entry).parityRight := by
  unfold Part.writeSettings
  obtain ⟨hstaged, hactive, hs, hrest⟩ := h.2
  split
  · split
    · exact h
    · exact parityRight_done (parityRight_modTables h ⟨hstaged, hactive, setLane_parityRight hs _ rfl, hrest⟩) _ _ _
  · split
    · exact h
    · obtain ⟨h0, h1, -⟩ := hs
      exact parityRight_done (parityRight_modTables h ⟨hstaged, hactive, ⟨h0, h1, rfl⟩, hrest⟩) _ _ _

theorem parityRight_tableWrite (corr : U16) (table : Coded TableId) (index : Byte) (entry : List Byte) :
    (q.tableWrite corr table index entry).parityRight := by
  unfold Part.tableWrite
  split
  · exact h
  · refine parityRight_ite _ h (parityRight_ite _ h ?_)
    split
    · exact parityRight_writeClass h corr _ entry
    · exact parityRight_writeSettings h corr _ entry

theorem parityRight_tableRead (corr : U16) (table : Coded TableId) (index : Byte) :
    (q.tableRead corr table index).parityRight := by
  unfold Part.tableRead
  dsimp only
  split
  · exact h
  · refine parityRight_ite _ h ?_
    split
    · split
      · exact h
      · exact parityRight_readStagedClass h _
    · exact parityRight_readStagedLane h _
    · exact parityRight_readStagedSite h

theorem parityRight_discardClasses (corr : U16) : (q.discardClasses corr).parityRight := by
  unfold Part.discardClasses
  have k := parityRight_foldl _ (fun _ j k => parityRight_readActiveClass k j) (List.range 48) q h
  generalize (List.range 48).foldl Part.readActiveClass q = r at k ⊢
  obtain ⟨-, hrest⟩ := k.2
  refine parityRight_done (parityRight_modTables k ⟨slots_map_right fun _ => ?_, hrest⟩) _ _ _
  rfl

theorem parityRight_discardSettings (corr : U16) : (q.discardSettings corr).parityRight := by
  unfold Part.discardSettings
  have k := parityRight_readActiveSite (parityRight_readActiveLane (parityRight_readActiveLane h .l0) .l1)
  obtain ⟨hstaged, hactive, -, hrest⟩ := k.2
  exact parityRight_done (parityRight_modTables k ⟨hstaged, hactive, ⟨rfl, rfl, rfl⟩, hrest⟩) _ _ _

theorem parityRight_tableDiscard (corr : U16) (table : Coded TableId) : (q.tableDiscard corr table).parityRight := by
  unfold Part.tableDiscard
  split
  · exact h
  · refine parityRight_ite _ h ?_
    split
    · exact parityRight_discardClasses h corr
    · exact parityRight_discardSettings h corr

theorem parityRight_tableCommit (corr : U16) (table : Coded TableId) (crc : U32) :
    (q.tableCommit corr table crc).parityRight := by
  unfold Part.tableCommit
  split
  · exact h
  · next t _ =>
    have k := parityRight_readStaged h t
    refine parityRight_ite _ h (parityRight_ite _ h (parityRight_ite _ h (parityRight_ite _ h ?_)))
    exact parityRight_ite _ k k

theorem parityRight_adoptIdle (l : LaneId) : (q.adoptIdle l).parityRight := by
  unfold Part.adoptIdle
  exact parityRight_ite _ (parityRight_adopt h l) h

theorem parityRight_swapSettings (crc : Nat) : (q.swapSettings crc).parityRight := by
  unfold Part.swapSettings
  obtain ⟨hstaged, hactive, hs, ha, -, hr⟩ := h.2
  refine parityRight_adoptIdle (parityRight_adoptIdle (parityRight_modLane (parityRight_modLane ?_ _ _) _ _) .l0) .l1
  refine parityRight_modTables h ⟨hstaged, hactive, hs, ⟨rfl, rfl, rfl⟩, fun i hi => ?_, hr⟩
  obtain rfl := Option.some.inj hi
  exact ha

theorem parityRight_swapClasses (crc : Nat) : (q.swapClasses crc).parityRight := by
  obtain ⟨hstaged, -, hrest⟩ := h.2
  refine parityRight_modTables h ⟨hstaged, slots_map_right fun _ => ?_, hrest⟩
  rfl

theorem parityRight_completeCommit : q.completeCommit.parityRight := by
  unfold Part.completeCommit
  split
  · exact h
  · next c _ =>
    have k1 : (q.modTables fun t => { t with commit := none }).parityRight := h
    dsimp only
    split
    · exact parityRight_swapClasses (parityRight_handTrail k1 _ _) c.crc
    · exact parityRight_swapSettings (parityRight_handTrail k1 _ _) c.crc

/-! ## The register -/

theorem parityRight_registerPut (corr : U16) (index : U16) (entry : List Byte) :
    (q.registerPut corr index entry).parityRight := by
  unfold Part.registerPut
  refine parityRight_ite _ h ?_
  split
  · exact h
  · exact h
  · have k := parityRight_readOtherSlots h index.toNat
    exact parityRight_ite _ h (parityRight_ite _ h (parityRight_ite _ h (parityRight_ite _ k k)))

theorem parityRight_registerRemove (corr : U16) (index : U16) : (q.registerRemove corr index).parityRight := by
  unfold Part.registerRemove
  have k := parityRight_readRegister h index.toNat
  exact parityRight_ite _ h (parityRight_ite _ h (parityRight_ite _ h (parityRight_ite _ h (parityRight_ite _ k k))))

theorem parityRight_registerGet (corr : U16) (index : U16) : (q.registerGet corr index).parityRight := by
  unfold Part.registerGet
  exact parityRight_ite _ h (parityRight_readRegister h _)

theorem parityRight_completeRegChange : q.completeRegChange.parityRight := by
  unfold Part.completeRegChange
  split
  · exact h
  · next c _ =>
    obtain ⟨hstaged, hactive, hs, ha, hp, hr⟩ := h.2
    exact parityRight_done (parityRight_modTables h
      ⟨hstaged, hactive, hs, ha, hp, mem_writeRegister hr c.index c.entry⟩) _ _ _

/-! ## The record memory -/

theorem parityRight_grantTable (o : TableOp) : (q.grantTable o).parityRight := by
  unfold Part.grantTable
  have k : (q.readForRecord o).parityRight := by
    cases o with
    | classRecord i => exact parityRight_readStagedClass h i
    | settingsImage => exact parityRight_readStaged h .settings
    | registerRecord => exact h
    | image d => exact h
    | calWrite d => exact h
  exact k

theorem parityRight_grantFetch (k : OpKind) (corr : U16) (r : Req) (n : Nat) : (q.grantFetch k corr r n).parityRight := by
  unfold Part.grantFetch
  exact parityRight_ite _ h h

theorem parityRight_grantClaim (k : OpKind) : (q.grantClaim k).parityRight := by
  cases k with
  | trailRecord => exact h
  | trailMark => exact h
  | ticketRecord => exact h
  | ticketMark => exact h
  | mirror i => exact h
  | table o => exact parityRight_grantTable h o
  | ticketFetch corr => exact parityRight_grantFetch h _ corr _ _
  | trailFetch corr => exact parityRight_grantFetch h _ corr _ _
  | holdRead corr n => exact h

theorem parityRight_grant : q.grant.parityRight := by
  unfold Part.grant
  refine parityRight_ite _ ?_ h
  split
  · exact h
  · exact parityRight_grantClaim h _

theorem parityRight_grantHold : q.grantHold.parityRight := by
  unfold Part.grantHold
  rw [checkSite_right h]
  split
  · exact h
  · exact h

theorem parityRight_storeHold (corr : U16) : (q.storeHold corr).parityRight := by
  unfold Part.storeHold
  split
  · refine parityRight_grantHold ?_
    exact h
  · exact h
  · exact h

theorem parityRight_beginRead : q.beginRead.parityRight := by
  unfold Part.beginRead
  split
  · exact h
  · exact parityRight_ite _ h h

theorem parityRight_holdRead (corr : U16) (address : U32) (length : U16) :
    (q.holdRead corr address length).parityRight := by
  unfold Part.holdRead
  refine parityRight_ite _ h (parityRight_ite _ h (parityRight_ite _ h (parityRight_beginRead ?_)))
  exact h

theorem parityRight_refuseReads : q.refuseReads.parityRight :=
  parityRight_foldl (fun (p : Part) (r : PendingRead) => p.refuse r.corr .holdRead .noHold)
    (fun _ _ k => k) q.store.holdReads q h

theorem parityRight_endHold : q.endHold.parityRight := by
  unfold Part.endHold
  refine parityRight_grant ?_
  exact h

theorem parityRight_settleHold : q.settleHold.parityRight := by
  unfold Part.settleHold
  split
  · exact parityRight_beginRead h
  · next corrs _ =>
    exact parityRight_endHold (parityRight_foldl (fun (p : Part) c => p.done c .storeRelease) (fun _ _ k => k) corrs q h)
  · refine parityRight_endHold ?_
    exact h

theorem parityRight_beginEnding (e : HoldEnding) : (q.beginEnding e).parityRight := by
  unfold Part.beginEnding
  have k : (q.modStore fun x => { x with ending := e, holdTimer := .stopped }).parityRight := h
  have k2 := parityRight_refuseReads k
  exact parityRight_ite _ (parityRight_settleHold k2) k2

theorem parityRight_storeRelease (corr : U16) : (q.storeRelease corr).parityRight := by
  unfold Part.storeRelease
  split
  · exact parityRight_beginEnding h _
  · exact h
  · exact h

theorem parityRight_ticketFetch (corr : U16) : (q.ticketFetch corr).parityRight := by
  unfold Part.ticketFetch
  exact parityRight_ite _ h h

theorem parityRight_trailFetch (corr : U16) : (q.trailFetch corr).parityRight := by
  unfold Part.trailFetch
  exact parityRight_ite _ h h

theorem parityRight_ticketAck (corr : U16) (n : U32) : (q.ticketAck corr n).parityRight := by
  unfold Part.ticketAck
  exact parityRight_ite _ h (parityRight_ite _ h (parityRight_ite _ h h))

theorem parityRight_trailAck (corr : U16) (n : U32) : (q.trailAck corr n).parityRight := by
  unfold Part.trailAck
  exact parityRight_ite _ h (parityRight_ite _ h (parityRight_ite _ h h))

theorem parityRight_trailWritten : q.trailWritten.parityRight := by
  unfold Part.trailWritten
  split
  · exact h
  · refine parityRight_advanceCalWrite ?_ _
    exact h

theorem parityRight_trailMarkWritten : q.trailMarkWritten.parityRight := by
  unfold Part.trailMarkWritten
  dsimp only
  split
  · exact parityRight_ite _ h h
  · refine parityRight_done ?_ _ _ _
    exact parityRight_ite _ h h

theorem parityRight_placeFreed : q.placeFreed.parityRight := by
  unfold Part.placeFreed
  have k : ({ q with fresh := q.fresh + 1 } : Part).parityRight := h
  dsimp only
  refine parityRight_ite _ ?_ (parityRight_storeRetry (parityRight_storeRetry h .l0) .l1)
  exact parityRight_ite _ (parityRight_storeRetry (parityRight_storeRetry k .l1) .l0)
    (parityRight_storeRetry (parityRight_storeRetry k .l0) .l1)

theorem parityRight_ticketWritten : q.ticketWritten.parityRight := by
  unfold Part.ticketWritten
  split
  · exact h
  · next t rest _ =>
    dsimp only
    have k1 : (q.modTickets fun x => { x with
      staging := rest, nextSerial := q.tickets.nextSerial + 1 }).parityRight := h
    generalize (q.modTickets fun x => { x with staging := rest, nextSerial := q.tickets.nextSerial + 1 }) = r at k1 ⊢
    have k2 := parityRight_placeFreed (parityRight_ite (8 ≤ q.tickets.staging.length)
      (show (r.bothBlocks fun b => { b with storeBusy := false }).parityRight from k1) k1)
    refine parityRight_notify ?_ _
    generalize (if 8 ≤ q.tickets.staging.length then r.bothBlocks fun b => { b with storeBusy := false } else r) = u
      at k2 ⊢
    exact parityRight_ite _ k2 k2

theorem parityRight_ticketMarkWritten : q.ticketMarkWritten.parityRight := by
  unfold Part.ticketMarkWritten
  dsimp only
  split
  · exact parityRight_ite _ h h
  · refine parityRight_done ?_ _ _ _
    exact parityRight_ite _ h h

theorem parityRight_classWritten (i : Nat) : (Part.classWritten i q).parityRight := by
  unfold Part.classWritten
  exact parityRight_ite _ h (parityRight_completeCommit h)

theorem parityRight_imageWritten (o : TableOp) (bytes : List Byte) : (Part.imageWritten o bytes q).parityRight := by
  unfold Part.imageWritten
  split
  · exact parityRight_completeCalWrite h _
  · exact h

theorem parityRight_answerRead (corr : U16) (a n : Nat) (m : List Host.Cell) :
    (Part.answerRead corr a n m q).parityRight := by
  unfold Part.answerRead
  refine parityRight_settleHold ?_
  exact h

theorem parityRight_failAcks : q.failAcks.parityRight := by
  unfold Part.failAcks
  cases q.tickets.ack with
  | none =>
    dsimp only
    split
    · exact h
    · exact h
  | some corr =>
    dsimp only
    split
    · exact h
    · exact h

theorem parityRight_failTables : q.failTables.parityRight := by
  unfold Part.failTables
  dsimp only
  split
  · split
    · exact h
    · exact h
  · split
    · exact h
    · exact h

theorem parityRight_keepFailed (k : OpKind) : (q.keepFailed k).parityRight := by
  unfold Part.keepFailed
  split
  · exact parityRight_ite _ h h
  · exact parityRight_markImage h _
  · exact h

theorem parityRight_enterStoreFault (k : OpKind) (c : Claimant) : (q.enterStoreFault k c).parityRight := by
  unfold Part.enterStoreFault
  refine parityRight_failCalWrite (q := Part.failTables _)
    (parityRight_failTables (parityRight_failAcks (parityRight_keepFailed ?_ k)))
  exact h

end

end Sys2Proof.Machine
end

section
/-! PROOFS. Startup and the events of the visits and the yard link keep every parity right, and so does every step
(log 16). -/

namespace Sys2Proof.Machine

section
variable {q : Part} (h : q.parityRight)
include h

/-! ## Startup -/

theorem parityRight_modPairing (f : Pairing → Pairing) : (q.modPairing f).parityRight := h
theorem parityRight_modTickets (f : TicketUnit → TicketUnit) : (q.modTickets f).parityRight := h
theorem parityRight_modTrail (f : Trail → Trail) : (q.modTrail f).parityRight := h

theorem parityRight_restorePending (m : List Host.Cell) (ts : List Ticket) : (q.restorePending m ts).parityRight := by
  unfold Part.restorePending
  dsimp only
  generalize restoredSlots m ts = slots
  refine parityRight_renumber (parityRight_foldl Part.markDirty (fun _ i k => parityRight_markDirty k i) _ _ ?_)
  exact parityRight_modPairing h _

omit h in
/-- What startup restores in a deck has a right parity (R178). -/
theorem restore_calRight {x : Deck} {image : Option CalImage} {high : Option Nat} {c : CalSlot}
    (hc : (x.restore image high).cal = some c) : c.parityOk = true := by
  cases image with
  | none => cases hc
  | some i =>
    cases hc
    rfl

theorem parityRight_restoreDeck (m : List Host.Cell) (trail : List TrailRecord) (d : DeckId) :
    (Part.restoreDeck m trail q d).parityRight := by
  unfold Part.restoreDeck
  have k : (q.modDeck d fun x => x.restore (storedImage m d) (highestCount trail d)).parityRight :=
    parityRight_modDeck h fun _ hc => restore_calRight hc
  dsimp only
  split
  · exact k
  · exact parityRight_ite _ (parityRight_markImage k d) k

end

theorem readSettingsRecord_parityRight {bs : List Byte} {i : SettingsImage} (h : readSettingsRecord bs = some i) :
    i.parityRight := by
  unfold readSettingsRecord at h
  simp only [Option.bind_eq_bind, Option.bind_eq_some_iff] at h
  obtain ⟨a, -, b, -, s, -, h⟩ := h
  split at h
  · cases h
    exact ⟨rfl, rfl, rfl⟩
  · cases h

theorem storedRegister_parityRight (m : List Host.Cell) : ∀ x ∈ storedRegister m, x.2.parityOk = true := by
  intro x hx
  obtain ⟨y, -, rfl⟩ := List.mem_map.mp hx
  rfl

theorem loadClasses_parityRight {t : TableStore} (h : t.parityRight) (m : List Host.Cell) :
    (t.loadClasses m).parityRight := by
  unfold TableStore.loadClasses
  obtain ⟨-, -, hrest⟩ := id h
  split
  · exact h
  · exact ⟨slots_ofFn_right fun _ => rfl, slots_ofFn_right fun _ => rfl, hrest⟩

theorem loadSettings_parityRight {t : TableStore} (h : t.parityRight) {image : Option SettingsImage}
    (hi : ∀ i, image = some i → i.parityRight) : (t.loadSettings image).parityRight := by
  unfold TableStore.loadSettings
  obtain ⟨hstaged, hactive, -, -, hrest⟩ := id h
  split
  · exact h
  · exact ⟨hstaged, hactive, hi _ rfl, hi _ rfl, hrest⟩

section
variable {q : Part} (h : q.parityRight)
include h

theorem parityRight_loadTables (m : List Host.Cell) : (q.loadTables m).parityRight := by
  unfold Part.loadTables
  have loaded := loadSettings_parityRight (loadClasses_parityRight h.2 m)
    (image := (readSlot m .settings 0).bind readSettingsRecord) fun i hi => by
      obtain ⟨bs, -, hbs⟩ := Option.bind_eq_some_iff.mp hi
      exact readSettingsRecord_parityRight hbs
  have registered := storedRegister_parityRight m
  generalize (readSlot m .settings 0).bind readSettingsRecord = image at loaded ⊢
  generalize storedRegister m = register at registered ⊢
  obtain ⟨hstaged, hactive, hs, ha, hp, -⟩ := loaded
  have k : (q.modTables fun t => { (t.loadClasses m).loadSettings image with register := register }).parityRight :=
    parityRight_modTables h ⟨hstaged, hactive, hs, ha, hp, registered⟩
  exact k

theorem parityRight_restore (m : List Host.Cell) : (q.restore m).parityRight := by
  unfold Part.restore
  dsimp only
  generalize (scanSlots m .trail readTrail).map (·.2) = trail
  refine parityRight_loadTables
    (parityRight_foldl (Part.restoreDeck m trail) (fun _ d k => parityRight_restoreDeck k m trail d) _ _ ?_) m
  exact parityRight_restorePending (parityRight_modTrail (parityRight_modTickets h _) _) m _

theorem parityRight_startDeck (d : DeckId) : (q.startDeck d).parityRight := by
  unfold Part.startDeck
  split
  · exact h
  · exact parityRight_modDeck_same h fun _ => rfl

theorem parityRight_startLane (l : LaneId) : (q.startLane l).parityRight := by
  unfold Part.startLane
  dsimp only
  refine parityRight_ite _ ?_ (parityRight_enterLaneState ?_ l _)
  · exact h
  · exact h

theorem parityRight_startBlocks : q.startBlocks.parityRight := h

theorem parityRight_finishStartup (c : StartupCounts) : (q.finishStartup c).parityRight := by
  unfold Part.finishStartup
  dsimp only
  have k : (({ q with phase := .running, clock := { q.clock with boundaryDue := false } } : Part).notify
      (.startup q.cause q.clock.valid q.store.fault c)).parityRight := h
  have decks := parityRight_foldl Part.startDeck (fun _ d k => parityRight_startDeck k d) allDecks _ k
  have lanes := parityRight_startLane (parityRight_startLane decks .l0) .l1
  exact parityRight_startBlocks lanes

end

theorem bootWrite_right {b : Part × List Host.Cell} (h : b.1.parityRight) (k : SlotKind) (slot : Nat) (bytes : List Byte)
    (fails : Bool) : (bootWrite k slot bytes fails b).1.parityRight := by
  unfold bootWrite
  split
  · exact h
  · split
    · exact h
    · exact h

theorem bootMark_right {b : Part × List Host.Cell} (h : b.1.parityRight) (k : SlotKind) (n : Nat) (fails : Bool) :
    (bootMark k n fails b).1.parityRight := by
  unfold bootMark
  split
  · exact h
  · exact bootWrite_right h k 0 _ fails

theorem bootRestart_right {b : Part × List Host.Cell} (h : b.1.parityRight) (c : StartupCounts) (fails : Bool) :
    (bootRestart c fails b).1.parityRight := by
  unfold bootRestart
  dsimp only
  have k := bootWrite_right h .trail (ringSlot .trail b.1.audit.trail.nextSeq)
    (trailBytes b.1.audit.trail.nextSeq (b.1.restartRecord c)) fails
  split
  · exact h
  · split
    · exact k
    · exact k

section
variable {q : Part} (h : q.parityRight)
include h

theorem boot_right (failed : Option (Fin 3)) (m : List Host.Cell) : (boot failed q m).1.parityRight := by
  unfold boot
  exact parityRight_finish (parityRight_finishStartup
    (bootRestart_right (bootMark_right (bootMark_right (parityRight_restore h m) _ _ _) _ _ _) _ _) _)

/-! ## Tag reads and the timers of a visit -/

theorem parityRight_lookupTag (l : LaneId) (e : LaneEnd) (tag : TagId) : (q.lookupTag l e tag).parityRight := by
  unfold Part.lookupTag
  dsimp only
  rw [searchRegister_register h]
  split
  · split
    · exact parityRight_setIdentity h l _
    · refine parityRight_endAtOnce ?_ l _
      exact h
  · exact h
  · exact h

theorem parityRight_offerTag (l : LaneId) (e : LaneEnd) (tag : TagId) : (q.offerTag l e tag).parityRight := by
  unfold Part.offerTag
  rw [checkLane_right h]
  refine parityRight_ite _ h (parityRight_ite _ h (parityRight_ite _ h (parityRight_ite _ h (parityRight_ite _ h ?_))))
  unfold Part.startByTag
  refine parityRight_lookupTag ?_ l e tag
  exact h

theorem parityRight_tagFrame (wire : List Byte) : (q.tagFrame wire).parityRight := by
  unfold Part.tagFrame
  split
  · exact h
  · refine parityRight_ite _ h (parityRight_ite _ h (parityRight_offerTag ?_ _ _ _))
    exact h

theorem parityRight_dwellExpiry (l : LaneId) : (q.dwellExpiry l).parityRight := by
  unfold Part.dwellExpiry
  split
  · exact h
  · split
    · exact h
    · exact parityRight_abortVisit h l _
    · exact parityRight_abortVisit h l _
    · exact parityRight_abortVisit h l _
    · exact h

/-! ## The yard link -/

theorem parityRight_timeSet (corr : U16) (seconds : U32) (millis : U16) :
    (q.timeSet corr seconds millis).parityRight := by
  unfold Part.timeSet
  exact parityRight_ite _ h h

theorem parityRight_restartRequest (corr : U16) (force : Coded Bool) : (q.restartRequest corr force).parityRight := by
  unfold Part.restartRequest
  split
  · exact h
  · exact parityRight_ite _ h h

theorem parityRight_refuseUnknown (corr : U16) (body : List Byte) (x : Reason) :
    (q.refuseUnknown corr body x).parityRight := by
  unfold Part.refuseUnknown
  split
  · exact h
  · exact h

theorem parityRight_unknownRequest (corr : U16) (body : List Byte) : (q.unknownRequest corr body).parityRight := by
  unfold Part.unknownRequest
  have k := parityRight_refuseUnknown h corr body
  exact parityRight_ite _ h (parityRight_ite _ h (parityRight_ite _ h (parityRight_ite _ (k _)
    (parityRight_ite _ (k _) (k _)))))

theorem expireSlots_right (limit : Nat) (is : List Nat) : (Part.expireSlots limit is q).parityRight := by
  induction is generalizing q with
  | nil => exact h
  | cons i is ih =>
    unfold Part.expireSlots
    split
    · exact ih h
    · split
      · exact parityRight_ite _ (parityRight_ite _ h
          (ih (parityRight_notify (parityRight_issueTicket (parityRight_setSlot h _ _) _ _) _))) (ih h)
      · exact ih h

theorem parityRight_scans : q.scans.parityRight := by
  unfold Part.scans Part.expireScan
  rw [checkSite_right h]
  exact parityRight_expireConsignments (expireSlots_right h _ _) _

theorem parityRight_minuteBoundary : q.minuteBoundary.parityRight := by
  unfold Part.minuteBoundary
  dsimp only
  have k : ({ q with clock := q.clock.toBoundary } : Part).parityRight := h
  exact parityRight_ite _ (parityRight_ite _ (parityRight_scans k) k) h

end

/-! ## Every command -/

/-- The command leaves every parity right where every parity is. -/
def KeepsRight (s : State) (o : Host.Outcome State Fault Refusal) : Prop :=
  s.toPart.parityRight → ∃ t, o = .next t ∧ t.toPart.parityRight

theorem run_keepsRight {s : State} {f : Part → Part} (hf : s.toPart.parityRight → (f s.toPart).parityRight) :
    KeepsRight s (s.run f) := fun h => ⟨_, rfl, parityRight_finish (hf h)⟩

theorem request_keepsRight {s : State} {corr : U16} {r : Req} {target : Byte} {f : Part → Part}
    (hf : ∀ p : Part, p.parityRight → (f p).parityRight) : KeepsRight s (s.request corr r f target) :=
  run_keepsRight fun h => parityRight_admitRequest h corr r target hf

theorem expire_keepsRight {s : State} {t : Part → Timer} {f : Part → Part}
    (hf : ∀ p : Part, p.parityRight → (f p).parityRight) : KeepsRight s (s.run fun p => p.expire (t p) f) :=
  run_keepsRight fun h => parityRight_expire h _ hf

theorem written_keepsRight {s : State} {owns : OpKind → Option (Part → Part)}
    (hf : ∀ k f, owns k = some f → ∀ p : Part, p.parityRight → (f p).parityRight) : KeepsRight s (s.written owns) := by
  intro h
  unfold State.written
  split
  · exact run_keepsRight (fun h => h) h
  · split
    · exact run_keepsRight (fun h => h) h
    · next f hk => exact ⟨_, rfl, parityRight_finish (hf _ f hk _ h)⟩

theorem readDone_keepsRight {s : State} {owns : Op → Option (List Host.Cell → Part → Part)}
    (hf : ∀ o f, owns o = some f → ∀ m (p : Part), p.parityRight → (f m p).parityRight) :
    KeepsRight s (s.readDone owns) := by
  intro h
  unfold State.readDone
  split
  · exact run_keepsRight (fun h => h) h
  · split
    · exact run_keepsRight (fun h => h) h
    · next f hk => exact run_keepsRight (fun h => hf _ f hk _ _ h) h

theorem failed_keepsRight (s : State) : KeepsRight s (execRecordWriteFailed s) := by
  intro h
  unfold execRecordWriteFailed
  split
  · exact run_keepsRight (fun h => h) h
  · split
    · exact run_keepsRight (fun h => h) h
    · have k : (({ s.toPart with fresh := s.fresh + 1 } : Part).freePort).parityRight := h
      exact ⟨_, rfl, parityRight_finish (parityRight_enterStoreFault k _ _)⟩

theorem reset_keepsRight (s : State) (phase : Phase) (cause : ResetCause) (clock : Clock) :
    KeepsRight s (s.resetTo phase cause clock) := fun _ =>
  ⟨_, rfl, parityRight_finish (parityRight_same reset_parityRight rfl rfl)⟩

theorem startup_keepsRight (failed : Option (Fin 3)) (s : State) : KeepsRight s (execStartup failed s) := by
  intro h
  unfold execStartup
  split
  · exact ⟨_, rfl, boot_right h failed s.mem⟩
  · exact run_keepsRight (fun h => h) h

theorem frameSent_keepsRight (s : State) : KeepsRight s (execFrameSent s) := by
  unfold execFrameSent
  split
  · exact reset_keepsRight s _ _ _
  · exact run_keepsRight fun h => h

end Sys2Proof.Machine
end

section
/-! PROOFS. Every step keeps every parity right (log 16). -/

namespace Sys2Proof.Machine

/-- No command that ends a write makes a parity fail. -/
theorem writeEnds_keepRight (s : State) :
    KeepsRight s (execTrailRecordWritten s) ∧ KeepsRight s (execTrailReadMarkWritten s) ∧
      KeepsRight s (execTicketWritten s) ∧ KeepsRight s (execTicketReadMarkWritten s) ∧
      KeepsRight s (execMirrorRecordWritten s) ∧ KeepsRight s (execClassRecordWritten s) ∧
      KeepsRight s (execSettingsImageWritten s) ∧ KeepsRight s (execRegisterRecordWritten s) := by
  refine ⟨written_keepsRight fun k f hk p h => ?_, written_keepsRight fun k f hk p h => ?_,
    written_keepsRight fun k f hk p h => ?_, written_keepsRight fun k f hk p h => ?_,
    written_keepsRight fun k f hk p h => ?_, written_keepsRight fun k f hk p h => ?_,
    written_keepsRight fun k f hk p h => ?_, written_keepsRight fun k f hk p h => ?_⟩
  all_goals split at hk <;> cases hk
  · exact parityRight_trailWritten h
  · exact parityRight_trailMarkWritten h
  · exact parityRight_ticketWritten h
  · exact parityRight_ticketMarkWritten h
  · exact h
  · exact parityRight_classWritten h _
  · exact parityRight_completeCommit h
  · exact parityRight_completeRegChange h

/-- The end of a calibration image, of either kind, makes no parity fail. -/
theorem calibrationImage_keepsRight (s : State) : KeepsRight s (execCalibrationImageWritten s) := by
  unfold execCalibrationImageWritten
  refine written_keepsRight fun k f hk p h => ?_
  split at hk
  · cases hk
    exact parityRight_imageWritten h _ _
  · cases hk
    exact parityRight_imageWritten h _ _
  · cases hk

theorem calWrite_keepsRight (corr : U16) (deck : Byte) (entry : List Byte) (calEn : Bool) (s : State) :
    KeepsRight s (execCalWrite corr deck entry calEn s) := by
  refine run_keepsRight fun h => ?_
  have k : ({ s.toPart with calEn := calEn } : Part).parityRight := h
  exact parityRight_admitRequest k corr _ _ fun _ k => parityRight_calWrite k corr deck entry

/-- No command that ends a read makes a parity fail. -/
theorem readEnds_keepRight (s : State) : KeepsRight s (execTicketFetchRead s) ∧ KeepsRight s (execTrailFetchRead s) ∧
    KeepsRight s (execHoldReadDone s) := by
  refine ⟨readDone_keepsRight fun o f hk m p h => ?_, readDone_keepsRight fun o f hk m p h => ?_,
    readDone_keepsRight fun o f hk m p h => ?_⟩
  all_goals split at hk <;> cases hk
  · exact h
  · exact h
  · exact parityRight_answerRead h _ _ _ m

theorem treadleEdge_right {p : Part} (h : p.parityRight) (l : LaneId) (e : LaneEnd) (line : Treadle) (wait : Nat)
    (taken : Bool) : (let q := p.elapse wait
      if q.phase ≠ .running then q
      else
        let r := q.latchEdge l e line
        if taken then r.takeLatch l e line else r).parityRight := by
  have k : (p.elapse wait).parityRight := h
  have latched := parityRight_latchEdge k l e line
  exact parityRight_ite _ k (parityRight_ite _ (parityRight_takeLatch latched l e line) latched)

theorem lineResetRelease_keepsRight (s : State) : KeepsRight s (execLineResetRelease s) :=
  run_keepsRight fun h => parityRight_ite _ h h

theorem yardFrameDrop_keepsRight (wire : List Byte) (s : State) : KeepsRight s (execYardFrameDrop wire s) :=
  run_keepsRight fun h => parityRight_ite _ h h

/-- A visit timer that is taken in one state of the visit alone. -/
theorem visitTimer_right {p : Part} (h : p.parityRight) (c : Prop) [Decidable c] (l : LaneId) (r : AbortReason) :
    (if c then p.expire (p.lane l).waitTimer (·.endAtOnce l r) else p).parityRight :=
  parityRight_ite _ (parityRight_expire h _ fun _ k => parityRight_endAtOnce k l r) h

/-- No command makes a parity fail. -/
theorem exec_keepsRight (c : Instr) (s : State) : KeepsRight s (exec c s) := by
  obtain ⟨trailRecord, trailMark, ticket, ticketMark, mirror, classRecord, settingsImage, registerRecord⟩ :=
    writeEnds_keepRight s
  obtain ⟨ticketRead, trailRead, holdRead⟩ := readEnds_keepRight s
  cases c
  case sampleFrame d wire => exact run_keepsRight fun h => parityRight_sampleFrame h d wire
  case sampleTimeoutExpiry d => exact expire_keepsRight fun _ h => parityRight_sampleTimeout h d
  case clearanceTimerExpiry d => exact expire_keepsRight fun _ h => parityRight_clearanceExpiry h d
  case tagFrame wait wire => exact run_keepsRight fun h => parityRight_tagFrame (q := Part.elapse _ wait) h wire
  case treadleEdge l e line wait taken => exact run_keepsRight fun h => treadleEdge_right h l e line wait taken
  case treadleLatchTaken l e line => exact run_keepsRight fun h => parityRight_takeLatch h l e line
  case windowExpiry l e => exact run_keepsRight fun h => parityRight_windowExpiry h l e
  case beamLevelChange l e b => exact run_keepsRight fun h => parityRight_beamChange h l e b
  case beamDebounceExpiry l e => exact expire_keepsRight fun _ h => parityRight_beamEvent (q := Part.modEnd _ _ _ _) h l e _
  case barrierSwitchChange l e u d => exact run_keepsRight fun h => parityRight_switchChange h l e u d
  case supervisionTimerExpiry l e =>
    exact expire_keepsRight fun _ h => parityRight_laneRaise (q := Part.modEnd _ _ _ _) h l .barrier
  case laneStopEdge l a => exact run_keepsRight fun h => parityRight_stopEdge h l a
  case identityTimeout l => exact run_keepsRight fun h => visitTimer_right h _ l _
  case consignTimeout l => exact run_keepsRight fun h => visitTimer_right h _ l _
  case quietTimerExpiry l =>
    exact expire_keepsRight fun _ h => parityRight_tryEnterSettling (parityRight_modLane h l _) l
  case settleCompletion l => exact expire_keepsRight fun _ h => parityRight_settleComplete (parityRight_modLane h l _) l
  case dwellTimerExpiry l => exact expire_keepsRight fun _ h => parityRight_dwellExpiry (parityRight_modLane h l _) l
  case clearTimerExpiry l => exact expire_keepsRight fun _ h => parityRight_tryClose (parityRight_modLane h l _) l
  case minuteBoundary => exact run_keepsRight parityRight_minuteBoundary
  case siteClockWrap => exact run_keepsRight fun h => h
  case auditWaitExpiry => exact run_keepsRight parityRight_auditWaitExpiry
  case stepTimerExpiry => exact expire_keepsRight fun _ h => parityRight_completeStep h none
  case holdTimerExpiry => exact expire_keepsRight fun _ h => parityRight_beginEnding h .lapsed
  case portGrant => exact run_keepsRight parityRight_grant
  case storeHoldGrant => exact run_keepsRight parityRight_grantHold
  case trailRecordWritten => exact trailRecord
  case trailReadMarkWritten => exact trailMark
  case ticketWritten => exact ticket
  case ticketReadMarkWritten => exact ticketMark
  case mirrorRecordWritten => exact mirror
  case classRecordWritten => exact classRecord
  case settingsImageWritten => exact settingsImage
  case registerRecordWritten => exact registerRecord
  case calibrationImageWritten => exact calibrationImage_keepsRight s
  case ticketFetchRead => exact ticketRead
  case trailFetchRead => exact trailRead
  case holdReadDone => exact holdRead
  case recordWriteFailed => exact failed_keepsRight s
  case yardFrameDrop wire => exact yardFrameDrop_keepsRight wire s
  case frameSent => exact frameSent_keepsRight s
  case status corr => exact request_keepsRight fun _ h => h
  case timeSet corr t m => exact request_keepsRight fun _ h => parityRight_timeSet h corr t m
  case restart corr f => exact request_keepsRight fun _ h => parityRight_restartRequest h corr f
  case laneOpen corr l => exact request_keepsRight fun _ h => parityRight_laneOpen h corr l
  case laneClose corr l => exact request_keepsRight fun _ h => parityRight_laneClose h corr l
  case admitVehicle corr l e v => exact request_keepsRight fun _ h => parityRight_admitVehicle h corr l e v
  case consign corr v c => exact request_keepsRight fun _ h => parityRight_consign h corr v c
  case release corr l => exact request_keepsRight fun _ h => parityRight_release h corr l
  case visitAbort corr l => exact request_keepsRight fun _ h => parityRight_visitAbort h corr l
  case cancelPending corr v => exact request_keepsRight fun _ h => parityRight_cancelPending h corr v
  case pendingRead corr i => exact request_keepsRight fun _ h => parityRight_pendingRead h corr i
  case ticketFetch corr => exact request_keepsRight fun _ h => parityRight_ticketFetch h corr
  case ticketAck corr n => exact request_keepsRight fun _ h => parityRight_ticketAck h corr n
  case trailFetch corr => exact request_keepsRight fun _ h => parityRight_trailFetch h corr
  case trailAck corr n => exact request_keepsRight fun _ h => parityRight_trailAck h corr n
  case tableWrite corr t i e => exact request_keepsRight fun _ h => parityRight_tableWrite h corr t i e
  case tableRead corr t i => exact request_keepsRight fun _ h => parityRight_tableRead h corr t i
  case tableCommit corr t n => exact request_keepsRight fun _ h => parityRight_tableCommit h corr t n
  case tableDiscard corr t => exact request_keepsRight fun _ h => parityRight_tableDiscard h corr t
  case registerPut corr i e => exact request_keepsRight fun _ h => parityRight_registerPut h corr i e
  case registerRemove corr i => exact request_keepsRight fun _ h => parityRight_registerRemove h corr i
  case registerGet corr i => exact request_keepsRight fun _ h => parityRight_registerGet h corr i
  case auditOpen corr d r => exact request_keepsRight fun _ h => parityRight_auditOpen h corr d r
  case auditStep corr k r cell => exact request_keepsRight fun _ h => parityRight_auditStep h corr k r cell
  case calWrite corr d e calEn => exact calWrite_keepsRight corr d e calEn s
  case zeroSet corr d => exact request_keepsRight fun _ h => parityRight_zeroSet h corr d
  case auditClose corr => exact request_keepsRight fun _ h => parityRight_auditClose h corr
  case auditAbort corr => exact request_keepsRight fun _ h => parityRight_auditAbort h corr
  case storeHold corr => exact request_keepsRight fun _ h => parityRight_storeHold h corr
  case storeRelease corr => exact request_keepsRight fun _ h => parityRight_storeRelease h corr
  case holdRead corr a n => exact request_keepsRight fun _ h => parityRight_holdRead h corr a n
  case monitorSet corr sel => exact request_keepsRight fun _ h => parityRight_monitorSet h corr sel
  case powerOn => exact reset_keepsRight s _ _ _
  case lineReset => exact reset_keepsRight s _ _ _
  case lineResetRelease => exact lineResetRelease_keepsRight s
  case startup failed => exact startup_keepsRight failed s
  case unknownRequest corr code args => exact run_keepsRight fun h => parityRight_unknownRequest h corr _

/-- Settles O6: no command makes a parity fail, under right parities every read finds its entry good. -/
theorem parityStaysRight : Obligations.ParityStaysRight := by
  intro s t h hst
  refine step_keeps (P := fun s => s.toPart.parityRight) (fun _ _ h => h) (fun _ h => h) (fun c s t h he => ?_) h hst
  obtain ⟨u, hu, hr⟩ := exec_keepsRight c s h
  obtain rfl : u = t := Host.Outcome.next.inj (hu.symm.trans he)
  exact hr

end Sys2Proof.Machine
end

section
/-! PROOFS. The deck channels' timers (R3, R19): the sample timeout faults the deck, and the clearance timer returns it to
TRADE. -/

namespace Sys2Proof.Machine

/-! ## The sample timeout -/

/-- A deck whose sample timer has expired, before LINK_LOSS joins its causes (R3, R10, R19). -/
def Deck.silent (x : Deck) : Deck := { x with sampleTimer := .expired, lastSeq := none }.restart.endRun

theorem expire_running {p : Part} {t : Timer} {n : Nat} (h : t = .running n) (f : Part → Part) :
    p.expire t f = f (p.reach n) := by
  subst h
  rfl

theorem sampleTimeout_idle {p : Part} {d : DeckId} (h : p.tradesIdle d) (hc : (p.deck d).causes.linkLoss = false) :
    p.sampleTimeout d = (p.modDeck d Deck.silent).raiseCause d .linkLoss := by
  obtain ⟨hservice, hflight, hvisit, hcauses, hstate⟩ := h
  unfold Part.sampleTimeout
  rw [windowRestart_idle _ _ (by rw [inFlightOn_modDeck]; exact hflight)]
  dsimp only
  rw [modDeck_modDeck, modDeck_modDeck]
  have idle : (p.modDeck d Deck.silent).tradesIdle d :=
    ⟨by rw [deck_modDeck_self]; exact hservice, hflight, hvisit, hcauses, hstate⟩
  obtain ⟨-, -, hv, -⟩ := raiseCause_trade (p.modDeck d Deck.silent) d .linkLoss idle (by
    rw [deck_modDeck_self]; exact hc)
  exact laneReact_noVisit _ d _ _ hv

/-- Settles O24: the silent deck is idle in TRADE, so `raiseCause_trade` says all of what LINK_LOSS brings. -/
theorem sampleTimeoutFaultsDeck : Obligations.SampleTimeoutFaultsDeck := by
  intro d deadline s hs ht hservice hlink hvisit hflight hcauses hstate
  have idle : (s.toPart.reach deadline).tradesIdle d := ⟨hservice, hflight, hvisit, hcauses, hstate⟩
  have idle' : ((s.toPart.reach deadline).modDeck d Deck.silent).tradesIdle d :=
    ⟨by rw [deck_modDeck_self]; exact hservice, hflight, hvisit, hcauses, hstate⟩
  obtain ⟨⟨hdeck, hdecks, hlaneState, hlaneCauses, hother, haudit, hclock, hpairing, htickets, htables⟩, -, -, hadopted,
    -⟩ := raiseCause_trade _ d .linkLoss idle' (by rw [deck_modDeck_self]; exact hlink)
  refine ⟨_, endsAs_run (.sampleTimeoutExpiry d) s (fun p => p.expire (p.deck d).sampleTimer (·.sampleTimeout d)) _ rfl
    ((expire_running ht _).trans (sampleTimeout_idle idle hlink)) ?_, ?_⟩
  · exact settled_of hs htables (hadopted .l0) (hadopted .l1)
  · rw [deck_modDeck_self] at hdeck
    rw [hdeck]
    refine ⟨rfl, rfl, rfl, rfl, rfl, rfl, rfl, rfl, rfl, rfl, hlaneState, hlaneCauses, fun e he => ?_, hother, hclock,
      hpairing, htickets, htables, ?_, ?_⟩
    · rw [hdecks e he, deck_modDeck, if_neg he]
      rfl
    · rw [haudit]
      rfl
    · rw [haudit, hclock, deck_modDeck_self]
      rfl

/-! ## The clearance timer -/

/-- What a cause that leaves the set of a lane can change: the lane's state, cause set and block set, and the link. -/
theorem laneClear_same (p : Part) (l : LaneId) (c : LaneCause) :
    p.laneClear l c = { p with lanes := (p.laneClear l c).lanes, link := (p.laneClear l c).link } ∧
      (p.laneClear l c).lane l.other = p.lane l.other ∧
      ∀ m, ((p.laneClear l c).lane m).adoptedActive = (p.lane m).adoptedActive ∧
        (p.laneClear l c).visit m = p.visit m := by
  unfold Part.laneClear Part.enterLaneState
  dsimp only
  split
  · split
    · split
      · exact ⟨rfl, by cases l <;> rfl, fun m => by cases l <;> cases m <;> exact ⟨rfl, rfl⟩⟩
      · exact ⟨rfl, by cases l <;> rfl, fun m => by cases l <;> cases m <;> exact ⟨rfl, rfl⟩⟩
    · exact ⟨rfl, by cases l <;> rfl, fun m => by cases l <;> cases m <;> exact ⟨rfl, rfl⟩⟩
  · exact ⟨rfl, rfl, fun _ => ⟨rfl, rfl⟩⟩

theorem clearDeckFault_same (p : Part) (l : LaneId) :
    p.clearDeckFault l = { p with lanes := (p.clearDeckFault l).lanes, link := (p.clearDeckFault l).link } ∧
      (p.clearDeckFault l).lane l.other = p.lane l.other ∧
      ∀ m, ((p.clearDeckFault l).lane m).adoptedActive = (p.lane m).adoptedActive ∧
        (p.clearDeckFault l).visit m = p.visit m := by
  unfold Part.clearDeckFault
  split
  · exact laneClear_same p l .deckFault
  · exact ⟨rfl, rfl, fun _ => ⟨rfl, rfl⟩⟩

/-- Another deck in FAULT keeps DECK_FAULT in the cause set (R35). -/
theorem clearDeckFault_kept {p : Part} {l : LaneId} {e : DeckId} (he : e ∈ l.decks) (h : (p.deck e).service = .fault) :
    p.clearDeckFault l = p := by
  unfold Part.clearDeckFault
  rw [if_neg]
  rw [List.all_eq_true]
  exact fun k => absurd h (by simpa using k e he)

/-- DECK_FAULT, the lane's only cause, leaves with the last deck in FAULT, and the lane enters CLOSED (R35, R37). -/
theorem clearDeckFault_closes {p : Part} {l : LaneId} (h : ∀ e ∈ l.decks, (p.deck e).service ≠ .fault)
    (hstate : (p.lane l).state = .fault) (hcauses : (p.lane l).causes = { LaneCauses.empty with deckFault := true })
    (hvisit : p.visit l = none) : ((p.clearDeckFault l).lane l).state = .closed ∧
      ((p.clearDeckFault l).lane l).causes = .empty ∧
      ((p.clearDeckFault l).lane l).blocks.closeRequested = false := by
  have hall : (l.decks.all fun d => decide ((p.deck d).service ≠ .fault)) = true := by
    rw [List.all_eq_true]
    exact fun e he => decide_eq_true (h e he)
  have hv : (p.lane l).visit = none := hvisit
  have hput : ({ LaneCauses.empty with deckFault := true } : LaneCauses).put false .deckFault = .empty := rfl
  unfold Part.clearDeckFault Part.laneClear Part.enterLaneState Part.visit
  rw [if_pos hall, if_pos (by rw [hcauses]; rfl)]
  simp [hcauses, hstate, hv, hput]

/-- A deck without causes that returns from FAULT to TRADE (R143, R144). -/
def Deck.returned (x : Deck) : Deck := ({ x with causes := .empty, service := .trade } : Deck).restart.zeroFromCal

/-- What the change of a deck without causes from FAULT to TRADE makes of the part (R144). -/
theorem changeService_trade {p : Part} {d : DeckId} (hservice : (p.deck d).service = .fault)
    (hcauses : (p.deck d).causes = .empty) (hflight : p.inFlightOn d = none) :
    let q := p.changeService d .trade
    ∃ r : Part, r = { p with decks := r.decks, lanes := r.lanes, audit := { p.audit with
        trail := p.handed (some d) (.service .fault .trade .empty) } } ∧
      (∀ l, sameButTrailFull (p.lane l) (r.lane l)) ∧ r.deck d = (p.deck d).returned ∧
      (∀ e, e ≠ d → r.deck e = p.deck e) ∧ q.lanes = (r.clearDeckFault (laneOf d)).lanes ∧
      q = { r with decks := q.decks, lanes := q.lanes, store := q.store, link := q.link } ∧
      q.deck d = { (p.deck d).returned with persisted := (p.deck d).returned.persistedValue } ∧
      ∀ e, e ≠ d → q.deck e = p.deck e := by
  obtain ⟨hdeck, hdecks, hlanes, hsame⟩ := serviceHead_facts p d .trade hflight
  rw [if_pos rfl] at hdeck
  rw [hservice, hcauses] at hsame
  have hret : (p.serviceHead d .trade).deck d = (p.deck d).returned := by
    rw [hdeck]
    unfold Deck.returned
    rw [← hcauses]
  obtain ⟨hclear, -, -⟩ := clearDeckFault_same (p.serviceHead d .trade) (laneOf d)
  obtain ⟨htail, htailDecks, htailDeck⟩ := serviceTail_facts ((p.serviceHead d .trade).clearDeckFault (laneOf d)) d
    .fault .trade
  have hq : p.changeService d .trade =
      ((p.serviceHead d .trade).clearDeckFault (laneOf d)).serviceTail d .fault .trade := by
    unfold Part.changeService
    rw [hservice]
    rfl
  have hsameDecks : ∀ e, ((p.serviceHead d .trade).clearDeckFault (laneOf d)).deck e = (p.serviceHead d .trade).deck e := by
    intro e
    rw [hclear]
    rfl
  refine ⟨p.serviceHead d .trade, hsame, hlanes, hret, hdecks, ?_, ?_, ?_, ?_⟩
  · rw [hq, htail]
  · rw [hq, htail, hclear]
  · rw [hq, htailDeck, hsameDecks, hret]
  · intro e he
    rw [hq, htailDecks e he, hsameDecks, hdecks e he]

theorem lane_of_sameButTrailFull {x y : Lane} (h : sameButTrailFull x y) : y.state = x.state ∧ y.causes = x.causes ∧
    y.visit = x.visit ∧ y.adoptedActive = x.adoptedActive := by
  rw [h]
  exact ⟨rfl, rfl, rfl, rfl⟩

theorem readEntry_good {p : Part} {d : DeckId} {c : CalEntry} (h : (p.deck d).cal = some ⟨c, true, false⟩) :
    p.readEntry d = p := by
  unfold Part.readEntry
  rw [h]
  rfl

/-- A deck with an auto cause, in the part that has let its auto causes go (R19). -/
def Part.autoCleared (p : Part) (d : DeckId) : Part := p.modDeck d fun x => { x with causes := x.causes.needsAudit }

/-- The end of the clearance run (R19): the auto causes have gone, and the windows restart. -/
def Part.ranClear (p : Part) (d : DeckId) : Part :=
  ((p.autoCleared d).changeService d .trade).modDeck d fun x => x.restart.endRun

theorem clearAuto_trade {p : Part} {d : DeckId} {c : CalEntry} (hcal : (p.deck d).cal = some ⟨c, true, false⟩)
    (hservice : (p.deck d).service = .fault) (hneeds : (p.deck d).causes.needsAudit = .empty)
    (hauto : (p.deck d).causes.linkLoss = true ∨ (p.deck d).causes.cellFault = true) (hflight : p.inFlightOn d = none) :
    p.clearAuto d = (p.autoCleared d).changeService d .trade := by
  have hdeck : (p.autoCleared d).deck d = { p.deck d with causes := .empty } := by
    unfold Part.autoCleared
    rw [deck_modDeck_self, hneeds]
  have hs : ((p.autoCleared d).deck d).service = .fault := by rw [hdeck]; exact hservice
  have hc : ((p.autoCleared d).deck d).causes = .empty := by rw [hdeck]
  obtain ⟨-, -, -, -, -, -, -, hq, -⟩ := changeService_trade hs hc hflight
  unfold Part.clearAuto
  rw [if_pos hauto]
  dsimp only
  have hif : ((p.autoCleared d).deck d).causes = .empty ∧ ((p.autoCleared d).deck d).service = .fault := ⟨hc, hs⟩
  refine (if_pos hif).trans ?_
  unfold Part.tradeRead
  rw [if_pos rfl]
  refine readEntry_good (c := c) ?_
  refine (congrArg Deck.cal hq).trans ?_
  rw [hdeck]
  exact hcal

/-- Settles O25: `changeService_trade` says what the return to TRADE makes of the deck, the trail and the lane. -/
theorem clearanceReturnsToTrade : Obligations.ClearanceReturnsToTrade := by
  intro d deadline c s hs ht hcal hservice hneeds hauto hvisit hflight
  set p := s.toPart.reach deadline with hp
  have hclear := clearAuto_trade (p := p) hcal hservice hneeds hauto hflight
  have hdeck : (p.autoCleared d).deck d = { s.toPart.deck d with causes := .empty } := by
    unfold Part.autoCleared
    rw [deck_modDeck_self]
    exact congrArg (fun k => ({ s.toPart.deck d with causes := k } : Deck)) hneeds
  obtain ⟨r, hr, hlanes, hrd, hre, hq1, hq, hqd, hqe⟩ := changeService_trade (p := p.autoCleared d) (d := d)
    (by rw [hdeck]; exact hservice) (by rw [hdeck]) hflight
  obtain ⟨hcl, hclOther, hclSame⟩ := clearDeckFault_same r (laneOf d)
  have hreturned : ((p.autoCleared d).deck d).returned.zd = some (1000 * c.zcal) := by
    rw [hdeck]
    unfold Deck.returned Deck.zeroFromCal Deck.usable Deck.restart
    rw [hcal]
    rfl
  have hlane : ∀ l, (p.ranClear d).lane l = (r.clearDeckFault (laneOf d)).lane l := fun l =>
    congrArg (fun x : PerLane Lane => x.get l) hq1
  have hsame : ∀ l, sameButTrailFull (s.toPart.lane l) (r.lane l) := hlanes
  have hlast : (p.ranClear d).visit (laneOf d) = none := by
    unfold Part.visit
    rw [hlane]
    exact ((hclSame _).2.trans (lane_of_sameButTrailFull (hsame _)).2.2.1).trans hvisit
  have hrun : s.toPart.expire (s.toPart.deck d).clearance (·.clearanceExpiry d) = p.ranClear d := by
    rw [expire_running ht]
    unfold Part.clearanceExpiry
    rw [hclear, windowRestart_idle]
    · dsimp only
      rw [modDeck_modDeck]
      exact laneReact_noVisit _ d _ _ hlast
    · rw [hq, hr]
      exact hflight
  refine ⟨p.ranClear d, endsAs_run (.clearanceTimerExpiry d) s
    (fun p => p.expire (p.deck d).clearance (·.clearanceExpiry d)) _ rfl hrun ?_, ?_⟩
  · have hadopted : ∀ l, ((p.ranClear d).lane l).adoptedActive = (s.toPart.lane l).adoptedActive := fun l => by
      rw [hlane, (hclSame l).1]
      exact (lane_of_sameButTrailFull (hsame l)).2.2.2
    refine settled_of hs ?_ (hadopted .l0) (hadopted .l1)
    unfold Part.ranClear
    rw [hq, hr]
    rfl
  · have hfin : (p.ranClear d).deck d = ({ ((p.autoCleared d).deck d).returned with
        persisted := ((p.autoCleared d).deck d).returned.persistedValue } : Deck).restart.endRun := by
      unfold Part.ranClear
      rw [deck_modDeck_self, hqd]
    have hrest : ∀ e, e ≠ d → (p.ranClear d).deck e = s.toPart.deck e := fun e he => by
      unfold Part.ranClear
      rw [deck_modDeck, if_neg he, hqe e he]
      unfold Part.autoCleared
      rw [deck_modDeck, if_neg he]
      rfl
    have hrdeck : ∀ e, e ≠ d → r.deck e = s.toPart.deck e := fun e he => by
      rw [hre e he]
      unfold Part.autoCleared
      rw [deck_modDeck, if_neg he]
      rfl
    have hafter : p.ranClear d = { r with
        decks := (p.ranClear d).decks, lanes := (p.ranClear d).lanes, store := (p.ranClear d).store
        link := (p.ranClear d).link } := by
      unfold Part.ranClear
      rw [hq]
      rfl
    rw [hfin]
    refine ⟨rfl, rfl, hreturned, rfl, rfl, rfl, rfl, rfl, hrest, ?_, ?_, ?_, ?_, ?_, ?_, ?_, fun hfault => ?_,
      fun hnone hstate hcauses => ?_⟩
    · rw [hlane, hclOther]
      exact hsame _
    · rw [hafter, hr]
      rfl
    · rw [hafter, hr]
      rfl
    · rw [hafter, hr]
      rfl
    · rw [hafter, hr]
      rfl
    · rw [hafter, hr]
      rfl
    · rw [hafter, hr]
      rfl
    · obtain ⟨e, he, hne, hf⟩ := hfault
      rw [hlane, clearDeckFault_kept he (by rw [hrdeck e hne]; exact hf)]
      obtain ⟨hst, hca, -⟩ := lane_of_sameButTrailFull (hsame (laneOf d))
      exact ⟨hst, hca⟩
    · obtain ⟨hst, hca, hvi, -⟩ := lane_of_sameButTrailFull (hsame (laneOf d))
      rw [hlane]
      refine clearDeckFault_closes (fun e he => ?_) (hst.trans hstate) (hca.trans hcauses) (hvi.trans hvisit)
      by_cases hed : e = d
      · rw [hed, hrd]
        unfold Deck.returned
        exact fun k => by cases k
      · rw [hrdeck e hed]
        exact hnone e he hed

end Sys2Proof.Machine
end

section
/-! PROOFS. A valid sample frame (R1, R2, R5-R13, R17, R19, R22) on a deck without a step in flight, of a lane that holds
no visit. -/

namespace Sys2Proof.Machine

/-! ## What the stages of the deck channel make of the deck -/

/-- The deck with the frame's sequence tracked at the running count `now` (R2). -/
def Deck.sequenced (x : Deck) (c : CalEntry) (seq now : Nat) : Deck :=
  { (if 3 < missing x.lastSeq seq then x.restart.endRun else x) with
    lastSeq := some seq, gapCount := min 65535 (x.gapCount + missing x.lastSeq seq)
    sampleTimer := .running (now + 10 * c.timeout) }

theorem sequenced_keeps (x : Deck) (c : CalEntry) (seq now : Nat) :
    (x.sequenced c seq now).service = x.service ∧ (x.sequenced c seq now).cal = x.cal := by
  unfold Deck.sequenced
  split
  · exact ⟨rfl, rfl⟩
  · exact ⟨rfl, rfl⟩

/-- The statuses of the cells in use, as a frame brings them. -/
def Sample.used (f : Sample) (c : CalEntry) : List CellStatus := (f.cells.take c.cells.length).map (·.2)

/-- The deck with the statuses of the frame's cells remembered (R5). -/
def Deck.heard (x : Deck) (c : CalEntry) (f : Sample) : Deck :=
  { (if x.remembered.take c.cells.length = f.used c then x else x.restart) with
    remembered := f.used c ++ List.replicate (8 - c.cells.length) .good }

theorem heard_service (x : Deck) (c : CalEntry) (f : Sample) : (x.heard c f).service = x.service := by
  unfold Deck.heard
  split
  · rfl
  · rfl

/-- The weights of the cells in use (R7). -/
def Sample.weights (f : Sample) (c : CalEntry) : List Int := List.zipWith (fun k v => cellGrams k v.1) c.cells f.cells

/-- The deck with the frame's weights taken (R9-R13), and its clearance run begun where an auto cause stands (R19). -/
def Deck.weighed (x : Deck) (c : CalEntry) (f : Sample) (now : Nat) : Deck :=
  ({ x with
    badCells := false
    clearance := if x.clearance.isRunning = false ∧ (x.causes.linkLoss = true ∨ x.causes.cellFault = true) then
      .running (now + 20000) else x.clearance } : Deck).take c (f.weights c).sum

/-- The deck with a bad cell in use (R8, R19). -/
def Deck.bad (x : Deck) : Deck :=
  { x with badCells := true, status := .noData, published := none, clearance := .stopped }

/-- The deck whose entry has failed its parity check (R6). -/
def Deck.entryFailed (x : Deck) : Deck :=
  ({ x with cal := x.cal.map fun c => { c with damaged := true }
            zd := none, sampleTimer := .stopped, lastSeq := none } : Deck).restart.endRun

section
variable {p : Part} {d : DeckId} (hi : p.inFlightOn d = none)
include hi

theorem trackSequence_idle (c : CalEntry) (seq : Nat) : p.trackSequence d c seq =
    p.modDeck d fun x => x.sequenced c seq p.clock.running := by
  unfold Part.trackSequence
  dsimp only
  by_cases hn : 3 < missing (p.deck d).lastSeq seq
  · rw [if_pos hn, windowRestart_idle _ _ (by rw [inFlightOn_modDeck]; exact hi), modDeck_modDeck, modDeck_modDeck,
      modDeck_modDeck]
    refine modDeck_congr _ _ _ _ ?_
    unfold Deck.sequenced
    rw [if_pos hn]
    rfl
  · rw [if_neg hn, modDeck_modDeck]
    refine modDeck_congr _ _ _ _ ?_
    unfold Deck.sequenced
    rw [if_neg hn]
    rfl

theorem channelFrame_heard {slot : CalSlot} (hk : slot.parityOk = true) (f : Sample) :
    let q := p.modDeck d fun x => x.heard slot.entry f
    p.channelFrame d slot f = if (f.used slot.entry).all fun st => decide (st = .good) then
      (q.goodSample d slot.entry f, true) else (q.badFrame d, false) := by
  have hq : ((if f.used slot.entry ≠ (p.deck d).remembered.take slot.entry.cells.length then p.windowRestart d
      else p).modDeck d fun x => { x with
        remembered := f.used slot.entry ++ List.replicate (8 - slot.entry.cells.length) .good }) =
      p.modDeck d fun x => x.heard slot.entry f := by
    by_cases hu : (p.deck d).remembered.take slot.entry.cells.length = f.used slot.entry
    · rw [if_neg (not_not_intro hu.symm)]
      refine modDeck_congr _ _ _ _ ?_
      unfold Deck.heard
      rw [if_pos hu]
    · rw [if_pos (Ne.symm hu), windowRestart_idle _ _ hi, modDeck_modDeck]
      refine modDeck_congr _ _ _ _ ?_
      unfold Deck.heard
      rw [if_neg hu]
  unfold Part.channelFrame
  rw [if_neg (by rw [hk]; decide)]
  dsimp only
  rw [← hq]
  rfl

theorem measureStep_idle (c : CalEntry) : p.measureStep d c = p := by
  unfold Part.measureStep
  split
  · next x w hx _ =>
    split
    · rfl
    · next st hst =>
      refine if_neg fun hd => ?_
      have hn : x.inFlight = none := by
        unfold Part.inFlightOn at hi
        rw [hx] at hi
        simpa [hd] using hi
      rw [hn] at hst
      cases hst
  · rfl

theorem badFrame_idle : p.badFrame d = (p.modDeck d Deck.bad).raiseCause d .cellFault := by
  unfold Part.badFrame
  have hn : (p.modDeck d Deck.bad).inFlightOn d = none := by rw [inFlightOn_modDeck]; exact hi
  show Part.raiseCause (if ((p.modDeck d Deck.bad).inFlightOn d).isSome then
    (p.modDeck d Deck.bad).completeStep none else p.modDeck d Deck.bad) d .cellFault = _
  rw [hn]
  rfl

theorem entryParityFailure_idle : p.entryParityFailure d =
    ((p.modDeck d Deck.entryFailed).raiseCause d .tableParity).notify (.parity (.deck d)) := by
  unfold Part.entryParityFailure
  dsimp only
  rw [windowRestart_idle _ _ (by rw [inFlightOn_modDeck]; exact hi), modDeck_modDeck, modDeck_modDeck]
  rfl

end

/-! ## The zero tracking of a good sample -/

/-- A good sample, in the part as it stands before its zero tracking. -/
def Part.tracked (p : Part) (d : DeckId) (c : CalEntry) : Part :=
  if (p.deck d).status = .stable then (p.trackZero d c).measureStep d c else p

theorem goodSample_eq (p : Part) (d : DeckId) (c : CalEntry) (f : Sample) : p.goodSample d c f =
    ((p.modDeck d fun x => x.weighed c f p.clock.running).relay d f.seq (f.weights c) (f.weights c).sum).tracked d c := rfl

section
variable {p : Part} {d : DeckId} {c : CalEntry} (hi : p.inFlightOn d = none)
include hi

theorem tracked_still (h : c.tracking = false ∨ (p.deck d).service ≠ .trade ∨ (p.deck d).status ≠ .stable) :
    p.tracked d c = p := by
  unfold Part.tracked
  by_cases hs : (p.deck d).status = .stable
  · have ht : ¬ (c.tracking = true ∧ (p.deck d).service = .trade) := by
      rintro ⟨a, b⟩
      rcases h with h | h | h
      · rw [a] at h; cases h
      · exact h b
      · exact h hs
    have hz : p.trackZero d c = p := by
      unfold Part.trackZero
      dsimp only
      split
      · exact if_neg fun k => ht ⟨k.1, k.2.1⟩
      · rfl
    rw [if_pos hs, hz, measureStep_idle hi]
  · rw [if_neg hs]

variable {w : Published} {z : Int} (ht : c.tracking = true) (hservice : (p.deck d).service = .trade)
  (hstable : (p.deck d).status = .stable) (hv : p.visit (laneOf d) = none) (hw : (p.deck d).published = some w)
  (hz : (p.deck d).zd = some z)
include ht hservice hstable hv hw hz

omit ht hservice hv in
theorem tracked_far (h : 500 * (c.e : Int) < |w.filtered - z|) : p.tracked d c = p := by
  unfold Part.tracked
  have hzero : p.trackZero d c = p := by
    unfold Part.trackZero
    dsimp only
    rw [hw, hz]
    refine if_neg ?_
    rintro ⟨-, -, -, hnear⟩
    rw [Int.abs_eq_natAbs] at h
    omega
  rw [if_pos hstable, hzero, measureStep_idle hi]

omit hi hservice hstable in
theorem trackZero_near (hservice : (p.deck d).service = .trade) (h : |w.filtered - z| ≤ 500 * (c.e : Int)) :
    p.trackZero d c = if c.inZeroRange w.filtered then p.modDeck d fun y => { y with zd := some w.filtered }
      else p.raiseCause d .zeroRange := by
  unfold Part.trackZero
  dsimp only
  rw [hw, hz]
  refine if_pos ⟨ht, hservice, by rw [hv]; rfl, ?_⟩
  rw [Int.abs_eq_natAbs] at h
  omega

theorem tracked_within (h : |w.filtered - z| ≤ 500 * (c.e : Int))
    (hr : 100 * |w.filtered - 1000 * c.zcal| ≤ c.zeroRange * (1000 * c.capacity)) :
    p.tracked d c = p.modDeck d fun y => { y with zd := some w.filtered } := by
  have hin : c.inZeroRange w.filtered = true := by
    unfold CalEntry.inZeroRange
    rw [decide_eq_true_eq]
    rw [Int.abs_eq_natAbs] at hr
    have hmul : (c.zeroRange : Int) * (1000 * c.capacity) = 1000 * ((c.zeroRange * c.capacity : Nat) : Int) := by
      push_cast
      ring
    rw [hmul] at hr
    omega
  unfold Part.tracked
  rw [if_pos hstable, trackZero_near ht hv hw hz hservice h, if_pos hin,
    measureStep_idle (by rw [inFlightOn_modDeck]; exact hi)]

omit hi in
theorem tracked_outside (h : |w.filtered - z| ≤ 500 * (c.e : Int))
    (hr : (c.zeroRange : Int) * (1000 * c.capacity) < 100 * |w.filtered - 1000 * c.zcal|) :
    p.tracked d c = (p.raiseCause d .zeroRange).measureStep d c := by
  have hout : ¬ c.inZeroRange w.filtered = true := by
    unfold CalEntry.inZeroRange
    rw [decide_eq_true_eq]
    rw [Int.abs_eq_natAbs] at hr
    have hmul : (c.zeroRange : Int) * (1000 * c.capacity) = 1000 * ((c.zeroRange * c.capacity : Nat) : Int) := by
      push_cast
      ring
    rw [hmul] at hr
    omega
  unfold Part.tracked
  rw [if_pos hstable, trackZero_near ht hv hw hz hservice h, if_neg hout]

end

/-! ## The relay to the monitor -/

theorem relay_other {p : Part} {d : DeckId} (h : ∀ m, p.monitor.selection = some m → m.1 ≠ d) (seq : Nat)
    (cells : List Int) (raw : Int) : p.relay d seq cells raw = p := by
  unfold Part.relay
  split
  · rfl
  · next e n hm => exact if_pos (h _ hm)

section
variable {p : Part} {d : DeckId} {m : Nat} (h : p.monitor.selection = some (d, m))
include h

theorem relay_counts (hn : p.monitor.count + 1 < m) (seq : Nat) (cells : List Int) (raw : Int) :
    p.relay d seq cells raw = { p with monitor := ⟨some (d, m), p.monitor.count + 1⟩ } := by
  unfold Part.relay
  rw [h]
  dsimp only
  rw [if_neg (not_not_intro rfl), if_pos hn]

theorem relay_sends (hn : m ≤ p.monitor.count + 1) (seq : Nat) (cells : List Int) (raw : Int) :
    p.relay d seq cells raw = { p with
      monitor := ⟨some (d, m), 0⟩
      link := { p.link with monitorSlot := some {
        deck := d, seq := seq, gapCount := (p.deck d).gapCount, cells := cells, raw := raw
        displayed := ((p.deck d).published.map (·.displayed)).getD 0, status := (p.deck d).status } } } := by
  unfold Part.relay
  rw [h]
  dsimp only
  rw [if_neg (not_not_intro rfl), if_neg (not_lt.mpr hn)]

end

/-! ## A cause that joins a deck of an idle lane -/

/-- The deck `y` in the place of deck `d` of an idle lane, once a cause has joined its set (R142-R145, R36). -/
theorem raiseCause_idle {p : Part} {d : DeckId} (h : p.tradesIdle d) (hs : p.settingsSettled) {y : Deck} {c : DeckCause}
    (hservice : y.service = .trade) (hc : y.causes.has c = false) :
    let r := (p.modDeck d fun _ => y).raiseCause d c
    p.faultsDeck r d y (y.causes.add c) ∧
      r.link = p.told [.laneState (laneOf d) .fault { LaneCauses.empty with deckFault := true },
        .deckService d .trade .fault (y.causes.add c)] ∧
      r.visit (laneOf d) = none ∧ r.settingsSettled ∧ r.inFlightOn d = none := by
  obtain ⟨-, hflight, hv, hcauses, hstate⟩ := h
  have hdeck : (p.modDeck d fun _ => y).deck d = y := deck_modDeck_self p d _
  have idle : (p.modDeck d fun _ => y).tradesIdle d := ⟨by rw [hdeck]; exact hservice, hflight, hv, hcauses, hstate⟩
  obtain ⟨hfaults, hlink, hvisit, hadopted, -⟩ := raiseCause_trade _ d c idle (by rw [hdeck]; exact hc)
  rw [hdeck] at hfaults hlink
  obtain ⟨h1, h2, h3, h4, h5, haudit, hclock, h8, h9, htables⟩ := hfaults
  refine ⟨⟨h1, fun e he => ?_, h3, h4, h5, haudit, hclock, h8, h9, htables⟩, hlink, hvisit,
    settled_of hs htables (hadopted .l0) (hadopted .l1), ?_⟩
  · rw [h2 e he, deck_modDeck, if_neg he]
  · unfold Part.inFlightOn
    rw [haudit]
    exact hflight

theorem raiseCause_has {p : Part} {d : DeckId} {c : DeckCause} (h : (p.deck d).causes.has c = true) :
    p.raiseCause d c = p := if_pos h

/-! ## The frame at its deck channel -/

/-- A frame that is valid for deck `d` with the entry `c` (R1). -/
structure Part.hears (p : Part) (d : DeckId) (wire : List Byte) (f : Sample) (c : CalEntry) : Prop where
  running : p.phase = .running
  parsed : parseSample wire = some f
  node : f.node = c.node
  deck : f.deck = d.val
  cells : c.cells.length ≤ f.cells.length
  fresh : (p.deck d).lastSeq ≠ some f.seq
  noVisit : p.visit (laneOf d) = none
  noStep : p.inFlightOn d = none

section
variable {s : State} {d : DeckId} {wire : List Byte} {f : Sample} {c : CalEntry}
  (h : s.toPart.hears d wire f c)
include h

/-- The part after the sequence tracking. -/
theorem sampleFrame_channel {k : Bool} (hcal : (s.toPart.deck d).cal = some ⟨c, k, false⟩) {r : Part}
    (hr : ((s.toPart.modDeck d fun x => x.sequenced c f.seq s.clock.running).channelFrame d ⟨c, k, false⟩ f).1 = r)
    (hv : r.visit (laneOf d) = none) (hs : r.settingsSettled) : endsAs (.sampleFrame d wire) s r := by
  refine endsAs_run (.sampleFrame d wire) s (fun p => p.sampleFrame d wire) r rfl ?_ hs
  have hacc : (s.toPart.deck d).accepts d c f = true := decide_eq_true ⟨h.node, h.deck, h.cells, h.fresh⟩
  unfold Part.sampleFrame
  rw [hcal, h.parsed]
  dsimp only
  rw [if_pos ⟨h.running, rfl, hacc⟩, trackSequence_idle h.noStep, hr]
  exact laneReact_noVisit r d _ _ hv

/-- The deck of a part as it has been heard, sequence and cell statuses (R2, R5). -/
def Deck.heardFrame (x : Deck) (c : CalEntry) (f : Sample) (now : Nat) : Deck := (x.sequenced c f.seq now).heard c f

theorem sampleFrame_good (hcal : (s.toPart.deck d).cal = some ⟨c, true, false⟩) (hgood : ∀ st ∈ f.used c, st = .good)
    {r : Part} (hr : ((s.toPart.modDeck d fun x => (x.heardFrame c f s.clock.running).weighed c f s.clock.running).relay d
      f.seq (f.weights c) (f.weights c).sum).tracked d c = r)
    (hv : r.visit (laneOf d) = none) (hs : r.settingsSettled) : endsAs (.sampleFrame d wire) s r := by
  refine sampleFrame_channel h hcal ?_ hv hs
  have hall : ((f.used c).all fun st => decide (st = .good)) = true := by
    rw [List.all_eq_true]
    exact fun st hst => decide_eq_true (hgood st hst)
  have hi : (s.toPart.modDeck d fun x => x.sequenced c f.seq s.clock.running).inFlightOn d = none := by
    rw [inFlightOn_modDeck]
    exact h.noStep
  rw [channelFrame_heard hi rfl f, if_pos hall]
  dsimp only
  rw [goodSample_eq, modDeck_modDeck, modDeck_modDeck]
  exact hr

theorem sampleFrame_bad (hcal : (s.toPart.deck d).cal = some ⟨c, true, false⟩) (hbad : ∃ st ∈ f.used c, st ≠ .good)
    {r : Part} (hr : (s.toPart.modDeck d fun x => (x.heardFrame c f s.clock.running).bad).raiseCause d .cellFault = r)
    (hv : r.visit (laneOf d) = none) (hs : r.settingsSettled) : endsAs (.sampleFrame d wire) s r := by
  refine sampleFrame_channel h hcal ?_ hv hs
  have hall : ¬ ((f.used c).all fun st => decide (st = .good)) = true := by
    obtain ⟨st, hst, hne⟩ := hbad
    rw [List.all_eq_true]
    exact fun k => hne (of_decide_eq_true (k st hst))
  have hi : (s.toPart.modDeck d fun x => x.sequenced c f.seq s.clock.running).inFlightOn d = none := by
    rw [inFlightOn_modDeck]
    exact h.noStep
  rw [channelFrame_heard hi rfl f, if_neg hall]
  dsimp only
  rw [badFrame_idle (by rw [inFlightOn_modDeck]; exact hi), modDeck_modDeck, modDeck_modDeck]
  exact hr

theorem sampleFrame_failing (hcal : (s.toPart.deck d).cal = some ⟨c, false, false⟩) {r : Part}
    (hr : ((s.toPart.modDeck d fun x => (x.sequenced c f.seq s.clock.running).entryFailed).raiseCause d .tableParity).notify
      (.parity (.deck d)) = r)
    (hv : r.visit (laneOf d) = none) (hs : r.settingsSettled) : endsAs (.sampleFrame d wire) s r := by
  refine sampleFrame_channel h hcal ?_ hv hs
  have hi : (s.toPart.modDeck d fun x => x.sequenced c f.seq s.clock.running).inFlightOn d = none := by
    rw [inFlightOn_modDeck]
    exact h.noStep
  unfold Part.channelFrame
  rw [if_pos rfl]
  dsimp only
  rw [entryParityFailure_idle hi, modDeck_modDeck]
  exact hr

end

theorem settled_modDeck {p : Part} (h : p.settingsSettled) (d : DeckId) (f : Deck → Deck) :
    (p.modDeck d f).settingsSettled := settled_of h rfl rfl rfl

/-- Settles O23: the stages of the deck channel make `heardFrame`, then `weighed`, `bad` or `entryFailed` of the deck; the
relay and the zero tracking add their rows, and a cause that joins is `raiseCause_idle`. -/
theorem goodSampleTaken : Obligations.GoodSampleTaken := by
  intro d wire f c s hs hrun hparse hnode hdeckId hcells hfresh hvisit hflight
  have h : s.toPart.hears d wire f c := ⟨hrun, hparse, hnode, hdeckId, hcells, hfresh, hvisit, hflight⟩
  intro used n sequenced valid x
  refine ⟨fun hcal hgood => ?_, fun hcal hbad => ?_, fun hcal => ?_⟩
  · intro cells y q still
    have hq : (s.toPart.modDeck d fun x => (x.heardFrame c f s.clock.running).weighed c f s.clock.running) = q := rfl
    have hy : q.deck d = y := deck_modDeck_self _ _ _
    have hqs : q.settingsSettled := settled_modDeck hs d _
    have hqi : q.inFlightOn d = none := hflight
    have hqv : q.visit (laneOf d) = none := hvisit
    have ends : ∀ {r : Part}, (q.relay d f.seq (f.weights c) (f.weights c).sum).tracked d c = r →
        r.visit (laneOf d) = none → r.settingsSettled → endsAs (.sampleFrame d wire) s r :=
      fun hr hv hs' => sampleFrame_good h hcal hgood hr hv hs'
    have hqset : ∀ g : Deck → Deck, q.modDeck d g = s.toPart.modDeck d fun _ => g y := fun g => modDeck_modDeck _ _ _ _
    have hstill : ∀ {r : Part}, r.deck d = q.deck d → r.inFlightOn d = none → still → r.tracked d c = r :=
      fun hd hi hst => tracked_still hi (by rw [hd, hy]; exact hst)
    refine ⟨fun hother => ?_, fun m hm hst => ⟨fun hn => ?_, fun hn => ?_⟩⟩
    · have hrelay : q.relay d f.seq (f.weights c) (f.weights c).sum = q := relay_other (p := q) hother _ _ _
      rw [hrelay] at ends
      refine ⟨fun hst => ends (hstill rfl hqi hst) hqv hqs, fun w z ht hservice hstable hw hz => ⟨fun hfar => ?_,
        fun hnear => ⟨fun hin => ?_, fun hout idle hzero => ?_⟩⟩⟩
      · exact ends (tracked_far hqi (by rw [hy]; exact hstable) (by rw [hy]; exact hw) (by rw [hy]; exact hz) hfar) hqv hqs
      · refine ends ((tracked_within hqi ht (by rw [hy]; exact hservice) (by rw [hy]; exact hstable) hqv
          (by rw [hy]; exact hw) (by rw [hy]; exact hz) hnear hin).trans (hqset _)) hvisit (settled_modDeck hs d _)
      · obtain ⟨hfaults, hlink, hrv, hrs, hri⟩ := raiseCause_idle (c := .zeroRange) idle hs hservice hzero
        refine ⟨_, ends ?_ hrv hrs, hfaults, hlink⟩
        rw [tracked_outside ht (by rw [hy]; exact hservice) (by rw [hy]; exact hstable) hqv (by rw [hy]; exact hw)
          (by rw [hy]; exact hz) hnear hout]
        exact measureStep_idle hri c
    · rw [relay_counts (p := q) hm hn] at ends
      exact ends (hstill rfl hqi hst) hvisit hqs
    · rw [relay_sends (p := q) hm hn, hy] at ends
      exact ends (hstill rfl hqi hst) hvisit hqs
  · intro y
    have hy : y = ((s.toPart.deck d).heardFrame c f s.clock.running).bad := rfl
    refine ⟨fun hhas => ?_, fun hnot idle => ?_⟩
    · exact sampleFrame_bad h hcal hbad (raiseCause_has (by rw [deck_modDeck_self]; exact hhas)) hvisit
        (settled_modDeck hs d _)
    · have hservice : y.service = .trade :=
        (heard_service _ c f).trans ((sequenced_keeps _ c f.seq s.clock.running).1.trans idle.1)
      obtain ⟨hfaults, hlink, hrv, hrs, -⟩ := raiseCause_idle (c := .cellFault) idle hs hservice hnot
      exact ⟨_, sampleFrame_bad h hcal hbad rfl hrv hrs, hfaults, hlink⟩
  · intro x y
    obtain ⟨hkeeps, hcalKeeps⟩ := sequenced_keeps (s.toPart.deck d) c f.seq s.clock.running
    have hy : ((s.toPart.deck d).sequenced c f.seq s.clock.running).entryFailed = y := by
      unfold Deck.entryFailed
      rw [hcalKeeps, hcal]
      rfl
    have failing := fun {r : Part} => sampleFrame_failing h hcal (r := r)
    rw [modDeck_congr s.toPart d (fun x => (x.sequenced c f.seq s.clock.running).entryFailed) (fun _ => y) hy] at failing
    refine ⟨fun hhas => ?_, fun hnot idle => ?_⟩
    · refine failing (congrArg (Part.notify · (.parity (.deck d))) ?_) hvisit (settled_modDeck hs d fun _ => y)
      exact raiseCause_has (by rw [deck_modDeck_self]; exact hhas)
    · have hservice : y.service = .trade := by
        rw [← hy]
        exact hkeeps.trans idle.1
      obtain ⟨hfaults, hlink, hrv, hrs, -⟩ := raiseCause_idle (c := .tableParity) idle hs hservice hnot
      refine ⟨_, failing rfl hrv (settled_notify hrs _), hfaults, ?_⟩
      have ⟨_, _, _, _, _, _, hclock, _⟩ := hfaults
      exact (congrArg₂ (fun k n => (({ s.toPart with link := k, clock := n } : Part).notify (.parity (.deck d))).link)
        hlink hclock).trans (told_concat s.toPart [_, _] _).symm

end Sys2Proof.Machine
end

section
/-! PROOFS. The barriers' supervision (R31, R32): the timer that follows the driven command, and a change of the switches. -/

namespace Sys2Proof.Machine

/-- The command that follows the wanted one is satisfied where the wanted one is: a deferred lowering is not. -/
theorem at_follow (c : Barrier) (wanted : BarrierCommand) (blocked : Bool) :
    c.at (c.follow wanted blocked) = true ↔ wanted = .raise ∧ c.position = .up ∨ wanted = .lower ∧ c.position = .down := by
  by_cases hd : wanted = .lower ∧ blocked = true ∧ c.position ≠ .down
  · obtain ⟨hw, -, hp⟩ := id hd
    rw [follow_of_deferred c hd, at_iff, hw]
    simp [hp]
  · rw [follow_of_not_deferred c hd, at_iff]

theorem reaches_eq (b c : Barrier) (wanted : BarrierCommand) (blocked : Bool) : b.reaches c wanted blocked =
    decide (c.position ≠ b.position ∧
      (wanted = .raise ∧ c.position = .up ∨ wanted = .lower ∧ c.position = .down)) := by
  unfold Barrier.reaches
  rw [Bool.eq_iff_iff, Bool.and_eq_true, decide_eq_true_eq, decide_eq_true_eq, at_follow]

/-- R31, R32 for one barrier, as the end of a step drives it. -/
theorem drive_supervised (b : Barrier) (wanted : BarrierCommand) (blocked : Bool) (limit : Timer) :
    let d := b.drive wanted blocked limit
    d.up = b.up ∧ d.down = b.down ∧
    (d.driven = b.driven → d.timer = b.timer) ∧
    (d.driven ≠ b.driven → d.driven = .stop ∨ b.at d.driven = true → d.timer = .stopped) ∧
    (d.driven ≠ b.driven → d.driven ≠ .stop → b.at d.driven = false → d.timer = limit) ∧
    d.failed = b.failed := by
  unfold Barrier.drive
  dsimp only
  refine ⟨rfl, rfl, fun h => if_pos h, fun h hs => ?_, fun h hs ha => ?_, rfl⟩
  · rw [if_neg h, if_neg]
    rintro ⟨hne, hat⟩
    rcases hs with hs | hs
    · exact hne hs
    · rw [hs] at hat
      cases hat
  · rw [if_neg h, if_pos ⟨hs, ha⟩]

/-- The barrier `b` whose switches have changed to `up` and `down` (R31, R32). -/
def Barrier.switched (b : Barrier) (up down : Bool) (wanted : BarrierCommand) (limit : Timer) : Barrier :=
  let n : Barrier := { b with up := up, down := down }
  let c : Barrier := { n with failed := b.failed && !decide (n.position ≠ b.position ∧
    (wanted = .raise ∧ n.position = .up ∨ wanted = .lower ∧ n.position = .down)) }
  { c with timer := if c.at b.driven then .stopped else if b.at b.driven then limit else b.timer }

theorem moveLimit_modEnd (p : Part) (l : LaneId) (e : LaneEnd) (f : EndState → EndState) :
    (p.modEnd l e f).moveLimit l = p.moveLimit l := by
  unfold Part.moveLimit
  rw [settings_modEnd]
  rfl

theorem switchChange_running {p : Part} (hs : p.settingsSettled) (hr : p.phase = .running) (l : LaneId) (e : LaneEnd)
    (up down : Bool) : p.switchChange l e up down = p.modEnd l e fun x =>
      { x with barrier := x.barrier.switched up down (p.wanted l e) (p.moveLimit l) } := by
  unfold Part.switchChange
  dsimp only
  rw [if_neg (not_not_intro hr), reaches_eq, checkLane_settled _ _ (settings_settled (settled_modEnd hs l e _) l),
    modEnd_modEnd, moveLimit_modEnd]
  split
  · next hat =>
    refine modEnd_congr _ _ _ _ _ ?_
    unfold Barrier.switched
    dsimp only
    rw [if_pos hat]
  · next hat =>
    split
    · next hleft =>
      refine modEnd_congr _ _ _ _ _ ?_
      unfold Barrier.switched
      dsimp only
      rw [if_neg hat, if_pos hleft]
    · next hleft =>
      refine modEnd_congr _ _ _ _ _ ?_
      unfold Barrier.switched
      dsimp only
      rw [if_neg hat, if_neg hleft]

/-- Settles O28: `drive_supervised` and `switchChange_running`. -/
theorem barrierSupervision : Obligations.BarrierSupervision := by
  refine ⟨drive_supervised, ?_⟩
  intro l e up down s hs hr b c reached
  exact endsAs_run (.barrierSwitchChange l e up down) s (fun p => p.switchChange l e up down) _ rfl
    ((switchChange_running hs hr l e up down).trans (modEnd_congr _ _ _ _ _ rfl)) (settled_modEnd hs l e _)

end Sys2Proof.Machine
end

section
/-! PROOFS. The course of a visit as its events move it (R59-R61, R67, R69): the settle timer, the entry that completes,
and the abort of a visit on the decks. -/

namespace Sys2Proof.Machine

/-! ## Settings in use and changes of a lane -/

theorem settings_same {p q : Part} {l : LaneId} (ht : q.tables = p.tables)
    (ha : (q.lane l).adoptedActive = (p.lane l).adoptedActive) : q.settings l = p.settings l := by
  unfold Part.settings Part.adopted
  rw [ht, ha]

theorem settings_modLane (p : Part) (l : LaneId) {f : Lane → Lane} (hf : ∀ x, (f x).adoptedActive = x.adoptedActive) :
    (p.modLane l f).settings l = p.settings l :=
  settings_same rfl (by rw [lane_modLane_self]; exact hf _)

theorem modLane_id (p : Part) (l : LaneId) {f : Lane → Lane} (h : f (p.lane l) = p.lane l) : p.modLane l f = p := by
  unfold Part.modLane Part.setLane
  rw [h]
  cases l <;> rfl

/-- Settings stay settled where one lane alone changes, and not what it has adopted. -/
theorem settled_oneLane {p q : Part} (h : p.settingsSettled) (l : LaneId) (ht : q.tables = p.tables)
    (hl : (q.lane l).adoptedActive = (p.lane l).adoptedActive) (ho : q.lane l.other = p.lane l.other) :
    q.settingsSettled := by
  refine settled_lane h ht fun m => ?_
  cases l <;> cases m
  · exact hl
  · exact congrArg Lane.adoptedActive ho
  · exact congrArg Lane.adoptedActive ho
  · exact hl

theorem visitState_of {p : Part} {l : LaneId} {v : Visit} (h : p.visit l = some v) : p.visitState l = some v.state := by
  unfold Part.visitState
  rw [h]
  rfl

theorem laneEnd_eq (p : Part) (l : LaneId) (e : LaneEnd) : p.laneEnd l e = (p.lane l).ends.get e := rfl

/-! ## The settle timer (R61) -/

/-- The three decks of the lane are STABLE, and no blocked beam keeps its latch. -/
def Part.settlesOn (p : Part) (l : LaneId) : Prop :=
  (∀ d ∈ l.decks, (p.deck d).status = .stable) ∧ ∀ m, ((p.laneEnd l m).beamLatch && (p.laneEnd l m).beamLevel) = false

theorem settleRestart_eq {p : Part} {l : LaneId} {v : Visit} (h : p.visit l = some v) :
    p.settleRestart l = p.modLane l fun x => x.resettles v .stopped := by
  have hv : (p.lane l).visit = some v := h
  unfold Part.settleRestart
  refine modLane_congr _ _ _ _ ?_
  unfold Lane.resettles
  dsimp only
  rw [hv]
  rfl

theorem settleCondition_iff (p : Part) (l : LaneId) : p.settleCondition l = true ↔
    (∀ d ∈ l.decks, (p.deck d).status = .stable) ∧ ∀ m, (p.laneEnd l m).beamLatch = false := by
  unfold Part.settleCondition
  rw [Bool.and_eq_true, Bool.and_eq_true, List.all_eq_true]
  simp only [decide_eq_true_eq, Bool.not_eq_true']
  constructor
  · rintro ⟨⟨hd, ha⟩, hb⟩
    refine ⟨hd, fun m => ?_⟩
    cases m with
    | a => exact ha
    | b => exact hb
  · rintro ⟨hd, hm⟩
    exact ⟨⟨hd, hm .a⟩, hm .b⟩

/-- The settle timer stays as it is where it runs, or the settle condition does not hold. -/
theorem settleTry_waits {p : Part} {l : LaneId} (h : ¬ ((p.lane l).settleTimer = .stopped ∧ p.settleCondition l = true)) :
    p.settleTry l = p := if_neg fun k => h k.2

/-- The settle timer starts. -/
theorem settleTry_starts {p : Part} {l : LaneId} {v : Visit} (hs : p.settingsSettled) (hv : p.visit l = some v)
    (hst : v.state = .settling) (ht : (p.lane l).settleTimer = .stopped) (hc : p.settleCondition l = true) :
    p.settleTry l = p.modLane l fun x => { x with
      settleTimer := .running (p.clock.running + 10 * (p.settings l).settleTime) } := by
  have hvs : p.visitState l = some .settling := (visitState_of hv).trans (congrArg some hst)
  unfold Part.settleTry
  rw [if_pos ⟨hvs, ht, hc⟩, checkLane_id hs]
  exact if_pos hvs

section
variable {p : Part} {l : LaneId} {v : Visit} (hv : p.visit l = some v)
include hv

theorem settleRestart_condition : (p.settleRestart l).settleCondition l = true ↔ p.settlesOn l := by
  rw [settleRestart_eq hv, settleCondition_iff]
  refine and_congr_right fun _ => forall_congr' fun m => ?_
  rw [laneEnd_eq, lane_modLane_self]
  cases m <;> rfl

theorem resettle_waits (h : ¬ p.settlesOn l) :
    (p.settleRestart l).settleTry l = p.modLane l fun x => x.resettles v .stopped := by
  rw [settleTry_waits fun k => h ((settleRestart_condition hv).mp k.2), settleRestart_eq hv]

theorem resettle_starts (hs : p.settingsSettled) (hst : v.state = .settling) (h : p.settlesOn l) :
    (p.settleRestart l).settleTry l = p.modLane l fun x => x.resettles v
      (.running (p.clock.running + 10 * (p.settings l).settleTime)) := by
  have hc := (settleRestart_condition hv).mpr h
  rw [settleRestart_eq hv] at hc ⊢
  have hset : (p.modLane l fun x => x.resettles v .stopped).settings l = p.settings l :=
    settings_modLane p l (f := fun x => x.resettles v .stopped) fun _ => rfl
  have hq : (p.modLane l fun x => x.resettles v .stopped).settingsSettled :=
    settled_modLane hs l (fun x => x.resettles v .stopped) fun _ => rfl
  have hvq : (p.modLane l fun x => x.resettles v .stopped).visit l = some { v with storeWait := false } := by
    unfold Part.visit
    rw [lane_modLane_self]
    rfl
  rw [settleTry_starts hq hvq hst (by rw [lane_modLane_self]; rfl) hc, hset, modLane_modLane]
  rfl

/-! ## The entry that completes (R59, R60) -/

/-- The lane whose visit enters SETTLING, before its settle timer restarts. -/
def Lane.settling (x : Lane) (v : Visit) : Lane := { x with visit := some { v with state := .settling }, quietTimer := .stopped }

theorem enterSettling_eq : p.enterSettling l =
    let q := (p.modLane l fun x => x.settling v).settleRestart l
    if q.anyOver l then q.abortVisit l .deckOver else q.settleTry l := by
  have hl : (p.lane l).visit = some v := hv
  have hq : (p.modLane l fun x => { x with
      visit := x.visit.map fun v => { v with state := .settling }, quietTimer := .stopped }) =
      p.modLane l fun x => x.settling v := by
    refine modLane_congr _ _ _ _ ?_
    unfold Lane.settling
    rw [hl]
    rfl
  unfold Part.enterSettling
  dsimp only
  rw [hq]

omit hv in
theorem visit_settling : (p.modLane l fun x => x.settling v).visit l = some { v with state := .settling } := by
  unfold Part.visit
  rw [lane_modLane_self]
  rfl

omit hv in
theorem settlesOn_settling : (p.modLane l fun x => x.settling v).settlesOn l ↔ p.settlesOn l := by
  refine and_congr_right fun _ => forall_congr' fun m => ?_
  rw [laneEnd_eq, lane_modLane_self]
  exact Iff.rfl

omit hv in
theorem anyOver_iff (p : Part) (l : LaneId) : p.anyOver l = true ↔ ∃ d ∈ l.decks, (p.deck d).status = .over := by
  unfold Part.anyOver
  rw [List.any_eq_true]
  simp only [decide_eq_true_eq]

/-- The lane whose visit has entered SETTLING, with its settle timer. -/
def Lane.completed (x : Lane) (v : Visit) (t : Timer) : Lane :=
  ({ x with quietTimer := .stopped } : Lane).resettles { v with state := .settling } t

omit hv in
theorem anyOver_settling (hno : ∀ d ∈ l.decks, (p.deck d).status ≠ .over) :
    ((p.modLane l fun x => x.settling v).settleRestart l).anyOver l = false := by
  rw [settleRestart_eq visit_settling, Bool.eq_false_iff, ne_eq, anyOver_iff]
  rintro ⟨d, hd, ho⟩
  exact hno d hd ho

theorem enterSettling_waits (hno : ∀ d ∈ l.decks, (p.deck d).status ≠ .over) (h : ¬ p.settlesOn l) :
    p.enterSettling l = p.modLane l fun x => x.completed v .stopped := by
  rw [enterSettling_eq hv]
  dsimp only
  rw [anyOver_settling hno, resettle_waits visit_settling fun k => h (settlesOn_settling.mp k), modLane_modLane]
  rfl

theorem enterSettling_starts (hs : p.settingsSettled) (hno : ∀ d ∈ l.decks, (p.deck d).status ≠ .over)
    (h : p.settlesOn l) : p.enterSettling l = p.modLane l fun x => x.completed v
      (.running (p.clock.running + 10 * (p.settings l).settleTime)) := by
  have hset : (p.modLane l fun x => x.settling v).settings l = p.settings l :=
    settings_modLane p l (f := fun x => x.settling v) fun _ => rfl
  rw [enterSettling_eq hv]
  dsimp only
  rw [anyOver_settling hno, resettle_starts visit_settling (settled_modLane hs l (fun x => x.settling v) fun _ => rfl) rfl
      (settlesOn_settling.mpr h), hset, modLane_modLane]
  rfl

/-- A deck that is OVER aborts the visit that enters SETTLING (R60, R69). -/
theorem enterSettling_over (hover : ∃ d ∈ l.decks, (p.deck d).status = .over) :
    let q := p.enterSettling l
    q = { p with lanes := q.lanes, link := q.link, pairing := q.pairing } ∧
      q.lane l = ((p.lane l).completed v .stopped).aborts v .deckOver (p.clearsFrom l) ∧ p.releases q v ∧
      q.link = p.told [.visitAborted l v.count v.vehicle v.kind .deckOver] ∧ q.lane l.other = p.lane l.other := by
  set r := p.modLane l fun x => x.completed v .stopped with hr
  have hsettle : (p.modLane l fun x => x.settling v).settleRestart l = r := by
    rw [settleRestart_eq visit_settling, modLane_modLane]
    rfl
  have hrv : r.visit l = some { v with state := .settling, storeWait := false } := by
    unfold Part.visit
    rw [hr, lane_modLane_self]
    rfl
  obtain ⟨hsame, hlane, hreleases, hlink, hother⟩ := abortVisit_facts r l _ .deckOver hrv (.inr (.inl rfl))
  have hclears : r.clearsFrom l = p.clearsFrom l := by
    unfold Part.clearsFrom
    rw [laneEnd_eq, laneEnd_eq, hr, lane_modLane_self]
    rfl
  have hq : p.enterSettling l = r.abortVisit l .deckOver := by
    rw [enterSettling_eq hv, hsettle]
    exact if_pos ((anyOver_iff r l).mpr hover)
  dsimp only
  rw [hq]
  refine ⟨?_, ?_, hreleases, hlink, ?_⟩
  · rw [hsame]
    rfl
  · rw [hlane, hclears, hr, lane_modLane_self]
    rfl
  · rw [hother, hr, lane_modLane_other]

end

/-- The entry completes (R59). -/
theorem tryEnterSettling_completes {p : Part} {l : LaneId} {v : Visit} (hv : p.visit l = some v)
    (hst : v.state = .entering) (ha : (p.lane l).axles ≠ []) (hb : (p.laneEnd l v.entry).beamLevel = false)
    (hq : (p.lane l).quietTimer = .expired) : p.tryEnterSettling l = p.enterSettling l := by
  unfold Part.tryEnterSettling
  rw [hv]
  exact if_pos ⟨hst, ha, hb, hq⟩

theorem tryEnterSettling_waits {p : Part} {l : LaneId} {v : Visit} (hv : p.visit l = some v)
    (h : (p.lane l).axles = [] ∨ (p.laneEnd l v.entry).beamLevel = true ∨ (p.lane l).quietTimer ≠ .expired) :
    p.tryEnterSettling l = p := by
  unfold Part.tryEnterSettling
  rw [hv]
  refine if_neg ?_
  rintro ⟨-, ha, hb, hq⟩
  rcases h with h | h | h
  · exact ha h
  · exact absurd (h.symm.trans hb) (by decide)
  · exact h hq

/-! ## The beams (R25, R26) -/

theorem beamChange_running {p : Part} (hs : p.settingsSettled) (hr : p.phase = .running) {l : LaneId} {e : LaneEnd}
    {blocked : Bool} (hraw : (p.laneEnd l e).beamRaw ≠ blocked) :
    p.beamChange l e blocked = p.modEnd l e fun x => { x with
      beamRaw := blocked
      debounce := if blocked = x.beamLevel then .stopped
        else .running (p.clock.running + 10 * (p.settings l).debounce) } := by
  unfold Part.beamChange
  dsimp only
  rw [if_neg hraw, if_neg (not_not_intro hr), checkLane_id (settled_modEnd hs l e _), settings_modEnd]
  split
  · next hb =>
    rw [modEnd_modEnd]
    refine modEnd_congr _ _ _ _ _ ?_
    dsimp only
    rw [if_pos hb]
  · next hb =>
    rw [modEnd_modEnd]
    refine modEnd_congr _ _ _ _ _ ?_
    dsimp only
    rw [if_neg hb]
    rfl

/-- A beam event changes nothing in a visit that is not on the decks, or is held there. -/
theorem beamEvent_idle {p : Part} {l : LaneId} {v : Visit} (hv : p.visit l = some v) (e : LaneEnd) (blocked : Bool)
    (h : v.state = .identify ∨ v.state = .consignWait ∨ v.state = .held) : p.beamEvent l e blocked = p := by
  unfold Part.beamEvent
  rw [hv]
  dsimp only
  rcases h with h | h | h <;> rw [h]

theorem beamEvent_entering {p : Part} {l : LaneId} {v : Visit} (hv : p.visit l = some v) (e : LaneEnd) (blocked : Bool)
    (h : v.state = .entering) : p.beamEvent l e blocked =
      if blocked = false ∧ e = v.entry then p.tryEnterSettling l else p := by
  unfold Part.beamEvent
  rw [hv]
  dsimp only
  rw [h]

theorem beamEvent_settling {p : Part} {l : LaneId} {v : Visit} (hv : p.visit l = some v) (e : LaneEnd) (blocked : Bool)
    (h : v.state = .settling) : p.beamEvent l e blocked = (p.settleRestart l).settleTry l := by
  unfold Part.beamEvent
  rw [hv]
  dsimp only
  rw [h]

/-- A beam event of a visit that leaves: the clear timer runs while both beams are CLEAR (R67). -/
theorem beamEvent_leaving {p : Part} {l : LaneId} {v : Visit} (hv : p.visit l = some v) (e : LaneEnd) (blocked : Bool)
    (h : v.state = .exiting ∨ v.state = .clearing) : p.beamEvent l e blocked = p.modLane l fun x => { x with
      clearTimer := if blocked then .stopped else if p.beamsClear l then p.start clearTime else x.clearTimer } := by
  unfold Part.beamEvent
  rw [hv]
  dsimp only
  rcases h with h | h <;> rw [h]

theorem beamsClear_iff (p : Part) (l : LaneId) : p.beamsClear l = true ↔ ∀ m, (p.laneEnd l m).beamLevel = false := by
  unfold Part.beamsClear
  rw [Bool.and_eq_true, Bool.not_eq_true', Bool.not_eq_true']
  constructor
  · rintro ⟨ha, hb⟩ m
    cases m with
    | a => exact ha
    | b => exact hb
  · exact fun h => ⟨h .a, h .b⟩

theorem beamsClear_of_ends {p : Part} {l : LaneId} {e : LaneEnd} (he : (p.laneEnd l e).beamLevel = false) :
    p.beamsClear l = !(p.laneEnd l e.other).beamLevel := by
  unfold Part.beamsClear
  cases e with
  | a =>
    rw [he]
    rfl
  | b =>
    rw [he]
    exact Bool.and_true _

/-- The settle condition in the words of the obligations: a blocked beam keeps its latch. -/
theorem not_settlesOn {p : Part} {l : LaneId} (h : ¬ (∀ d ∈ l.decks, (p.deck d).status = .stable) ∨
    ∃ m, (p.laneEnd l m).beamLevel = true ∧ (p.laneEnd l m).beamLatch = true) : ¬ p.settlesOn l := by
  rintro ⟨hd, hm⟩
  rcases h with h | ⟨m, hlevel, hlatch⟩
  · exact h hd
  · have := hm m
    rw [hlevel, hlatch] at this
    cases this

theorem settlesOn_of_clear {p : Part} {l : LaneId} (hd : ∀ d ∈ l.decks, (p.deck d).status = .stable)
    (hm : ∀ m, (p.laneEnd l m).beamLevel = false) : p.settlesOn l :=
  ⟨hd, fun m => by rw [hm m, Bool.and_false]⟩

/-- Settles O27: `beamChange_running` for the raw level, and one row of `beamEvent` for each state of the visit. -/
theorem beamLevelDebounces : Obligations.BeamLevelDebounces := by
  intro l e s hs
  refine ⟨fun blocked hr hraw => endsAs_run (.beamLevelChange l e blocked) s (fun p => p.beamChange l e blocked) _ rfl
    (beamChange_running hs hr hraw) (settled_modEnd hs l e _), fun deadline ht => ?_⟩
  intro blocked p ends stable settles
  have hps : p.settingsSettled := settled_modEnd (settled_elapse hs _) l e _
  have hset : p.settings l = s.toPart.settings l := settings_modEnd _ _ _ _ _
  have hvisit : p.visit l = s.toPart.visit l := visit_modEnd _ _ _ _ _
  have hlevel : (p.laneEnd l e).beamLevel = blocked := by
    rw [laneEnd_modEnd_self]
    rfl
  have haxles : (p.lane l).axles = (s.toPart.lane l).axles ∧ (p.lane l).quietTimer = (s.toPart.lane l).quietTimer := by
    cases l <;> cases e <;> exact ⟨rfl, rfl⟩
  have hother : p.lane l.other = s.toPart.lane l.other := lane_modLane_other _ _ _
  have run : ∀ {q : Part}, p.beamEvent l e blocked = q → q.settingsSettled → ends q := fun hq hqs =>
    endsAs_run (.beamDebounceExpiry l e) s (fun p => p.expire (p.laneEnd l e).debounce (·.debounceExpiry l e)) _ rfl
      ((expire_running ht _).trans hq) hqs
  refine ⟨fun hv => run ?_ hps, fun v hv => ?_⟩
  · unfold Part.beamEvent
    rw [hvisit, hv]
  · have hv' : p.visit l = some v := hvisit.trans hv
    refine ⟨fun h => run (beamEvent_idle hv' e blocked h) hps, fun h => ?_, fun h => ?_, fun h => ?_⟩
    · rw [beamEvent_entering hv' e blocked h] at run
      refine ⟨fun hidle => run ?_ hps, fun hb he ha hq => ?_⟩
      · rcases hidle with hb | hne | hrest
        · exact if_neg fun k => absurd (k.1.symm.trans hb) (by decide)
        · exact if_neg fun k => hne k.2
        · rw [tryEnterSettling_waits hv', ite_self]
          rw [haxles.1, haxles.2]
          exact hrest.imp_right .inr
      · have hlevel' : (p.laneEnd l v.entry).beamLevel = false := by
          rw [← he, hlevel]
          exact hb
        rw [if_pos ⟨hb, he⟩, tryEnterSettling_completes hv' h (by rw [haxles.1]; exact ha) hlevel'
          (by rw [haxles.2]; exact hq)] at run
        intro completed
        refine ⟨fun hno => ⟨fun hnot => ?_, fun hst hm => ?_⟩, fun hover => ?_⟩
        · exact run (enterSettling_waits hv' hno (not_settlesOn hnot)) (settled_modLane hps l _ fun _ => rfl)
        · refine run ((enterSettling_starts hv' hps hno (settlesOn_of_clear hst hm)).trans ?_)
            (settled_modLane hps l (fun x => completed x settles) fun _ => rfl)
          rw [hset]
          rfl
        · obtain ⟨hsame, hlane, hreleases, hlink, hoth⟩ := enterSettling_over hv' hover
          refine ⟨_, run rfl ?_, hlane, hreleases, hlink, hoth.trans hother, ?_, ?_⟩
          · exact settled_oneLane hps l (by rw [hsame]) (by rw [hlane]; rfl) hoth
          · rw [hsame]
            rfl
          · rw [hsame]
            rfl
    · rw [beamEvent_settling hv' e blocked h] at run
      refine ⟨fun hnot => ?_, fun hst hm => ?_⟩
      · exact run (resettle_waits hv' (not_settlesOn hnot)) (settled_modLane hps l (fun x => x.resettles v .stopped) fun _ => rfl)
      · refine run ((resettle_starts hv' hps h (settlesOn_of_clear hst hm)).trans ?_)
          (settled_modLane hps l (fun x => x.resettles v settles) fun _ => rfl)
        rw [hset]
    · have clears : ∀ t, (if blocked then .stopped else if p.beamsClear l then p.start clearTime
          else (p.lane l).clearTimer) = t → p.beamEvent l e blocked = p.modLane l fun x => { x with clearTimer := t } :=
        fun t k => (beamEvent_leaving hv' e blocked h).trans
          (modLane_congr _ _ _ _ (congrArg (fun t => { p.lane l with clearTimer := t }) k))
      refine ⟨fun hb => run (clears _ (if_pos hb)) (settled_modLane hps l _ fun _ => rfl), fun hb => ?_⟩
      have hclear : p.beamsClear l = !(p.laneEnd l e.other).beamLevel := beamsClear_of_ends (hlevel.trans hb)
      rw [if_neg (by rw [hb]; decide), hclear] at clears
      refine ⟨fun ho => run ((clears (p.lane l).clearTimer ?_).trans (modLane_id p l rfl)) hps,
        fun ho => run (clears _ ?_) (settled_modLane hps l _ fun _ => rfl)⟩
      · rw [ho]
        rfl
      · rw [ho]
        rfl

end Sys2Proof.Machine
end

section
/-! PROOFS. A good sample of a deck whose lane holds a visit, and the quiet timer of a visit in ENTERING (R59-R61). -/

namespace Sys2Proof.Machine

/-! ## A good sample under a visit -/

theorem mem_decks_laneOf (d : DeckId) : d ∈ (laneOf d).decks := by
  revert d
  decide

/-- Under a visit no zero is tracked (R17). -/
theorem tracked_visited {p : Part} {d : DeckId} (hi : p.inFlightOn d = none) {v : Visit}
    (hv : p.visit (laneOf d) = some v) (c : CalEntry) : p.tracked d c = p := by
  have hz : p.trackZero d c = p := by
    unfold Part.trackZero
    dsimp only
    split
    · refine if_neg ?_
      rintro ⟨-, -, hn, -⟩
      rw [hv] at hn
      cases hn
    · rfl
  unfold Part.tracked
  rw [hz, measureStep_idle hi, ite_self]

/-- A good sample, not relayed, of a deck whose lane holds a visit: the lane reacts to the sampled deck. -/
theorem sampleFrame_visited {p : Part} {d : DeckId} {wire : List Byte} {f : Sample} {c : CalEntry} {v : Visit}
    (hr : p.phase = .running) (hv : p.visit (laneOf d) = some v) (hi : p.inFlightOn d = none)
    (hcal : (p.deck d).cal = some ⟨c, true, false⟩) (hparse : parseSample wire = some f) (hnode : f.node = c.node)
    (hdeck : f.deck = d.val) (hcells : c.cells.length ≤ f.cells.length) (hfresh : (p.deck d).lastSeq ≠ some f.seq)
    (hgood : ∀ k ∈ f.cells.take c.cells.length, k.2 = .good) (hother : ∀ m, p.monitor.selection = some m → m.1 ≠ d) :
    p.sampleFrame d wire = (p.modDeck d fun _ => p.sampled d c f).laneReact d true (p.deck d).status := by
  have hacc : (p.deck d).accepts d c f = true := decide_eq_true ⟨hnode, hdeck, hcells, hfresh⟩
  have hall : ((f.used c).all fun st => decide (st = .good)) = true := by
    rw [List.all_eq_true]
    intro st hst
    obtain ⟨k, hk, rfl⟩ := List.mem_map.mp hst
    exact decide_eq_true (hgood k hk)
  have hseq : (p.modDeck d fun x => x.sequenced c f.seq p.clock.running).inFlightOn d = none := by
    rw [inFlightOn_modDeck]
    exact hi
  unfold Part.sampleFrame
  rw [hcal, hparse]
  dsimp only
  rw [if_pos ⟨hr, rfl, hacc⟩, trackSequence_idle hi, channelFrame_heard hseq rfl f, if_pos hall]
  dsimp only
  rw [goodSample_eq, modDeck_modDeck, modDeck_modDeck]
  show (((p.modDeck d fun _ => p.sampled d c f).relay d f.seq (f.weights c) (f.weights c).sum).tracked d c).laneReact d
    true (p.deck d).status = _
  rw [relay_other (p := p.modDeck d fun _ => p.sampled d c f) hother,
    tracked_visited (p := p.modDeck d fun _ => p.sampled d c f) hi hv]

theorem heard_cal (x : Deck) (c : CalEntry) (f : Sample) : (x.heard c f).cal = x.cal := by
  unfold Deck.heard
  split
  · rfl
  · rfl

theorem sampled_status {p : Part} {d : DeckId} {c : CalEntry} (hcal : (p.deck d).cal = some ⟨c, true, false⟩) (f : Sample) :
    (p.sampled d c f).status ≠ .noData := by
  set y := (((p.deck d).sequenced c f.seq p.clock.running).heard c f).weighed c f p.clock.running with hy
  have hycal : y.cal = some ⟨c, true, false⟩ := by
    exact (heard_cal _ c f).trans ((sequenced_keeps (p.deck d) c f.seq p.clock.running).2.trans hcal)
  have hbad : y.badCells = false := rfl
  have hstatus : y.status = y.evaluate := rfl
  have hpub : ∃ w, y.published = some w := ⟨_, rfl⟩
  obtain ⟨w, hw⟩ := hpub
  show y.status ≠ .noData
  rw [hstatus]
  by_cases hover : c.overload < w.displayed
  · rw [evaluate_over hycal hbad hw hover]
    decide
  · rw [evaluate_within hycal hbad hw (not_lt.mp hover)]
    split
    · decide
    · decide

/-- The lane of a visit in SETTLING reacts to its deck (R60, R61). -/
theorem laneReact_settling {p : Part} {d : DeckId} {v : Visit} (hv : p.visit (laneOf d) = some v)
    (hst : v.state = .settling) (good : Bool) (before : WeightStatus) : p.laneReact d good before =
      if (p.deck d).status = .over then p.abortVisit (laneOf d) .deckOver
      else (if (p.deck d).status = .stable then p else p.settleRestart (laneOf d)).settleTry (laneOf d) := by
  unfold Part.laneReact
  dsimp only
  rw [visitState_of hv, hst]

/-! ## The quiet timer -/

/-- The visit of `p` whose quiet timer has expired. -/
def Part.quieted (p : Part) (l : LaneId) : Part := p.modLane l fun x => { x with quietTimer := .expired }

theorem settlesOn_quieted {p : Part} {l : LaneId} : (p.quieted l).settlesOn l ↔ p.settlesOn l := by
  refine and_congr_right fun _ => forall_congr' fun m => ?_
  rw [laneEnd_eq]
  unfold Part.quieted
  rw [lane_modLane_self]
  exact Iff.rfl

/-- Settles O37: `laneReact_settling` for a sample, and the rows of `enterSettling` for the timer. -/
theorem quietTimerSettles : Obligations.QuietTimerSettles := by
  refine ⟨?_, ?_⟩
  · intro d wire f c v s hs hr hv hst hi hcal hparse hnode hdeck hcells hfresh hgood hother l y q starts
    have hq : s.toPart.sampleFrame d wire = q.laneReact d true (s.toPart.deck d).status :=
      sampleFrame_visited hr hv hi hcal hparse hnode hdeck hcells hfresh hgood hother
    have hy : q.deck d = y := deck_modDeck_self _ _ _
    have hqs : q.settingsSettled := settled_modDeck hs d _
    have hqv : q.visit l = some v := hv
    rw [laneReact_settling hqv hst, hy] at hq
    have run : ∀ {r : Part}, s.toPart.sampleFrame d wire = r → r.settingsSettled → endsAs (.sampleFrame d wire) s r :=
      fun k ks => endsAs_run (.sampleFrame d wire) s (fun p => p.sampleFrame d wire) _ rfl k ks
    refine ⟨fun hy => ?_, fun hy => ?_, fun hy hno => ?_, fun hy hstarts => ?_, sampled_status hcal f⟩
    · rw [if_pos hy] at hq
      obtain ⟨hsame, hlane, hreleases, hlink, hoth⟩ := abortVisit_facts q l v .deckOver hqv (.inr (.inl hst))
      refine ⟨_, run hq (settled_oneLane hqs l (by rw [hsame]) (by rw [hlane]; rfl) hoth), hlane, hreleases, hlink, ?_,
        hoth, ?_⟩
      · rw [hsame]
      · rw [hsame]
        rfl
    · rw [if_neg (by rw [hy]; decide), if_neg (by rw [hy]; decide)] at hq
      refine run (hq.trans (resettle_waits hqv ?_)) (settled_modLane hqs l (fun x => x.resettles v .stopped) fun _ => rfl)
      rintro ⟨hd, -⟩
      have hstable := hd d (mem_decks_laneOf d)
      rw [deck_modDeck_self] at hstable
      exact absurd (hy.symm.trans hstable) (by decide)
    · rw [if_neg (by rw [hy]; decide), if_pos hy] at hq
      refine run (hq.trans (settleTry_waits fun k => hno ?_)) hqs
      obtain ⟨hstopped, hcond⟩ := k
      obtain ⟨hd, hm⟩ := (settleCondition_iff q l).mp hcond
      exact ⟨hstopped, hd, hm⟩
    · rw [if_neg (by rw [hy]; decide), if_pos hy] at hq
      obtain ⟨hstopped, hd, hm⟩ := hstarts
      exact run (hq.trans (settleTry_starts hqs hqv hst hstopped ((settleCondition_iff q l).mpr ⟨hd, hm⟩)))
        (settled_modLane hqs l _ fun _ => rfl)
  · intro l v deadline s hs hv hst ht p settling
    have hps : p.settingsSettled := settled_elapse hs _
    have hrs : (p.quieted l).settingsSettled := settled_modLane hps l _ fun _ => rfl
    have hrv : (p.quieted l).visit l = some v := by
      unfold Part.visit Part.quieted
      rw [lane_modLane_self]
      exact hv
    have hlane : (p.quieted l).lane l = { s.toPart.lane l with quietTimer := .expired } := lane_modLane_self _ _ _
    have run : ∀ {r : Part}, (p.quieted l).tryEnterSettling l = r → r.settingsSettled → endsAs (.quietTimerExpiry l) s r :=
      fun k ks => endsAs_run (.quietTimerExpiry l) s (fun p => p.expire (p.lane l).quietTimer fun q =>
        (q.modLane l fun x => { x with quietTimer := .expired }).tryEnterSettling l) _ rfl ((expire_running ht _).trans k) ks
    have hend : ∀ m, (p.quieted l).laneEnd l m = s.toPart.laneEnd l m := fun m => by
      rw [laneEnd_eq, hlane]
      rfl
    have modified : ∀ t, ((p.quieted l).modLane l fun x => x.completed v t) = settling t := fun t => modLane_modLane _ _ _ _
    have completes (ha : (s.toPart.lane l).axles ≠ []) (hb : (s.toPart.laneEnd l v.entry).beamLevel = false) :
        (p.quieted l).tryEnterSettling l = (p.quieted l).enterSettling l := by
      refine tryEnterSettling_completes hrv hst ?_ ?_ ?_
      · rw [hlane]
        exact ha
      · rw [hend]
        exact hb
      · rw [hlane]
    refine ⟨fun hwait => run (tryEnterSettling_waits hrv ?_) hrs, fun ha hb hover => ?_, fun ha hb hno => ?_⟩
    · rw [hlane, hend]
      exact hwait.imp_right .inl
    · have hother : (p.quieted l).lane l.other = s.toPart.lane l.other := lane_modLane_other _ _ _
      obtain ⟨hsame, hover', hreleases, hlink, hoth⟩ := enterSettling_over hrv hover
      have hclears : (p.quieted l).clearsFrom l = p.clearsFrom l := by
        unfold Part.clearsFrom
        rw [hend, hend]
        rfl
      rw [hlane, hclears] at hover'
      refine ⟨_, run (completes ha hb) (settled_oneLane hrs l (by rw [hsame]) (by rw [hover', hlane]; rfl) hoth),
        hover', hreleases, hlink, hoth.trans hother, ?_, ?_⟩
      · rw [hsame]
        rfl
      · rw [hsame]
        rfl
    · have hno' : ∀ d ∈ l.decks, ((p.quieted l).deck d).status ≠ .over := hno
      have hset : (p.quieted l).settings l = s.toPart.settings l := settings_modLane p l fun _ => rfl
      refine ⟨fun ⟨d, hd, hunstable⟩ => ?_, fun hstable hbeamA hbeamB => ?_⟩
      · have hwaits := enterSettling_waits hrv hno' fun k => hunstable (k.1 d hd)
        exact run ((completes ha hb).trans (hwaits.trans (modified _))) (settled_modLane hps l _ fun _ => rfl)
      · have hstarts := enterSettling_starts hrv hrs hno' (settlesOn_of_clear hstable fun m => by
          rw [hend]
          cases m
          · exact hbeamA
          · exact hbeamB)
        rw [hset] at hstarts
        exact run ((completes ha hb).trans (hstarts.trans (modified _))) (settled_modLane hps l _ fun _ => rfl)

end Sys2Proof.Machine
end


section
/-! PROOFS. The treadles: the latch of an edge, the rows of the pass decoder, and a treadle fault (R24, R75, R76). -/

namespace Sys2Proof.Machine

/-- What an end does with the event that its decoder has completed, if any. -/
def Part.decoded (p : Part) (l : LaneId) (e : LaneEnd) : Option Decoded → Part
  | none => p
  | some ev => p.dispose l e ev

/-- The decoder of an end takes an edge of a lane whose settings are settled (R75). -/
theorem decodeEdge_settled {p : Part} (hs : p.settingsSettled) (l : LaneId) (e : LaneEnd) (line : Treadle) (stamp : Nat) :
    p.decodeEdge l e line stamp =
      let r := (p.laneEnd l e).decoder.edge line stamp (10 * (p.settings l).window)
      (p.modEnd l e fun x => { x with decoder := r.2 }).decoded l e r.1 := by
  unfold Part.decodeEdge Part.decoded
  dsimp only
  rw [checkLane_id hs, ite_self] <;> rfl

theorem decoder_setLatch (x : EndState) (v : Option Nat) (line : Treadle) : (x.setLatch v line).decoder = x.decoder := by
  cases line with
  | t1 => rfl
  | t2 => rfl

theorem latch_setLatch_self (x : EndState) (v : Option Nat) (line : Treadle) : (x.setLatch v line).latch line = v := by
  cases line with
  | t1 => rfl
  | t2 => rfl

theorem setLatch_setLatch (x : EndState) (v w : Option Nat) (line : Treadle) :
    (x.setLatch v line).setLatch w line = x.setLatch w line := by
  cases line with
  | t1 => rfl
  | t2 => rfl

/-- A latch that holds nothing stands unchanged when it is cleared. -/
theorem setLatch_none_of_empty {x : EndState} {line : Treadle} (h : x.latch line = none) : x.setLatch none line = x := by
  cases line with
  | t1 => exact congrArg (fun v => { x with latch1 := v }) h.symm
  | t2 => exact congrArg (fun v => { x with latch2 := v }) h.symm

/-! ## The rows of the decoder -/

theorem edge_idle (line : Treadle) (stamp window : Nat) :
    Decoder.idle.edge line stamp window = (none, .hold line stamp (stamp + window)) := rfl

theorem edge_again (line : Treadle) (held expiry stamp window : Nat) :
    (Decoder.hold line held expiry).edge line stamp window = (some .fault, .hold line stamp (stamp + window)) := by
  cases line with
  | t1 => rfl
  | t2 => rfl

theorem edge_late {line other : Treadle} (hne : other ≠ line) {expiry stamp : Nat} (h : expiry < stamp) (held window : Nat) :
    (Decoder.hold other held expiry).edge line stamp window = (some .fault, .hold line stamp (stamp + window)) := by
  cases other with
  | t1 =>
    cases line with
    | t1 => exact absurd rfl hne
    | t2 => exact if_neg (Nat.not_le.mpr h)
  | t2 =>
    cases line with
    | t1 => exact if_neg (Nat.not_le.mpr h)
    | t2 => exact absurd rfl hne

theorem edge_pass {line other : Treadle} (hne : other ≠ line) {expiry stamp : Nat} (h : stamp ≤ expiry) (held window : Nat) :
    (Decoder.hold other held expiry).edge line stamp window =
      (some (if line = .t2 then .inward held stamp else .outward stamp held), .idle) := by
  cases other with
  | t1 =>
    cases line with
    | t1 => exact absurd rfl hne
    | t2 => exact if_pos h
  | t2 =>
    cases line with
    | t1 => exact if_pos h
    | t2 => exact absurd rfl hne

/-! ## Latches -/

/-- The axle screen takes a latch: its decoder takes the edge (R75). -/
theorem takeLatch_edge {p : Part} (hs : p.settingsSettled) {l : LaneId} {e : LaneEnd} {line : Treadle} {stamp : Nat}
    (hl : (p.laneEnd l e).latch line = some stamp) : p.takeLatch l e line =
      let r := (p.laneEnd l e).decoder.edge line stamp (10 * (p.settings l).window)
      (p.modEnd l e fun x => { x.setLatch none line with decoder := r.2 }).decoded l e r.1 := by
  unfold Part.takeLatch
  rw [hl]
  dsimp only
  rw [decodeEdge_settled (settled_modEnd hs l e _), laneEnd_modEnd_self, decoder_setLatch, settings_modEnd]
  dsimp only
  rw [modEnd_modEnd]

/-- An idle decoder holds the edge that its screen takes. -/
theorem takeLatch_idle {p : Part} (hs : p.settingsSettled) {l : LaneId} {e : LaneEnd} {line : Treadle} {stamp : Nat}
    (hl : (p.laneEnd l e).latch line = some stamp) (hd : (p.laneEnd l e).decoder = .idle) : p.takeLatch l e line =
      p.modEnd l e fun x => { x.setLatch none line with decoder := .hold line stamp (stamp + 10 * (p.settings l).window) } := by
  rw [takeLatch_edge hs hl, hd]
  rfl

/-- An edge that does not pair with the one held is a fault and is held itself (R75). -/
theorem takeLatch_fault {p : Part} (hs : p.settingsSettled) {l : LaneId} {e : LaneEnd} {line held : Treadle}
    {stamp first expiry : Nat} (hl : (p.laneEnd l e).latch line = some stamp)
    (hd : (p.laneEnd l e).decoder = .hold held first expiry) (h : held = line ∨ expiry < stamp) : p.takeLatch l e line =
      (p.modEnd l e fun x => { x.setLatch none line with
        decoder := .hold line stamp (stamp + 10 * (p.settings l).window) }).dispose l e .fault := by
  have hedge : (p.laneEnd l e).decoder.edge line stamp (10 * (p.settings l).window) =
      (some .fault, .hold line stamp (stamp + 10 * (p.settings l).window)) := by
    rw [hd]
    by_cases hsame : held = line
    · rw [hsame]
      exact edge_again ..
    · exact edge_late hsame (h.resolve_left hsame) ..
  rw [takeLatch_edge hs hl, hedge]
  rfl

theorem markInvalid_none {p : Part} {l : LaneId} (h : ∀ v, p.visit l = some v → v.state.beforeCapture = false) :
    p.markInvalid l = p := by
  unfold Part.markInvalid Part.visitState
  cases hv : p.visit l with
  | none => rfl
  | some v =>
    dsimp only [Option.map]
    rw [h v hv]
    exact if_neg Bool.false_ne_true

theorem markInvalid_some {p : Part} {l : LaneId} {v : Visit} (hv : p.visit l = some v) (h : v.state.beforeCapture = true) :
    p.markInvalid l = p.modLane l fun x => { x with axleInvalid := true } := by
  unfold Part.markInvalid Part.visitState
  rw [hv]
  exact if_pos h

/-- TREADLE_EDGE of a running controller. -/
theorem treadleEdge_endsAs (l : LaneId) (e : LaneEnd) (line : Treadle) (wait : Nat) (taken : Bool) {s : State} {q : Part}
    (hr : s.phase = .running)
    (hq : (if taken then ((s.toPart.elapse wait).latchEdge l e line).takeLatch l e line
      else (s.toPart.elapse wait).latchEdge l e line) = q) (hqs : q.settingsSettled) :
    endsAs (.treadleEdge l e line wait taken) s q :=
  endsAs_run (.treadleEdge l e line wait taken) s (fun p =>
    let q := p.elapse wait
    if q.phase ≠ .running then q
    else
      let r := q.latchEdge l e line
      if taken then r.takeLatch l e line else r) _ rfl
    ((if_neg (not_not.mpr hr)).trans hq) hqs

/-- Settles O30: the latch of an edge by `Part.latchEdge`, the screen by `takeLatch_idle`, and the rows of
`Decoder.edge`. -/
theorem treadleEdgesAndDecoder : Obligations.TreadleEdgesAndDecoder := by
  refine ⟨?_, ?_⟩
  · intro l e line wait s hs hr p hold
    have hps : p.settingsSettled := settled_elapse hs wait
    have latched (h : (s.toPart.laneEnd l e).latch line = none) : p.latchEdge l e line =
        p.modEnd l e fun x => x.setLatch (some p.clock.running) line := by
      unfold Part.latchEdge
      rw [show (p.laneEnd l e).latch line = none from h]
      rfl
    refine ⟨fun h => ?_, fun h => ?_, fun h hd => ?_, fun stamp h hd => ?_⟩
    · exact treadleEdge_endsAs l e line wait false hr (latched h) (settled_modEnd hps l e _)
    · have overrun : p.latchEdge l e line = p.markInvalid l := by
        obtain ⟨t, ht⟩ := Option.ne_none_iff_exists'.mp h
        unfold Part.latchEdge
        rw [show (p.laneEnd l e).latch line = some t from ht]
      refine ⟨fun v hv hb => ?_, fun hno => ?_⟩
      · exact treadleEdge_endsAs l e line wait false hr (overrun.trans (markInvalid_some hv hb))
          (settled_modLane hps l _ fun _ => rfl)
      · exact treadleEdge_endsAs l e line wait false hr (overrun.trans (markInvalid_none hno)) hps
    · set q := p.modEnd l e fun x => x.setLatch (some p.clock.running) line with hq
      have hqs : q.settingsSettled := settled_modEnd hps l e _
      have hlatch : (q.laneEnd l e).latch line = some p.clock.running := by
        rw [hq, laneEnd_modEnd_self, latch_setLatch_self]
      have hidle : (q.laneEnd l e).decoder = .idle := by
        rw [hq, laneEnd_modEnd_self, decoder_setLatch]
        exact hd
      have hset : q.settings l = s.toPart.settings l := settings_modEnd p l e _ l
      have hcleared : ((p.laneEnd l e).setLatch (some p.clock.running) line).setLatch none line = p.laneEnd l e := by
        rw [setLatch_setLatch]
        exact setLatch_none_of_empty h
      refine treadleEdge_endsAs l e line wait true hr ?_ (settled_modEnd hps l e _)
      rw [if_pos rfl, latched h, takeLatch_idle hqs hlatch hidle, hset, hq, modEnd_modEnd]
      exact modEnd_congr _ _ _ _ _ (congrArg (fun x => { x with decoder := hold p.clock.running }) hcleared)
    · exact endsAs_run (.treadleLatchTaken l e line) s (fun p => p.takeLatch l e line) _ rfl (takeLatch_idle hs h hd)
        (settled_modEnd hs l e _)
  · intro line other held expiry stamp window
    exact ⟨edge_idle .., edge_again .., fun hne h => edge_late hne h .., fun hne h => edge_pass hne h ..⟩

/-! ## Treadle faults -/

/-- The window expiry of a held edge of a lane whose settings are settled (R75). -/
theorem windowExpiry_holding {p : Part} (hs : p.settingsSettled) {l : LaneId} {e : LaneEnd} {line : Treadle}
    {stamp expiry : Nat} (hd : (p.laneEnd l e).decoder = .hold line stamp expiry) : p.windowExpiry l e =
      ((p.reach expiry).modEnd l e fun x => { x with decoder := .idle }).dispose l e .fault := by
  unfold Part.windowExpiry
  rw [hd]
  dsimp only
  rw [checkLane_id (show (p.reach expiry).settingsSettled from settled_elapse hs _), ite_self]

theorem beforeCapture_iff (st : VisitState) : st.beforeCapture = true ↔ st ∈ [.identify, .consignWait, .entering, .settling] := by
  cases st <;> decide

/-- Settles O31: each command disposes of a fault, whose rows `dispose_fault` gives. -/
theorem windowExpiryIsFault : Obligations.WindowExpiryIsFault := by
  unfold Obligations.WindowExpiryIsFault
  intro faults
  have rows {c : Instr} {s : State} {q : Part} {l : LaneId} {e : LaneEnd} (hqs : q.settingsSettled)
      (hv : q.visit l = s.toPart.visit l) (hset : q.settings l = s.toPart.settings l)
      (run : ∀ {r : Part}, q.dispose l e .fault = r → r.settingsSettled → endsAs c s r) : faults c s q l e := by
    obtain ⟨hnone, hsome⟩ := dispose_fault q l e
    rw [hv] at hnone hsome
    rw [hset] at hsome
    refine ⟨fun h => run (hnone h) hqs, fun v h => ?_⟩
    obtain ⟨hafter, hentering, hmarked, hexit⟩ := hsome v h
    exact ⟨fun hb => run (hafter hb) hqs,
      fun he hst => run (hentering he hst) (settled_modLane hqs l _ fun _ => rfl),
      fun he hst => run (hmarked he hst) (settled_modLane hqs l _ fun _ => rfl),
      fun he hb => run (hexit he hb) (settled_modLane hqs l _ fun _ => rfl)⟩
  refine ⟨beforeCapture_iff, ?_, ?_⟩
  · intro l e line stamp expiry s hs hd
    have hps : (s.toPart.reach expiry).settingsSettled := settled_elapse hs _
    exact rows (settled_modEnd hps l e _) (visit_modEnd ..) (settings_modEnd ..) fun hq hqs =>
      endsAs_run (.windowExpiry l e) s (fun p => p.windowExpiry l e) _ rfl ((windowExpiry_holding hs hd).trans hq) hqs
  · intro l e line held stamp first expiry s hs hd hl h
    exact rows (settled_modEnd hs l e _) (visit_modEnd ..) (settings_modEnd ..) fun hq hqs =>
      endsAs_run (.treadleLatchTaken l e line) s (fun p => p.takeLatch l e line) _ rfl
        ((takeLatch_fault hs hl hd h).trans hq) hqs

end Sys2Proof.Machine
end


section
/-! PROOFS. The passes of axles: what an inward pass appends, what an outward one withdraws, and the rows of the
disposition of a pass (R77-R85). -/

namespace Sys2Proof.Machine

/-! ## Rounding halves up -/

theorem half_up_bounds (n : Nat) {d : Nat} (hd : 0 < d) :
    2 * d * ((2 * n + d) / (2 * d)) ≤ 2 * n + d ∧ 2 * n < 2 * d * ((2 * n + d) / (2 * d)) + d := by
  have hsplit := Nat.div_add_mod (2 * n + d) (2 * d)
  have hlt := Nat.mod_lt (2 * n + d) (y := 2 * d) (by omega)
  omega

/-- R77: the speed of a pass. -/
theorem passSpeed_bounds (spacing : Nat) {passTime : Nat} (h : 0 < passTime) : ∃ w, passSpeed spacing passTime = some w ∧
    2 * passTime * w ≤ 720 * spacing + passTime ∧ 720 * spacing < 2 * passTime * w + passTime := by
  refine ⟨_, if_neg h.ne', ?_⟩
  obtain ⟨hle, hlt⟩ := half_up_bounds (360 * spacing) h
  rw [← Nat.mul_assoc] at hle hlt ⊢
  exact ⟨hle, hlt⟩

theorem roundHalfAway_natCast (n d : Nat) : (roundHalfAway n d).toNat = (2 * n + d) / (2 * d) := by
  unfold roundHalfAway
  rw [if_pos (Int.natCast_nonneg n)]
  rfl

/-- R80: the spacing measured from an axle's own pass. -/
theorem passSpacing_bounds (spacing t2 previous : Nat) {passTime : Nat} (h : 0 < passTime) :
    ∃ w, passSpacing spacing t2 previous passTime = some (min 65535 w) ∧
      2 * passTime * w ≤ 2 * spacing * (t2 - previous) + passTime ∧
      2 * spacing * (t2 - previous) < 2 * passTime * w + passTime := by
  refine ⟨(2 * (spacing * (t2 - previous)) + passTime) / (2 * passTime), ?_, ?_⟩
  · unfold passSpacing
    rw [if_neg h.ne', roundHalfAway_natCast]
  · rw [Nat.mul_assoc 2 spacing]
    exact half_up_bounds _ h

theorem stampDiff_of_le {a b : Nat} (h : a ≤ b) : stampDiff a b = b - a := if_pos h

/-! ## The axle that an inward pass appends (R79, R80) -/

/-- The axle that an inward pass of a lane `x` appends. -/
def Lane.nextAxle (x : Lane) (s : LaneEntry) (total : Option Int) (t1 t2 : Nat) : Axle :=
  let v := passSpeed s.spacing (stampDiff t1 t2)
  { index := x.axles.length + 1, t1 := t1, t2 := t2, speed := v, offBand := offBand v s.speedMin s.speedMax
    spacing := (appendSpacing x.axles x.withdrawn s.spacing t2 (stampDiff t1 t2)).1
    total := total, step := none, scaled := none, group := none }

/-- The lane after an inward pass at its entry end (R79, R81). -/
def Lane.appended (x : Lane) (s : LaneEntry) (total : Option Int) (t1 t2 : Nat) : Lane :=
  if 16 ≤ x.axles.length then { x with overflow := min 255 (x.overflow + 1) }
  else { x with axles := x.axles ++ [x.nextAxle s total t1 t2], withdrawn := x.withdrawn.drop 1 }

/-- The withdrawn spacing stack loses its top entry, if it has one. -/
theorem appendSpacing_withdrawn (axles : List Axle) (withdrawn : List (Option Nat)) (treadles t2 passTime : Nat) :
    (appendSpacing axles withdrawn treadles t2 passTime).2 = withdrawn.drop 1 := by
  unfold appendSpacing
  cases axles.getLast? with
  | none => rfl
  | some a =>
    cases withdrawn with
    | nil => rfl
    | cons w ws => rfl

theorem appendAxle_eq (p : Part) (l : LaneId) (t1 t2 : Nat) :
    p.appendAxle l t1 t2 = p.modLane l fun x => x.appended (p.settings l) (p.rawTotalNow l) t1 t2 := by
  unfold Part.appendAxle Lane.appended Lane.nextAxle
  dsimp only
  refine modLane_congr _ _ _ _ ?_
  rw [appendSpacing_withdrawn]

theorem appended_visit (x : Lane) (s : LaneEntry) (total : Option Int) (t1 t2 : Nat) :
    (x.appended s total t1 t2).visit = x.visit := by
  unfold Lane.appended
  split
  · rfl
  · rfl

theorem appended_adoptedActive (x : Lane) (s : LaneEntry) (total : Option Int) (t1 t2 : Nat) :
    (x.appended s total t1 t2).adoptedActive = x.adoptedActive := by
  unfold Lane.appended
  split
  · rfl
  · rfl

section
variable (x : Lane) (s : LaneEntry) (total : Option Int) {t1 t2 : Nat}

theorem nextAxle_still (h : t1 = t2) :
    (x.nextAxle s total t1 t2).speed = none ∧ (x.nextAxle s total t1 t2).offBand = true := by
  have hzero : stampDiff t1 t2 = 0 := by rw [stampDiff_of_le h.le, h, Nat.sub_self]
  unfold Lane.nextAxle
  dsimp only
  rw [hzero]
  exact ⟨rfl, rfl⟩

theorem nextAxle_moving (h : t1 < t2) : ∃ w, (x.nextAxle s total t1 t2).speed = some w ∧
    2 * (t2 - t1) * w ≤ 720 * s.spacing + (t2 - t1) ∧ 720 * s.spacing < 2 * (t2 - t1) * w + (t2 - t1) ∧
    ((x.nextAxle s total t1 t2).offBand = true ↔ w < s.speedMin ∨ s.speedMax < w) := by
  obtain ⟨w, hspeed, hle, hlt⟩ := passSpeed_bounds s.spacing (Nat.sub_pos_of_lt h)
  rw [← stampDiff_of_le h.le] at hspeed
  refine ⟨w, hspeed, hle, hlt, ?_⟩
  unfold Lane.nextAxle
  dsimp only
  rw [hspeed]
  exact decide_eq_true_iff

theorem nextAxle_spacing_first (h : x.axles = []) : (x.nextAxle s total t1 t2).spacing = none := by
  unfold Lane.nextAxle appendSpacing
  rw [h]
  rfl

theorem nextAxle_spacing_withdrawn {w : Option Nat} {ws : List (Option Nat)} (h : x.axles ≠ []) (hw : x.withdrawn = w :: ws) :
    (x.nextAxle s total t1 t2).spacing = w := by
  unfold Lane.nextAxle appendSpacing
  dsimp only
  rw [List.getLast?_eq_some_getLast h, hw]

theorem nextAxle_spacing_measured {b : Axle} (hb : x.axles.getLast? = some b) (hw : x.withdrawn = []) :
    (x.nextAxle s total t1 t2).spacing = passSpacing s.spacing t2 b.t2 (stampDiff t1 t2) := by
  unfold Lane.nextAxle appendSpacing
  dsimp only
  rw [hb, hw]

end

/-! ## The lane's raw total (R79) -/

theorem rawTotalNow_all {p : Part} {l : LaneId} {ws : List Published}
    (h : l.decks.map (fun d => (p.deck d).published) = ws.map some) : p.rawTotalNow l = some (ws.map (·.net)).sum := by
  have hnets : (l.decks.map fun d => (p.deck d).published.map (·.net)) = ws.map fun w => some w.net := by
    have := congrArg (List.map (Option.map Published.net)) h
    rwa [List.map_map, List.map_map] at this
  unfold Part.rawTotalNow
  dsimp only
  rw [hnets, if_pos, List.map_map]
  · rfl
  · rw [List.all_map]
    exact List.all_eq_true.mpr fun _ _ => rfl

theorem rawTotalNow_missing {p : Part} {l : LaneId} (h : ∃ d ∈ l.decks, (p.deck d).published = none) :
    p.rawTotalNow l = none := by
  obtain ⟨d, hd, hnone⟩ := h
  refine if_neg fun k => ?_
  have := List.all_eq_true.mp k _ (List.mem_map_of_mem hd)
  rw [hnone] at this
  cases this

/-! ## The disposition of a pass (R78) -/

/-- The event of the second edge of a pass is not a fault. -/
theorem pass_ne_fault (line : Treadle) (held stamp : Nat) :
    (if line = .t2 then Decoded.inward held stamp else .outward stamp held) ≠ .fault := by
  cases line with
  | t1 => exact Decoded.noConfusion
  | t2 => exact Decoded.noConfusion

theorem exitCount_pass {line last : Treadle} (h : line ≠ last) (n held stamp : Nat) :
    exitCount n (if last = .t2 then .inward held stamp else .outward stamp held) =
      if line = .t2 then min 255 (n + 1) else n - 1 := by
  cases last with
  | t1 =>
    cases line with
    | t1 => exact absurd rfl h
    | t2 => rfl
  | t2 =>
    cases line with
    | t1 => rfl
    | t2 => exact absurd rfl h

section
variable {p : Part} {l : LaneId} {e : LaneEnd} {v : Visit} {ev : Decoded}

theorem dispose_inward (hv : p.visit l = some v) (he : v.entry = e) (hst : v.state = .entering ∨ v.state = .settling)
    (t1 t2 : Nat) : p.dispose l e (.inward t1 t2) = (p.appendAxle l t1 t2).entryPass l := by
  unfold Part.dispose
  rw [hv]
  dsimp only
  rw [if_pos he.symm]
  rcases hst with hst | hst
  · rw [hst]
    rfl
  · rw [hst]
    rfl

theorem dispose_outward (hv : p.visit l = some v) (he : v.entry = e) (hst : v.state = .entering ∨ v.state = .settling)
    (t1 t2 : Nat) : p.dispose l e (.outward t1 t2) = if (p.lane l).reverse.2
      then (p.setLane l (p.lane l).reverse.1).abortVisit l .backedOut
      else (p.setLane l (p.lane l).reverse.1).entryPass l := by
  unfold Part.dispose
  rw [hv]
  dsimp only
  rw [if_pos he.symm]
  rcases hst with hst | hst
  · rw [hst]
    rfl
  · rw [hst]
    rfl

theorem dispose_idle (hv : p.visit l = some v) (he : v.entry = e) (hent : v.state ≠ .entering) (hset : v.state ≠ .settling)
    (hev : ev ≠ .fault) : p.dispose l e ev = p := by
  unfold Part.dispose
  rw [hv]
  dsimp only
  rw [if_pos he.symm]
  cases hst : v.state with
  | identify => exact if_neg hev
  | consignWait => exact if_neg hev
  | entering => exact absurd hst hent
  | settling => exact absurd hst hset
  | held => rfl
  | exiting => rfl
  | clearing => rfl

theorem dispose_exitEnd (hv : p.visit l = some v) (he : v.entry ≠ e) (hev : ev ≠ .fault) :
    (v.state.beforeCapture = true → p.dispose l e ev = p.setVisit l { v with exitOverrun := true }) ∧
    (v.state = .exiting → p.dispose l e ev = p.modLane l fun x => { x with exitAxles := exitCount x.exitAxles ev }) ∧
    ((v.state = .held ∨ v.state = .clearing) → p.dispose l e ev = p) := by
  have hdispose : p.dispose l e ev = if v.state.beforeCapture then
        let q := p.setVisit l { v with exitOverrun := true }
        if ev = .fault then q.markInvalid l else q
      else if v.state = .exiting then p.modLane l fun x => { x with exitAxles := exitCount x.exitAxles ev }
      else p := by
    unfold Part.dispose
    rw [hv]
    exact if_neg fun k => he k.symm
  refine ⟨fun hb => ?_, fun hst => ?_, fun hst => ?_⟩
  · rw [hdispose, if_pos hb]
    exact if_neg hev
  · rw [hdispose, hst]
    rfl
  · rcases hst with hst | hst
    · rw [hdispose, hst]
      rfl
    · rw [hdispose, hst]
      rfl

end

/-! ## The lane of a visit that goes on after a pass (R83) -/

theorem passed_overflow (y : Lane) (v : Visit) (quiet : Timer) (f : Nat → Nat) :
    ({ y with overflow := f y.overflow } : Lane).passed v quiet =
      { y.passed v quiet with overflow := f (y.passed v quiet).overflow } := by
  unfold Lane.passed
  split
  · rfl
  · rfl

theorem passed_lists (y : Lane) (v : Visit) (quiet : Timer) (f : List Axle → List Axle)
    (g : List (Option Nat) → List (Option Nat)) :
    ({ y with axles := f y.axles, withdrawn := g y.withdrawn } : Lane).passed v quiet =
      { y.passed v quiet with axles := f (y.passed v quiet).axles, withdrawn := g (y.passed v quiet).withdrawn } := by
  unfold Lane.passed
  split
  · rfl
  · rfl

theorem passed_adoptedActive (y : Lane) (v : Visit) (quiet : Timer) :
    (y.passed v quiet).adoptedActive = y.adoptedActive := by
  unfold Lane.passed
  split
  · rfl
  · rfl

theorem appended_full {x : Lane} (h : 16 ≤ x.axles.length) (s : LaneEntry) (total : Option Int) (t1 t2 : Nat) :
    x.appended s total t1 t2 = { x with overflow := min 255 (x.overflow + 1) } := if_pos h

theorem appended_room {x : Lane} (h : x.axles.length < 16) (s : LaneEntry) (total : Option Int) (t1 t2 : Nat) :
    x.appended s total t1 t2 =
      { x with axles := x.axles ++ [x.nextAxle s total t1 t2], withdrawn := x.withdrawn.drop 1 } :=
  if_neg (Nat.not_le.mpr h)

theorem nextAxle_congr {x y : Lane} (ha : y.axles = x.axles) (hw : y.withdrawn = x.withdrawn) (s : LaneEntry)
    (total : Option Int) (t1 t2 : Nat) : y.nextAxle s total t1 t2 = x.nextAxle s total t1 t2 := by
  unfold Lane.nextAxle
  rw [ha, hw]

theorem reverse_overflow {x : Lane} (h : 0 < x.overflow) : x.reverse = ({ x with overflow := x.overflow - 1 }, false) :=
  if_pos h

theorem reverse_axle {x : Lane} {a : Axle} (h : x.overflow = 0) (ha : x.axles.getLast? = some a) :
    x.reverse = ({ x with axles := x.axles.dropLast, withdrawn := a.spacing :: x.withdrawn }, false) := by
  unfold Lane.reverse
  rw [if_neg (by omega), ha]

theorem reverse_backedOut {x : Lane} (h : x.overflow = 0) (ha : x.axles = []) : x.reverse = (x, true) := by
  unfold Lane.reverse
  rw [if_neg (by omega), ha]
  rfl

theorem clearsFrom_modEnd (p : Part) (l : LaneId) (e : LaneEnd) {f : EndState → EndState}
    (h : ∀ x, (f x).beamLevel = x.beamLevel) : (p.modEnd l e f).clearsFrom l = p.clearsFrom l := by
  have hlevel : ∀ m, ((p.modEnd l e f).laneEnd l m).beamLevel = (p.laneEnd l m).beamLevel := by
    intro m
    by_cases hm : m = e
    · rw [hm, laneEnd_modEnd_self]
      exact h _
    · rw [laneEnd_modEnd, if_neg fun k => hm k.2]
  unfold Part.clearsFrom
  rw [hlevel, hlevel]
  rfl

/-- The lane of `s` at the end of a pass at `e`, before the axle lists change. -/
theorem lane_passTaken (p : Part) (l : LaneId) (e : LaneEnd) (last : Treadle) :
    (p.passTaken l e last).lane l = { p.lane l with
      ends := (p.lane l).ends.set e { ((p.laneEnd l e).setLatch none last) with decoder := .idle } } := by
  unfold Part.passTaken
  cases l with
  | l0 => rfl
  | l1 => rfl

section
variable {s : State} {l : LaneId} {v : Visit}

/-- The quiet time of `l`, started now (R59). -/
def State.quiet (s : State) (l : LaneId) : Timer := .running (s.clock.running + 10000 * (s.toPart.settings l).quietTime)

/-- A pass at the entry end of a visit on the decks that changes the axle lists by `f` and does not back out. -/
theorem entryPass_taken (hv : s.toPart.visit l = some v) (hst : v.state = .entering ∨ v.state = .settling)
    (last : Treadle) (f : Lane → Lane) (hf : ∀ x, (f x).visit = x.visit) (ha : ∀ x, (f x).adoptedActive = x.adoptedActive) :
    ((s.toPart.passTaken l v.entry last).modLane l f).entryPass l =
      (s.toPart.passTaken l v.entry last).modLane l fun y => (f y).passed v (s.quiet l) := by
  have hqv : (s.toPart.passTaken l v.entry last).visit l = some v := (visit_modEnd ..).trans hv
  rw [entryPass_passed _ l v f hqv hst hf ha, show (s.toPart.passTaken l v.entry last).settings l = s.toPart.settings l from
    settings_modEnd ..]
  rfl

theorem rawTotalNow_passTaken (last : Treadle) :
    (s.toPart.passTaken l v.entry last).rawTotalNow l = s.toPart.rawTotalNow l := rfl

/-- The second edge of an inward pass at the entry end of a visit on the decks (R79). -/
theorem takeLatch_inward {t1 t2 expiry : Nat} (hs : s.toPart.settingsSettled) (hv : s.toPart.visit l = some v)
    (hst : v.state = .entering ∨ v.state = .settling) (hd : (s.toPart.laneEnd l v.entry).decoder = .hold .t1 t1 expiry)
    (hl : (s.toPart.laneEnd l v.entry).latch2 = some t2) (h : t2 ≤ expiry) :
    s.toPart.takeLatch l v.entry .t2 = (s.toPart.passTaken l v.entry .t2).modLane l fun y =>
      (y.appended (s.toPart.settings l) (s.toPart.rawTotalNow l) t1 t2).passed v (s.quiet l) := by
  have hqv : (s.toPart.passTaken l v.entry .t2).visit l = some v := (visit_modEnd ..).trans hv
  have hset : (s.toPart.passTaken l v.entry .t2).settings l = s.toPart.settings l := settings_modEnd ..
  rw [takeLatch_pass s.toPart l v.entry .t1 .t2 t1 expiry t2 hs hd hl (by decide) h, if_pos rfl,
    dispose_inward hqv rfl hst, appendAxle_eq, hset, rawTotalNow_passTaken]
  exact entryPass_taken hv hst .t2 (fun y => y.appended (s.toPart.settings l) (s.toPart.rawTotalNow l) t1 t2)
    (fun x => appended_visit x ..) fun x => appended_adoptedActive x ..

/-- The second edge of an outward pass at the entry end of a visit on the decks (R82). -/
theorem takeLatch_outward {t1 t2 expiry : Nat} (hs : s.toPart.settingsSettled) (hv : s.toPart.visit l = some v)
    (hst : v.state = .entering ∨ v.state = .settling) (hd : (s.toPart.laneEnd l v.entry).decoder = .hold .t2 t2 expiry)
    (hl : (s.toPart.laneEnd l v.entry).latch1 = some t1) (h : t1 ≤ expiry) :
    let q := s.toPart.passTaken l v.entry .t1
    s.toPart.takeLatch l v.entry .t1 = if (q.lane l).reverse.2 then (q.setLane l (q.lane l).reverse.1).abortVisit l .backedOut
      else (q.setLane l (q.lane l).reverse.1).entryPass l := by
  intro q
  have hqv : q.visit l = some v := (visit_modEnd ..).trans hv
  rw [takeLatch_pass s.toPart l v.entry .t2 .t1 t2 expiry t1 hs hd hl (by decide) h, if_neg (by decide)]
  exact dispose_outward hqv rfl hst t1 t2

end

/-- Settles O32: the axle lists by `Lane.appended` and `Lane.reverse`, the other states by the rows of the disposition. -/
theorem inwardPassCountsAxle : Obligations.InwardPassCountsAxle := by
  refine ⟨?_, ?_, ?_⟩
  · intro l v t1 expiry t2 s hs hv hst hd hl h x set p
    have hp : p = (s.toPart.passTaken l v.entry .t2).modLane l fun y => y.passed v (s.quiet l) := rfl
    have hps : p.settingsSettled :=
      settled_modLane (settled_modEnd hs l v.entry _) l (fun y => y.passed v (s.quiet l)) fun y => passed_adoptedActive y _ _
    have hlane := lane_passTaken s.toPart l v.entry .t2
    have run (g : Lane → Lane) (hg : ∀ y : Lane, y.axles = x.axles → y.withdrawn = x.withdrawn →
          (y.appended set (s.toPart.rawTotalNow l) t1 t2).passed v (s.quiet l) = g (y.passed v (s.quiet l)))
        (ha : ∀ y, (g y).adoptedActive = y.adoptedActive) :
        endsAs (.treadleLatchTaken l v.entry .t2) s (p.modLane l g) := by
      refine endsAs_run (.treadleLatchTaken l v.entry .t2) s (fun p => p.takeLatch l v.entry .t2) _ rfl ?_
        (settled_modLane hps l g ha)
      rw [takeLatch_inward hs hv hst hd hl h, hp, modLane_modLane]
      refine modLane_congr _ _ _ _ (hg _ ?_ ?_)
      · rw [hlane]
      · rw [hlane]
    refine ⟨fun hfull => run _ (fun y hy _ => ?_) fun _ => rfl, fun hle hroom => ?_⟩
    · rw [appended_full (by rw [hy]; exact hfull)]
      exact passed_overflow y v (s.quiet l) fun n => min 255 (n + 1)
    · refine ⟨x.nextAxle set (s.toPart.rawTotalNow l) t1 t2, run _ (fun y hy hw => ?_) fun _ => rfl, rfl, rfl, rfl, rfl, rfl,
        rfl, nextAxle_still x set _, nextAxle_moving x set _, fun ws => rawTotalNow_all, rawTotalNow_missing,
        nextAxle_spacing_first x set _, fun w ws => nextAxle_spacing_withdrawn x set _, fun b hb hnone => ?_⟩
      · rw [appended_room (by rw [hy]; exact hroom), nextAxle_congr hy hw]
        exact passed_lists y v (s.quiet l) (· ++ [x.nextAxle set (s.toPart.rawTotalNow l) t1 t2]) (·.drop 1)
      · rw [nextAxle_spacing_measured x set _ hb hnone, stampDiff_of_le hle]
        exact ⟨fun hstill => if_pos (by omega), fun hmoving => passSpacing_bounds _ _ _ (Nat.sub_pos_of_lt hmoving)⟩
  · intro l v t2 expiry t1 s hs hv hst hd hl h x p
    have hp : p = s.toPart.passTaken l v.entry .t1 := rfl
    have hps : p.settingsSettled := settled_modEnd hs l v.entry _
    have hlane : p.lane l = _ := lane_passTaken s.toPart l v.entry .t1
    have htake := takeLatch_outward hs hv hst hd hl h
    dsimp only at htake
    rw [← hp] at htake
    have run (f g : Lane → Lane) (hr : (p.lane l).reverse = (f (p.lane l), false)) (hf : ∀ y, (f y).visit = y.visit)
        (ha : ∀ y, (f y).adoptedActive = y.adoptedActive) (hg : ∀ y, (f y).passed v (s.quiet l) = g y) :
        endsAs (.treadleLatchTaken l v.entry .t1) s (p.modLane l g) := by
      rw [hr, if_neg Bool.false_ne_true] at htake
      refine endsAs_run (.treadleLatchTaken l v.entry .t1) s (fun p => p.takeLatch l v.entry .t1) _ rfl
        ((htake.trans (entryPass_taken hv hst .t1 f hf ha)).trans (modLane_congr _ _ _ _ (hg _)))
        (settled_modLane hps l g fun y => ?_)
      rw [← hg, passed_adoptedActive, ha]
    refine ⟨fun hpos => ?_, fun a hzero hlast => ?_, fun hzero hnone => ?_⟩
    · refine run (fun y => { y with overflow := y.overflow - 1 }) _ (reverse_overflow ?_) (fun _ => rfl) (fun _ => rfl)
        fun y => passed_overflow y v (s.quiet l) fun _ => y.overflow - 1
      rw [hlane]
      exact hpos
    · refine run (fun y => { y with axles := y.axles.dropLast, withdrawn := a.spacing :: y.withdrawn }) _
        (reverse_axle ?_ ?_) (fun _ => rfl) (fun _ => rfl)
        fun y => passed_lists y v (s.quiet l) (fun _ => y.axles.dropLast) fun _ => a.spacing :: y.withdrawn
      · rw [hlane]
        exact hzero
      · rw [hlane]
        exact hlast
    · have hback : (p.lane l).reverse = (p.lane l, true) := by
        refine reverse_backedOut ?_ ?_
        · rw [hlane]
          exact hzero
        · rw [hlane]
          exact hnone
      have hsame : p.setLane l (p.lane l) = p := modLane_id p l (f := id) rfl
      have hpv : p.visit l = some v := (visit_modEnd ..).trans hv
      rw [hback, if_pos rfl, hsame] at htake
      obtain ⟨hkept, haborts, hreleases, hlink, hother⟩ := abortVisit_facts p l v .backedOut hpv (hst.imp_right .inl)
      have hclears : p.clearsFrom l = s.toPart.clearsFrom l := clearsFrom_modEnd s.toPart l v.entry (fun _ => rfl)
      rw [hclears] at haborts
      refine ⟨_, endsAs_run (.treadleLatchTaken l v.entry .t1) s (fun p => p.takeLatch l v.entry .t1) _ rfl htake ?_,
        haborts, hreleases, hlink, hother.trans (lane_modLane_other ..), ?_, ?_⟩
      · exact settled_oneLane hps l (by rw [hkept]) (by rw [haborts]; rfl) hother
      · rw [hkept]
        rfl
      · rw [hkept]
        rfl
  · intro l e line last held expiry stamp s hs hne hd hl h c p
    have hev := pass_ne_fault last held stamp
    have hps : p.settingsSettled := settled_modEnd hs l e _
    have run {r : Part} (hq : p.dispose l e (if last = .t2 then .inward held stamp else .outward stamp held) = r)
        (hqs : r.settingsSettled) : endsAs c s r :=
      endsAs_run c s (fun p => p.takeLatch l e last) _ rfl
        ((takeLatch_pass s.toPart l e line last held expiry stamp hs hd hl hne h).trans hq) hqs
    have hvisit : p.visit l = s.toPart.visit l := visit_modEnd ..
    refine ⟨fun hv => run ?_ hps, fun v hv => ?_⟩
    · unfold Part.dispose
      rw [hvisit, hv]
    · have hpv : p.visit l = some v := hvisit.trans hv
      refine ⟨fun he hent hset => run (dispose_idle hpv he hent hset hev) hps, fun he => ?_⟩
      obtain ⟨hbefore, hexiting, hafter⟩ := dispose_exitEnd hpv he hev
      refine ⟨fun hb => run (hbefore hb) (settled_modLane hps l _ fun _ => rfl), fun hst => run ((hexiting hst).trans ?_)
        (settled_modLane hps l _ fun _ => rfl), fun hst => run (hafter hst) hps⟩
      refine modLane_congr _ _ _ _ ?_
      rw [exitCount_pass hne]

end Sys2Proof.Machine
end


section
/-! PROOFS. The ends of visits: the close step, a visit that ends at once, and the wait timers (R51, R56, R69, R72). -/

namespace Sys2Proof.Machine

/-! ## The close step (R72) -/

/-- The lane's slot is empty, and the exit axle count is entered in the tickets of the visit. -/
def Part.vacated (p : Part) (l : LaneId) (v : Visit) : Part :=
  ({ p with tickets := { p.tickets with
    staging := exitEntered l v.count (p.lane l).exitAxles p.tickets.staging } } : Part).modLane l Lane.emptySlot

/-- The lane after step 2 of R72: VISIT_CLOSED goes out unless the visit ended at once. -/
def Part.closing (p : Part) (l : LaneId) (v : Visit) (closed : Bool) : Part :=
  if closed then (p.vacated l v).notify
    (.visitClosed l v.count v.kind (v.capture.map (·.gross)) v.abort (p.lane l).exitAxles)
  else p.vacated l v

/-- Step 4 of R72 closes the lane. -/
def Lane.turns (x : Lane) : Prop :=
  x.state = .opened ∧ x.blocks.closeRequested = true ∨ x.state = .fault ∧ x.causes = .empty

/-- No session waits for the lane or stands on it. -/
def Part.unaudited (p : Part) (l : LaneId) : Prop := ∀ y, p.audit.session = some y → laneOf y.deck ≠ l

theorem lane_closing (p : Part) (l : LaneId) (v : Visit) (closed : Bool) :
    (p.closing l v closed).lane l = (p.lane l).emptySlot := by
  unfold Part.closing
  split
  · exact lane_modLane_self ..
  · exact lane_modLane_self ..

theorem lane_closing_other (p : Part) (l : LaneId) (v : Visit) (closed : Bool) :
    (p.closing l v closed).lane l.other = p.lane l.other := by
  unfold Part.closing
  split
  · exact lane_modLane_other ..
  · exact lane_modLane_other ..

theorem audit_closing (p : Part) (l : LaneId) (v : Visit) (closed : Bool) : (p.closing l v closed).audit = p.audit := by
  unfold Part.closing
  split
  · rfl
  · rfl

theorem settled_closing {p : Part} (h : p.settingsSettled) (l : LaneId) (v : Visit) (closed : Bool) :
    (p.closing l v closed).settingsSettled := by
  have hvacated : (p.vacated l v).settingsSettled :=
    settled_modLane (p := { p with tickets := _ }) (settled_of h rfl rfl rfl) l Lane.emptySlot fun _ => rfl
  unfold Part.closing
  split
  · exact settled_notify hvacated _
  · exact hvacated

theorem closeStep_eq {p : Part} {l : LaneId} {v : Visit} (hv : p.visit l = some v) (closed : Bool) :
    p.closeStep l closed = ((if (p.lane l).adoptedActive then p.closing l v closed
      else (p.closing l v closed).adopt l).settleLaneState l).startPendingAudit l := by
  have hkeep : ((p.closing l v closed).lane l).adoptedActive = (p.lane l).adoptedActive := by
    rw [lane_closing]
    rfl
  rw [← hkeep]
  unfold Part.closeStep
  rw [hv]
  rfl

theorem settleLaneState_same {p : Part} {l : LaneId} (h : ¬ (p.lane l).turns) : p.settleLaneState l = p := if_neg h

theorem settleLaneState_turns {p : Part} {l : LaneId} (h : (p.lane l).turns) :
    p.settleLaneState l = p.enterLaneState l .closed := if_pos h

theorem startPendingAudit_same {p : Part} {l : LaneId} (h : p.unaudited l) : p.startPendingAudit l = p := by
  unfold Part.startPendingAudit
  cases hs : p.audit.session with
  | none => rfl
  | some y => exact if_neg fun k => h y hs k.1

theorem turns_emptySlot (x : Lane) : x.emptySlot.turns ↔ x.turns := Iff.rfl

/-- The close step on a lane where nothing more follows. -/
theorem closeStep_quiet {p : Part} {l : LaneId} {v : Visit} (hv : p.visit l = some v)
    (ha : (p.lane l).adoptedActive = true) (ht : ¬ (p.lane l).turns) (hu : p.unaudited l) (closed : Bool) :
    p.closeStep l closed = p.closing l v closed := by
  have hturns : ¬ ((p.closing l v closed).lane l).turns := by
    rw [lane_closing, turns_emptySlot]
    exact ht
  have haudit : (p.closing l v closed).unaudited l := by
    unfold Part.unaudited
    rw [audit_closing]
    exact hu
  rw [closeStep_eq hv, if_pos ha, settleLaneState_same hturns, startPendingAudit_same haudit]

theorem closesPlainly_quiet {p : Part} {l : LaneId} (h : p.closesPlainly l) :
    (p.lane l).adoptedActive = true ∧ ¬ (p.lane l).turns ∧ p.unaudited l := by
  obtain ⟨hstate, hadopted, hclose, haudit⟩ := h
  refine ⟨hadopted, ?_, haudit⟩
  rintro (⟨-, k⟩ | ⟨k, -⟩)
  · exact Bool.false_ne_true (hclose.symm.trans k)
  · exact absurd (hstate.symm.trans k) (by decide)

/-! ## A visit that ends at once (R69) -/

theorem consignments_setSlot (p : Part) (i : Nat) (e : Option PendingEntry) :
    (p.setSlot i e).pairing.consignments = p.pairing.consignments := by
  unfold Part.setSlot Part.markDirty
  split
  · rfl
  · rfl

theorem consignments_releasePending (p : Part) (v : Visit) :
    (p.releasePending v).pairing.consignments = p.pairing.consignments := by
  unfold Part.releasePending
  cases v.pendingIndex with
  | none => rfl
  | some i =>
    dsimp only
    cases p.slot i with
    | none => rfl
    | some e =>
      dsimp only
      cases e.state with
      | opened g => rfl
      | reserved => exact consignments_setSlot ..
      | claimed g l => exact consignments_setSlot ..

/-- The effect of an abort: the reason, the notice, and the pending entry released. -/
theorem abortEffect_facts (p : Part) (l : LaneId) (v : Visit) (r : AbortReason) :
    let q := p.abortEffect l v r
    q = { p.notify (.visitAborted l v.count v.vehicle v.kind r) with lanes := q.lanes, pairing := q.pairing } ∧
      q.lane l = { p.lane l with visit := some { v with abort := some r } } ∧ q.lane l.other = p.lane l.other ∧
      p.releases q v ∧ q.pairing.consignments = p.pairing.consignments := by
  set told := (p.setVisit l { v with abort := some r }).notify (.visitAborted l v.count v.vehicle v.kind r) with htold
  have hrest : p.abortEffect l v r = { told with pairing := (told.releasePending v).pairing } := releasePending_rest told v
  intro q
  have hq : q = { told with pairing := (told.releasePending v).pairing } := hrest
  refine ⟨?_, ?_, ?_, releasePending_releases told v, consignments_releasePending told v⟩
  · rw [hq]
    rfl
  · rw [hq]
    exact lane_modLane_self p l fun y => { y with visit := some { v with abort := some r } }
  · rw [hq]
    exact lane_modLane_other p l fun y => { y with visit := some { v with abort := some r } }

/-- A visit that ends at once on a lane where nothing more follows. -/
theorem endAtOnce_facts {p : Part} {l : LaneId} {v : Visit} (reason : AbortReason) (hv : p.visit l = some v)
    (ha : (p.lane l).adoptedActive = true) (ht : ¬ (p.lane l).turns) (hu : p.unaudited l) :
    let q := p.endAtOnce l reason
    q = { p with lanes := q.lanes, link := q.link, pairing := q.pairing, tickets := q.tickets } ∧
      q.lane l = (p.lane l).emptySlot ∧ q.lane l.other = p.lane l.other ∧ p.releases q v ∧
      q.link = p.told [.visitAborted l v.count v.vehicle v.kind reason] ∧
      q.tickets = { p.tickets with staging := exitEntered l v.count (p.lane l).exitAxles p.tickets.staging } ∧
      q.pairing.consignments = p.pairing.consignments := by
  obtain ⟨hrest, hlane, hother, hreleases, hconsigned⟩ := abortEffect_facts p l v reason
  set a := p.abortEffect l v reason with haDef
  have hav : a.visit l = some { v with abort := some reason } := by
    unfold Part.visit
    rw [hlane]
  have hquiet : a.closeStep l false = a.closing l { v with abort := some reason } false := by
    refine closeStep_quiet hav ?_ ?_ ?_ false
    · rw [hlane]
      exact ha
    · rw [hlane]
      exact ht
    · unfold Part.unaudited
      rw [hrest]
      exact hu
  have hend : p.endAtOnce l reason = a.vacated l { v with abort := some reason } := by
    unfold Part.endAtOnce
    rw [hv]
    exact hquiet
  intro q
  have hq : q = a.vacated l { v with abort := some reason } := hend
  have hvacated : q.lane l = (a.lane l).emptySlot := by
    rw [hq]
    exact lane_modLane_self ..
  refine ⟨?_, ?_, ?_, ?_, ?_, ?_, ?_⟩
  · rw [hq]
    unfold Part.vacated
    rw [hrest]
    rfl
  · rw [hvacated, hlane]
    rfl
  · rw [hq]
    exact (lane_modLane_other ..).trans hother
  · rw [hq]
    exact hreleases
  · rw [hq]
    unfold Part.vacated
    rw [hrest]
    rfl
  · have hexit : (a.lane l).exitAxles = (p.lane l).exitAxles := by rw [hlane]
    rw [hq]
    unfold Part.vacated
    rw [hexit, hrest]
    rfl
  · rw [hq]
    exact hconsigned

theorem settled_endAtOnce {p : Part} (h : p.settingsSettled) {l : LaneId} {v : Visit} (reason : AbortReason)
    (hv : p.visit l = some v) (ha : (p.lane l).adoptedActive = true) (ht : ¬ (p.lane l).turns) (hu : p.unaudited l) :
    (p.endAtOnce l reason).settingsSettled := by
  obtain ⟨hrest, hlane, hother, -⟩ := endAtOnce_facts reason hv ha ht hu
  exact settled_oneLane h l (by rw [hrest]) (by rw [hlane]; rfl) hother

/-- Settles O35, by the visit that ends at once at each expiry. -/
theorem waitTimersEndVisit : Obligations.WaitTimersEndVisit := by
  intro l v deadline s hs hv ht hplain p tickets
  have hps : p.settingsSettled := settled_elapse hs _
  have hpv : p.visit l = some v := hv
  have hpp : p.closesPlainly l := hplain
  obtain ⟨hadopted, hturns, haudit⟩ := closesPlainly_quiet hpp
  have hstate {st : VisitState} (h : v.state = st) : s.toPart.visitState l = some st := by rw [visitState_of hv, h]
  refine ⟨fun hst hidx => ?_, fun hst => ?_⟩
  · have hrun : (if s.toPart.visitState l = some .identify then
        s.toPart.expire (s.toPart.lane l).waitTimer (·.endAtOnce l .identityTimeout) else s.toPart) =
        p.endAtOnce l .identityTimeout := (if_pos (hstate hst)).trans (expire_running ht _)
    refine endsAs_run (.identityTimeout l) s (fun p => if p.visitState l = some .identify then
      p.expire (p.lane l).waitTimer (·.endAtOnce l .identityTimeout) else p) _ rfl
      (hrun.trans (endAtOnce_plain p l v .identityTimeout hpv hidx hpp))
      (settled_modLane (p := ({ p with tickets := tickets } : Part).notify
        (.visitAborted l v.count v.vehicle v.kind .identityTimeout)) (settled_of hps rfl rfl rfl) l Lane.emptySlot fun _ => rfl)
  · have hrun : (if s.toPart.visitState l = some .consignWait then
        s.toPart.expire (s.toPart.lane l).waitTimer (·.endAtOnce l .noConsignment) else s.toPart) =
        p.endAtOnce l .noConsignment := (if_pos (hstate hst)).trans (expire_running ht _)
    obtain ⟨hrest, hlane, hother, hreleases, hlink, htickets, hconsigned⟩ :=
      endAtOnce_facts .noConsignment hpv hadopted hturns haudit
    have hends := endsAs_run (.consignTimeout l) s (fun p => if p.visitState l = some .consignWait then
      p.expire (p.lane l).waitTimer (·.endAtOnce l .noConsignment) else p) _ rfl hrun
      (settled_endAtOnce hps .noConsignment hpv hadopted hturns haudit)
    refine ⟨_, hends, hreleases, hconsigned, hlane, hother, hlink, ?_, htickets, ?_, ?_, ?_⟩
    · rw [hrest]
      rfl
    · rw [hrest]
      rfl
    · rw [hrest]
      rfl
    · rw [hrest]
      rfl

end Sys2Proof.Machine
end


section
/-! PROOFS. A visit enters EXITING and its results take effect (R66, R67, R99), and the requests that release or abort a
visit (R65, R70). -/

namespace Sys2Proof.Machine

/-! ## The results of a visit (R66) -/

/-- The lane whose visit has entered EXITING (R66, R67). -/
def Lane.exits (x : Lane) (v : Visit) (clear : Timer) : Lane :=
  { x with visit := some { v with state := .exiting, storeWait := false }, settleTimer := .stopped, clearTimer := clear }

def Part.exiting (p : Part) (l : LaneId) (v : Visit) : Part := p.modLane l fun x => x.exits v (p.clearsFrom l)

/-- `q` is `p` after the visit `v` of lane `l` has entered EXITING: of the lanes the blocks alone may differ from
`Part.exiting`, and of the rest the pairing unit and the ticket unit. -/
def Part.exitsTo (p q : Part) (l : LaneId) (v : Visit) : Prop :=
  q = { p with lanes := q.lanes, pairing := q.pairing, tickets := q.tickets } ∧
    ∀ m, q.lane m = { (p.exiting l v).lane m with blocks := (q.lane m).blocks }

/-- A ticket `t` of the visit is staged in `q` (R114, R115). -/
def Part.stagesTicket (p q : Part) (l : LaneId) (v : Visit) (t : Ticket) : Prop :=
  q.tickets = { p.tickets with staging := p.tickets.staging ++ [⟨t, some (l, v.count)⟩] } ∧
    ∀ m, (q.lane m).blocks.storeBusy = ((p.lane m).blocks.storeBusy || decide (p.tickets.staging.length = 7))

theorem enterExiting_eq {p : Part} {l : LaneId} {v : Visit} {c : Capture} (hv : p.visit l = some v)
    (hc : v.capture = some c) : p.enterExiting l = (p.exiting l v).takeEffect l v c := by
  unfold Part.enterExiting
  rw [hv]
  dsimp only
  rw [clearTimerAtEntry_eq]
  split
  · next h => exact absurd (hc.symm.trans h) (Option.some_ne_none c)
  · next c' h =>
    cases hc.symm.trans h
    rfl

theorem grossSide_eq {v : Visit} {g : Consignment} (hg : v.consignment = some g) (l : LaneId) (c : Capture) :
    v.grossSide l c = ⟨c.gross, c.time, l, c.counts, g,
      ⟨c.verdict.kind, c.verdict.classId, c.verdict.overGroups, c.verdict.overGross, v.heldReleased⟩⟩ := by
  unfold Visit.grossSide
  rw [hg]
  rfl

theorem pairTicket_eq (kind : TicketKind) (vehicle : VehicleId) (regIndex : Option Nat) (g : GrossSide) (tare : TareSide)
    (mass : Int) (exitOverrun : Bool) : pairTicket kind vehicle regIndex g tare mass exitOverrun =
      { kind := if mass < g.gross then kind else .void, vehicle := vehicle, regIndex := regIndex
        side := { g with verdict := { g.verdict with heldReleased := false } }, tare := tare
        net := if mass < g.gross then some (g.gross - mass) else none, exitAxles := none
        heldReleased := g.verdict.heldReleased, exitOverrun := exitOverrun } := by
  unfold pairTicket
  simp only [Int.sub_pos]

section
variable {p : Part} {l : LaneId} {v : Visit} {c : Capture}

/-- The blocks of the lanes are not touched by the entry to EXITING itself. -/
theorem blocks_exiting (m : LaneId) : ((p.exiting l v).lane m).blocks = (p.lane m).blocks := by
  unfold Part.exiting
  rw [lane_modLane]
  split
  · next h =>
    rw [h]
    rfl
  · rfl

/-- A GROSS visit leaves its gross side in its pending entry, which is OPEN then (R99). -/
theorem enterExiting_gross (hv : p.visit l = some v) (hc : v.capture = some c) (hk : v.kind = some .gross) {i : Nat}
    {e : PendingEntry} (hi : v.pendingIndex = some i) (he : p.slot i = some e) :
    let q := p.enterExiting l
    p.exitsTo q l v ∧ q.tickets = p.tickets ∧ (∀ m, (q.lane m).blocks = (p.lane m).blocks) ∧
      q.slot i = some { e with state := .opened (v.grossSide l c) } ∧ (∀ j, j ≠ i → q.slot j = p.slot j) ∧
      i ∈ q.pairing.dirty := by
  have heq : p.enterExiting l = (p.exiting l v).setSlot i (some { e with state := .opened (v.grossSide l c) }) := by
    rw [enterExiting_eq hv hc]
    unfold Part.takeEffect
    rw [hk, hi]
    dsimp only
    rw [show (p.exiting l v).slot i = some e from he]
  have hlt : i < 64 := slot_lt he
  have hlanes : ∀ m, (p.enterExiting l).lane m = (p.exiting l v).lane m := by
    rw [heq, setSlot_rest]
    exact fun _ => rfl
  refine ⟨⟨?_, fun m => by rw [hlanes]⟩, ?_, fun m => ?_, ?_, fun j hj => ?_, ?_⟩
  · rw [heq, setSlot_rest]
    rfl
  · rw [heq, setSlot_rest]
    rfl
  · rw [hlanes]
    exact blocks_exiting m
  · rw [heq, slot_setSlot _ _ _ hlt, if_pos rfl]
  · rw [heq, slot_setSlot _ _ _ hlt, if_neg hj]
    rfl
  · rw [heq]
    exact dirty_setSlot ..

/-- The entry to EXITING with the pairing unit `w`, and then the ticket. -/
theorem issue_exits (w : Pairing) (t : Ticket) (hroom : p.tickets.staging.length < 8) :
    let q := ({ p.exiting l v with pairing := w } : Part).issueTicket t (some (l, v.count))
    p.exitsTo q l v ∧ p.stagesTicket q l v t ∧ q.pairing = w := by
  obtain ⟨hrest, hstaged, hbusy⟩ := issueTicket_facts ({ p.exiting l v with pairing := w } : Part) t (some (l, v.count)) hroom
  refine ⟨⟨?_, fun m => ?_⟩, ⟨hstaged, fun m => ?_⟩, ?_⟩
  · rw [hrest]
    rfl
  · rw [hbusy]
    rfl
  · rw [hbusy]
    exact congrArg (fun b : Blocks => b.storeBusy || decide (p.tickets.staging.length = 7)) (blocks_exiting m)
  · rw [hrest]

/-- A GROSS_PRESET visit stages a PRESET_NET or VOID ticket (R66). -/
theorem enterExiting_preset (hv : p.visit l = some v) (hc : v.capture = some c) (hk : v.kind = some .grossPreset)
    {t : PresetTare} {id : VehicleId} (ht : v.preset = some t) (hid : v.vehicle = some id) (hroom : p.tickets.staging.length < 8) :
    let q := p.enterExiting l
    p.exitsTo q l v ∧ q.pairing = p.pairing ∧ p.stagesTicket q l v
      (pairTicket .presetNet id v.regIndex (v.grossSide l c) (.preset t.mass t.date) t.mass v.exitOverrun) := by
  have heq : p.enterExiting l = (p.exiting l v).issueTicket
      (pairTicket .presetNet id v.regIndex (v.grossSide l c) (.preset t.mass t.date) t.mass v.exitOverrun)
        (some (l, v.count)) := by
    rw [enterExiting_eq hv hc]
    unfold Part.takeEffect
    rw [hk, ht, hid]
    rfl
  dsimp only
  rw [heq]
  obtain ⟨hexits, hstages, hpairing⟩ := issue_exits (p := p) (l := l) (v := v) p.pairing
    (pairTicket .presetNet id v.regIndex (v.grossSide l c) (.preset t.mass t.date) t.mass v.exitOverrun) hroom
  exact ⟨hexits, hpairing, hstages⟩

/-- A TARE visit stages a NET or VOID ticket, and its pending entry is removed (R66). -/
theorem enterExiting_tare (hv : p.visit l = some v) (hc : v.capture = some c) (hk : v.kind = some .tare) {i : Nat}
    {e : PendingEntry} {g : GrossSide} {m : LaneId} (hi : v.pendingIndex = some i) (he : p.slot i = some e)
    (hst : e.state = .claimed g m) (hroom : p.tickets.staging.length < 8) :
    let q := p.enterExiting l
    p.exitsTo q l v ∧ q.slot i = none ∧ (∀ j, j ≠ i → q.slot j = p.slot j) ∧ i ∈ q.pairing.dirty ∧
      p.stagesTicket q l v (pairTicket .net e.vehicle e.regIndex g (.weighed c.gross c.time l c.counts) c.gross v.exitOverrun) := by
  set w := ((p.exiting l v).setSlot i none).pairing with hw
  have heq : p.enterExiting l = ({ p.exiting l v with pairing := w } : Part).issueTicket
      (pairTicket .net e.vehicle e.regIndex g (.weighed c.gross c.time l c.counts) c.gross v.exitOverrun)
        (some (l, v.count)) := by
    rw [enterExiting_eq hv hc]
    unfold Part.takeEffect
    rw [hk, hi]
    dsimp only
    rw [show (p.exiting l v).slot i = some e from he]
    dsimp only
    rw [hst]
    dsimp only
    rw [setSlot_rest]
  obtain ⟨hexits, hstages, hpairing⟩ := issue_exits (p := p) (l := l) (v := v) w
    (pairTicket .net e.vehicle e.regIndex g (.weighed c.gross c.time l c.counts) c.gross v.exitOverrun) hroom
  have hlt : i < 64 := slot_lt he
  have hslot : ∀ j, (p.enterExiting l).slot j = ((p.exiting l v).setSlot i none).slot j := fun j => by
    unfold Part.slot
    rw [heq, hpairing]
  refine ⟨?_, ?_, fun j hj => ?_, ?_, ?_⟩
  · rw [heq]
    exact hexits
  · rw [hslot, slot_setSlot _ _ _ hlt, if_pos rfl]
  · rw [hslot, slot_setSlot _ _ _ hlt, if_neg hj]
    rfl
  · rw [heq, hpairing]
    exact dirty_setSlot ..
  · rw [heq]
    exact hstages

theorem Part.exitsTo.settled {q : Part} (h : p.exitsTo q l v) (hs : p.settingsSettled) : q.settingsSettled := by
  obtain ⟨hrest, hlanes⟩ := h
  refine settled_lane hs (by rw [hrest]) fun m => ?_
  rw [hlanes]
  unfold Part.exiting
  dsimp only
  rw [lane_modLane]
  split
  · next h =>
    rw [h]
    rfl
  · rfl

end

/-! ## RELEASE and VISIT_ABORT -/

theorem release_refused {p : Part} {corr : U16} {lane : Byte} {l : LaneId} (hl : laneTarget lane = some l)
    (h : ∀ v, p.visit l = some v → v.state ≠ .held) : p.release corr lane = p.refuse corr .release .wrongState := by
  unfold Part.release
  rw [hl]
  dsimp only
  cases hv : p.visit l with
  | none => rfl
  | some v => exact if_pos (h v hv)

theorem release_held {p : Part} {corr : U16} {lane : Byte} {l : LaneId} {v : Visit} (hl : laneTarget lane = some l)
    (hv : p.visit l = some v) (hst : v.state = .held) : p.release corr lane =
      if v.kind = some .grossPreset ∧ p.stagingFull = true then p.refuse corr .release .storeBusy
      else ((p.setVisit l { v with heldReleased := true }).enterExiting l).done corr .release := by
  unfold Part.release
  rw [hl]
  dsimp only
  rw [hv]
  exact if_neg (not_not.mpr hst)

theorem visitAbort_refused {p : Part} {corr : U16} {lane : Byte} {l : LaneId} (hl : laneTarget lane = some l)
    (h : ∀ v, p.visit l = some v → v.state = .exiting ∨ v.state = .clearing) :
    p.visitAbort corr lane = p.refuse corr .visitAbort .wrongState := by
  unfold Part.visitAbort Part.visitState
  rw [hl]
  dsimp only
  cases hv : p.visit l with
  | none => rfl
  | some v =>
    dsimp only [Option.map]
    rcases h v hv with h | h
    · rw [h]
    · rw [h]

theorem visitAbort_takes {p : Part} {corr : U16} {lane : Byte} {l : LaneId} {v : Visit} (hl : laneTarget lane = some l)
    (hv : p.visit l = some v) (hex : v.state ≠ .exiting) (hcl : v.state ≠ .clearing) :
    p.visitAbort corr lane = (p.abortVisit l .siteAbort).done corr .visitAbort := by
  unfold Part.visitAbort
  rw [hl]
  dsimp only
  rw [visitState_of hv]
  cases hst : v.state with
  | exiting => exact absurd hst hex
  | clearing => exact absurd hst hcl
  | identify => rfl
  | consignWait => rfl
  | entering => rfl
  | settling => rfl
  | held => rfl

/-- An abort of a visit that is not on the decks ends it at once (R69). -/
theorem abortVisit_atOnce {p : Part} {l : LaneId} {v : Visit} (hv : p.visit l = some v)
    (hst : v.state = .identify ∨ v.state = .consignWait) (reason : AbortReason) :
    p.abortVisit l reason = p.endAtOnce l reason := by
  unfold Part.abortVisit
  rw [hv]
  dsimp only
  rcases hst with hst | hst
  · rw [hst]
  · rw [hst]

theorem link_done {p q : Part} (h : q.link = p.link) (corr : U16) (r : Req) (d : RespData) :
    (q.done corr r d).link = (p.done corr r d).link :=
  congrArg (fun k : Link => { k with responses := k.responses ++
    [({ corr := corr, code := r.code, outcome := .done d, immediate := false, dup := false } : Response)] }) h

theorem markedVisit (p : Part) (l : LaneId) (v : Visit) :
    (p.setVisit l { v with heldReleased := true }).visit l = some { v with heldReleased := true } :=
  congrArg Lane.visit (lane_modLane_self p l fun y => { y with visit := some { v with heldReleased := true } })

theorem blocks_setVisit (p : Part) (l : LaneId) (v : Visit) (m : LaneId) :
    ((p.setVisit l v).lane m).blocks = (p.lane m).blocks := by
  unfold Part.setVisit
  rw [lane_modLane]
  split
  · next h =>
    rw [h]
  · rfl

/-- What the entry to EXITING of a visit that RELEASE has marked leaves of the lane. -/
theorem exitsTo_released {p q : Part} {l : LaneId} {v : Visit}
    (h : (p.setVisit l { v with heldReleased := true }).exitsTo q l { v with heldReleased := true }) :
    q.visit l = some { v with state := .exiting, heldReleased := true, storeWait := false } ∧
      (q.lane l).clearTimer = p.clearsFrom l ∧ q.lane l.other = { p.lane l.other with blocks := (q.lane l.other).blocks } := by
  obtain ⟨-, hlanes⟩ := h
  have hself := hlanes l
  have hother := hlanes l.other
  have hclears : (p.setVisit l { v with heldReleased := true }).clearsFrom l = p.clearsFrom l := by
    unfold Part.clearsFrom Part.laneEnd Part.setVisit
    rw [lane_modLane_self]
    rfl
  unfold Part.exiting at hself hother
  rw [lane_modLane_self, hclears] at hself
  rw [lane_modLane_other, show (p.setVisit l { v with heldReleased := true }).lane l.other = p.lane l.other from
    lane_modLane_other ..] at hother
  refine ⟨?_, ?_, hother⟩
  · unfold Part.visit
    rw [hself]
    rfl
  · rw [hself]
    rfl

/-- Settles O43: RELEASE by the rows of `enterExiting`, VISIT_ABORT by those of `abortVisit`. -/
theorem releaseAndAbort : Obligations.ReleaseAndAbort := by
  intro corr lane l s hs ht hlane p r
  have hl : laneTarget lane = some l := laneTarget_of hlane
  have hps : p.settingsSettled := settled_admitted hs ..
  have hrs : r.settingsSettled := settled_admitted hs ..
  have runRelease {q : Part} (hq : p.release corr lane = q) (hqs : q.settingsSettled) : endsAs (.release corr lane) s q :=
    request_endsAs (.release corr lane) s corr .release (·.release corr lane) q lane rfl ht hq hqs
  have runAbort {q : Part} (hq : r.visitAbort corr lane = q) (hqs : q.settingsSettled) : endsAs (.visitAbort corr lane) s q :=
    request_endsAs (.visitAbort corr lane) s corr .visitAbort (·.visitAbort corr lane) q lane rfl ht hq hqs
  refine ⟨fun h => runRelease (release_refused hl h) (settled_refuse hps ..),
    fun h => runAbort (visitAbort_refused hl h) (settled_refuse hrs ..), fun v hv => ?_⟩
  have hms : (p.setVisit l { v with heldReleased := true }).settingsSettled := settled_modLane hps l _ fun _ => rfl
  refine ⟨?_, ?_, ?_, ?_⟩
  · intro i e c g hi he hst hk hc hg
    have hk' : ¬ (v.kind = some .grossPreset ∧ p.stagingFull = true) := fun h => absurd (hk.symm.trans h.1) (by decide)
    obtain ⟨hexits, htickets, hblocks, hslot, hslots, -⟩ := enterExiting_gross (markedVisit p l v) hc hk hi
      (show (p.setVisit l { v with heldReleased := true }).slot i = some e from he)
    obtain ⟨hvisit, -, hother⟩ := exitsTo_released hexits
    have hrel := (release_held (corr := corr) hl (show p.visit l = some v from hv) hst).trans (if_neg hk')
    refine ⟨_, runRelease hrel (settled_done (hexits.settled hms) ..), hvisit, ?_, hslots, ?_, ?_, htickets, ?_⟩
    · exact hslot.trans (congrArg (fun x => some { e with state := .opened x })
        (grossSide_eq (v := { v with heldReleased := true }) hg l c))
    · refine link_done ?_ ..
      rw [hexits.1]
      rfl
    · refine hother.trans ?_
      rw [hblocks]
      exact congrArg (fun b => { p.lane l.other with blocks := b }) (blocks_setVisit p l _ l.other)
    · show ((p.setVisit l { v with heldReleased := true }).enterExiting l).decks = s.decks
      rw [hexits.1]
      rfl
  · intro hst hk
    refine ⟨fun hfull => ?_, fun c g t id hroom hc hg hpre hid => ?_⟩
    · have hrel := (release_held (corr := corr) hl (show p.visit l = some v from hv) hst).trans
        (if_pos ⟨hk, decide_eq_true hfull⟩)
      exact runRelease hrel (settled_refuse hps ..)
    · have hk' : ¬ (v.kind = some .grossPreset ∧ p.stagingFull = true) := fun h =>
        absurd (of_decide_eq_true h.2) (Nat.not_le.mpr hroom)
      have hrel := (release_held (corr := corr) hl (show p.visit l = some v from hv) hst).trans (if_neg hk')
      obtain ⟨hexits, hpairing, hstaged, hbusy⟩ := enterExiting_preset (markedVisit p l v) hc hk hpre hid hroom
      obtain ⟨hvisit, hclear, -⟩ := exitsTo_released hexits
      refine ⟨_, runRelease hrel (settled_done (hexits.settled hms) ..), hvisit, hclear, hpairing, ?_, fun m => ?_, ?_, ?_⟩
      · refine hstaged.trans ?_
        rw [pairTicket_eq, grossSide_eq (v := { v with heldReleased := true }) hg]
        rfl
      · refine (hbusy m).trans ?_
        rw [blocks_setVisit]
        rfl
      · refine link_done ?_ ..
        rw [hexits.1]
        rfl
      · show ((p.setVisit l { v with heldReleased := true }).enterExiting l).decks = s.decks
        rw [hexits.1]
        rfl
  · intro hst
    obtain ⟨hrest, hlane, hreleases, hlink, hother⟩ := abortVisit_facts r l v .siteAbort hv hst
    have hne : v.state ≠ .exiting ∧ v.state ≠ .clearing := by
      rcases hst with h | h | h
      · rw [h]; decide
      · rw [h]; decide
      · rw [h]; decide
    have hset : (r.abortVisit l .siteAbort).settingsSettled :=
      settled_oneLane hrs l (by rw [hrest]) (by rw [hlane]; rfl) hother
    refine ⟨_, runAbort (visitAbort_takes hl hv hne.1 hne.2) (settled_done hset ..), hlane, hreleases,
      link_done hlink .., hother, ?_, ?_⟩
    · show (r.abortVisit l .siteAbort).tickets = s.tickets
      rw [hrest]
      rfl
    · show (r.abortVisit l .siteAbort).decks = s.decks
      rw [hrest]
      rfl
  · intro hst hplain
    obtain ⟨hadopted, hturns, haudit⟩ := closesPlainly_quiet (show r.closesPlainly l from hplain)
    obtain ⟨hrest, hlane, hother, hreleases, hlink, htickets, -⟩ :=
      endAtOnce_facts .siteAbort (show r.visit l = some v from hv) hadopted hturns haudit
    have hset := settled_endAtOnce hrs .siteAbort (show r.visit l = some v from hv) hadopted hturns haudit
    have hne : v.state ≠ .exiting ∧ v.state ≠ .clearing := by
      rcases hst with h | h
      · rw [h]; decide
      · rw [h]; decide
    have htake := visitAbort_takes (corr := corr) hl (show r.visit l = some v from hv) hne.1 hne.2
    rw [abortVisit_atOnce (show r.visit l = some v from hv) hst] at htake
    refine ⟨_, runAbort htake (settled_done hset ..), hlane, hreleases, htickets, link_done hlink .., hother, ?_⟩
    show (r.endAtOnce l .siteAbort).decks = s.decks
    rw [hrest]
    rfl

end Sys2Proof.Machine
end


section
/-! PROOFS. The settle completion: the verdict at capture, the capture, and what follows it (R62-R66, R86-R93). -/

namespace Sys2Proof.Machine

/-! ## The verdict at capture (R86-R92) -/

/-- R90: a class entry that the visit may be matched against. -/
def classMatches (permits pattern : List Nat) (c : ClassEntry) : Bool :=
  decide ((permits = [] ∨ c.id ∈ permits) ∧ c.sizes = pattern)

/-- The search of class slots that are all good finds the first entry that matches (R90). -/
theorem matchClass_good (permits pattern : List Nat) (p : Part) : ∀ is : List Nat,
    (∀ i ∈ is, ∃ z, p.tables.classActive[i]? = some z ∧ z.good = true) →
    Part.matchClass permits pattern is p =
      (p, ((is.filterMap fun i => p.tables.classActive[i]?).filterMap (·.val)).find? (classMatches permits pattern))
  | [], _ => rfl
  | i :: is, h => by
    obtain ⟨z, hz, hgood⟩ := h i List.mem_cons_self
    have ih := matchClass_good permits pattern p is fun j hj => h j (List.mem_cons_of_mem i hj)
    obtain ⟨hparity, hdamaged⟩ : z.parityOk = true ∧ z.damaged = false := by
      unfold Slot.good at hgood
      cases hd : z.damaged with
      | true => rw [hd] at hgood; cases hgood
      | false => rw [hd] at hgood; exact ⟨hgood, rfl⟩
    unfold Part.matchClass
    rw [hz]
    dsimp only
    rw [hdamaged, hparity, if_neg Bool.false_ne_true, if_neg (by decide), List.filterMap_cons_some hz]
    cases hval : z.val with
    | none =>
      rw [List.filterMap_cons_none hval]
      exact ih
    | some c =>
      rw [List.filterMap_cons_some hval, List.find?_cons]
      dsimp only
      by_cases hmatch : (permits = [] ∨ c.id ∈ permits) ∧ c.sizes = pattern
      · rw [if_pos hmatch, show classMatches permits pattern c = true from decide_eq_true hmatch]
      · rw [if_neg hmatch, show classMatches permits pattern c = false from decide_eq_false hmatch]
        exact ih

theorem range_filterMap_get {α : Type} {n : Nat} (v : Vector α n) : ((List.range n).filterMap fun i => v[i]?) = v.toList := by
  have hmap : ((List.range n).map fun i => v[i]?) = v.toList.map some := by
    refine List.ext_getElem (by simp) fun i hi _ => ?_
    have hlt : i < n := by simpa using hi
    simp [hlt]
  have := congrArg (List.filterMap id) hmap
  rwa [List.filterMap_map, List.filterMap_map, Function.id_comp, Function.id_comp, List.filterMap_some] at this

theorem matchClass_all {p : Part} (h : ∀ z ∈ p.tables.classActive.toList, z.good = true) (permits pattern : List Nat) :
    Part.matchClass permits pattern (List.range 48) p =
      (p, (p.tables.classActive.toList.filterMap (·.val)).find? (classMatches permits pattern)) := by
  have hgood : ∀ i ∈ List.range 48, ∃ z, p.tables.classActive[i]? = some z ∧ z.good = true := by
    intro i hi
    have hlt : i < 48 := List.mem_range.mp hi
    refine ⟨p.tables.classActive[i], Vector.getElem?_eq_getElem hlt, h _ ?_⟩
    exact Vector.mem_toList_iff.mpr (Vector.getElem_mem hlt)
  rw [matchClass_good permits pattern p _ hgood, range_filterMap_get]

theorem findSteps_invalid {x : Lane} (h : x.axleInvalid = true) (captured : Int) :
    findSteps x.axleInvalid x.axles captured = none := by
  unfold findSteps
  rw [h]
  rfl

theorem findSteps_found {axles : List Axle} {totals : List Int} (hband : ∀ a ∈ axles, a.offBand = false)
    (htotal : axles.map (·.total) = totals.map some) (captured : Int) :
    findSteps false axles captured = some (stepWeights totals captured) := by
  have hnone : (axles.any fun x => x.offBand) = false := List.any_eq_false.mpr fun a ha => by
    rw [hband a ha]
    exact Bool.false_ne_true
  have htotals : axles.filterMap (·.total) = totals := by
    have := congrArg (List.filterMap id) htotal
    rwa [List.filterMap_map, List.filterMap_map, Function.id_comp, Function.id_comp, List.filterMap_some] at this
  have hsome : (axles.any fun x => x.total.isNone) = false := List.any_eq_false.mpr fun a ha k => by
    have hmem : a.total ∈ totals.map some := htotal ▸ List.mem_map_of_mem ha
    obtain ⟨t, -, ht⟩ := List.mem_map.mp hmem
    rw [← ht] at k
    cases k
  unfold findSteps
  rw [hnone, hsome, htotals]
  rfl

theorem stepsPass_iff (steps : List Int) : stepsPass steps = true ↔ 0 < steps.sum ∧ ∀ w ∈ steps, 0 ≤ w := by
  unfold stepsPass
  rw [Bool.and_eq_true, decide_eq_true_iff, Bool.not_eq_true', List.any_eq_false]
  simp only [decide_eq_true_eq, not_lt]

/-- The axle records of a lane are replaced. -/
def Part.withAxles (p : Part) (l : LaneId) (axles : List Axle) : Part := p.modLane l fun x => { x with axles := axles }

section
variable {p : Part} {l : LaneId}

theorem formVerdict_unfound {captured : Int} (permits : List Nat) (gross : Int)
    (h : findSteps (p.lane l).axleInvalid (p.lane l).axles captured = none) :
    p.formVerdict l permits gross captured = (p.withAxles l (p.lane l).axles, notScreened (p.lane l).overflow) := by
  have hsame : p.withAxles l (p.lane l).axles = p := modLane_id p l rfl
  unfold Part.formVerdict
  dsimp only
  rw [h, hsame]

theorem formVerdict_failing {captured : Int} {steps : List Int} (permits : List Nat) (gross : Int)
    (h : findSteps (p.lane l).axleInvalid (p.lane l).axles captured = some steps) (hs : stepsPass steps = false) :
    p.formVerdict l permits gross captured =
      (p.withAxles l (enterWeights (p.lane l).axles steps [] []), notScreened (p.lane l).overflow) := by
  unfold Part.formVerdict
  dsimp only
  rw [h]
  exact if_neg (by rw [hs]; exact Bool.false_ne_true)

/-- The verdict of a visit whose steps pass, against the class that matches (R88-R92). -/
theorem formVerdict_passing {captured : Int} {steps : List Int} (permits : List Nat) (gross : Int)
    (h : findSteps (p.lane l).axleInvalid (p.lane l).axles captured = some steps) (hs : stepsPass steps = true)
    (hgood : ∀ z ∈ p.tables.classActive.toList, z.good = true) :
    let scaled := scaledWeights steps gross
    let groups := groupNumbers (p.settings l).groupGap ((p.lane l).axles.map (·.spacing))
    let pattern := groupPattern groups
    p.formVerdict l permits gross captured = (p.withAxles l (enterWeights (p.lane l).axles steps scaled groups),
      verdictOf (p.lane l).overflow pattern (groupMasses groups scaled) gross
        (if pattern.length ≤ 8 ∧ (p.lane l).overflow = 0 then
          (p.tables.classActive.toList.filterMap (·.val)).find? (classMatches permits pattern) else none)) := by
  intro scaled groups pattern
  have hentered : (p.modLane l fun y => { y with axles := enterWeights y.axles steps scaled groups }) =
      p.withAxles l (enterWeights (p.lane l).axles steps scaled groups) := modLane_congr _ _ _ _ rfl
  have hpassing : p.formVerdict l permits gross captured = p.screenSteps l permits gross steps := by
    unfold Part.formVerdict
    dsimp only
    rw [h]
    exact if_pos hs
  rw [hpassing]
  unfold Part.screenSteps
  dsimp only
  rw [hentered]
  by_cases hfew : pattern.length ≤ 8 ∧ (p.lane l).overflow = 0
  · rw [if_pos hfew, if_pos hfew, matchClass_all (p := p.withAxles l _) hgood]
    rfl
  · rw [if_neg hfew, if_neg hfew]

end

theorem modLane_notify (p : Part) (b : NoticeBody) (l : LaneId) (f : Lane → Lane) :
    (p.notify b).modLane l f = (p.modLane l f).notify b := by
  cases l with
  | l0 => rfl
  | l1 => rfl

/-! ## Capture (R63, R93) -/

/-- The capture of the visit on lane `l` with the verdict `r`. -/
def Part.captureOf (p : Part) (l : LaneId) (r : Verdict) : Capture :=
  { weights := p.displayedWeights l, gross := (p.displayedWeights l).sum, time := p.siteTime
    counts := l.decks.map fun d => (p.deck d).counter, verdict := r }

def Visit.capturing (v : Visit) (c : Capture) : Visit := { v with capture := some c, storeWait := false }

/-- The visit has its capture, with these axle records. -/
def Part.captured (p : Part) (l : LaneId) (v : Visit) (axles : List Axle) (r : Verdict) : Part :=
  ((p.withAxles l axles).setVisit l (v.capturing (p.captureOf l r))).notify
    (.visitCaptured l v.count v.kind (p.displayedWeights l).sum r.kind)

section
variable {p : Part} {l : LaneId} {v : Visit} {axles : List Axle} {r : Verdict}

theorem lane_captured : (p.captured l v axles r).lane l =
    { p.lane l with axles := axles, visit := some (v.capturing (p.captureOf l r)) } := by
  unfold Part.captured Part.withAxles
  show (((p.modLane l _).setVisit l _).lane l) = _
  unfold Part.setVisit
  rw [modLane_modLane, lane_modLane_self]

theorem blocks_modLane (p : Part) (l : LaneId) {f : Lane → Lane} (h : ∀ x, (f x).blocks = x.blocks) (m : LaneId) :
    ((p.modLane l f).lane m).blocks = (p.lane m).blocks := by
  rw [lane_modLane]
  split
  · next hm => rw [h, hm]
  · rfl

theorem blocks_captured (m : LaneId) : ((p.captured l v axles r).lane m).blocks = (p.lane m).blocks := by
  have hvisit := blocks_modLane (p.withAxles l axles) l
    (f := fun x => { x with visit := some (v.capturing (p.captureOf l r)) }) (fun _ => rfl) m
  exact hvisit.trans (blocks_modLane p l (f := fun x => { x with axles := axles }) (fun _ => rfl) m)

theorem settings_captured : (p.captured l v axles r).settings l = p.settings l :=
  settings_same rfl (by rw [lane_captured])

theorem capture_eq (h : p.formVerdict l v.permits (p.displayedWeights l).sum (p.rawTotal l) = (p.withAxles l axles, r)) :
    p.capture l v = if v.kind ≠ some .tare ∧ r.kind = .over ∧ (p.settings l).overload = .hold then
      (((p.captured l v axles r).setVisit l { v.capturing (p.captureOf l r) with state := .held }).modLane l fun x =>
        { x with settleTimer := .stopped }).notify
          (.visitHeld l v.count v.vehicle (p.displayedWeights l).sum r.overGroups r.overGross)
      else (p.captured l v axles r).enterExiting l := by
  rw [← settings_captured (p := p) (v := v) (axles := axles) (r := r)]
  unfold Part.capture
  dsimp only
  rw [h]
  rfl

end

/-- The visit is HELD with its capture (R65). -/
def Part.holding (p : Part) (l : LaneId) (v : Visit) (axles : List Axle) (r : Verdict) (c : Capture) : Part :=
  ((p.modLane l fun y => { y with
    settleTimer := .stopped, axles := axles, visit := some { v with state := .held, storeWait := false, capture := some c } }).notify
      (.visitCaptured l v.count v.kind c.gross .over)).notify
        (.visitHeld l v.count v.vehicle c.gross r.overGroups r.overGross)

section
variable {p : Part} {l : LaneId} {v : Visit} {axles : List Axle} {r : Verdict} {c : Capture}

theorem settled_holding (h : p.settingsSettled) : (p.holding l v axles r c).settingsSettled :=
  settled_notify (settled_notify (settled_modLane h l (fun y => { y with
    settleTimer := .stopped, axles := axles, visit := some { v with state := .held, storeWait := false, capture := some c } })
      fun _ => rfl) _) _

theorem capture_holds (h : p.formVerdict l v.permits (p.displayedWeights l).sum (p.rawTotal l) = (p.withAxles l axles, r))
    (hholds : v.kind ≠ some .tare ∧ r.kind = .over ∧ (p.settings l).overload = .hold) :
    p.capture l v = p.holding l v axles r (p.captureOf l r) := by
  rw [capture_eq h, if_pos hholds]
  unfold Part.captured Part.setVisit Part.withAxles
  rw [modLane_notify, modLane_notify, modLane_modLane, modLane_modLane, modLane_modLane, hholds.2.1]
  rfl

/-- The settle timer of a visit that is held has not to be stopped before. -/
theorem holding_modLane : (p.modLane l fun x => { x with settleTimer := .expired }).holding l v axles r c =
    p.holding l v axles r c := by
  unfold Part.holding
  rw [modLane_modLane]

end

/-! ## The settle completion (R62) -/

section
variable {p : Part} {l : LaneId} {v : Visit}

theorem settleComplete_below (hs : p.settingsSettled) (hv : p.visit l = some v) (hst : v.state = .settling)
    (h : (p.displayedWeights l).sum < (p.settings l).minGross) :
    p.settleComplete l = p.abortVisit l .belowMinimum := by
  unfold Part.settleComplete
  dsimp only
  rw [checkLane_id hs, hv]
  dsimp only
  rw [if_neg (not_not.mpr hst), if_pos h]

theorem settleComplete_weighed (hs : p.settingsSettled) (hv : p.visit l = some v) (hst : v.state = .settling)
    (h : ((p.settings l).minGross : Int) ≤ (p.displayedWeights l).sum) : p.settleComplete l =
      if (v.kind = some .tare ∨ v.kind = some .grossPreset) ∧ p.stagingFull = true then
        (p.setVisit l { v with storeWait := true }).modLane l fun x => { x with settleTimer := .expired }
      else p.capture l v := by
  unfold Part.settleComplete
  dsimp only
  rw [checkLane_id hs, hv]
  dsimp only
  rw [if_neg (not_not.mpr hst), if_neg (not_lt.mpr h)]

/-- A GROSS visit enters EXITING, whatever its pending entry (R66). -/
theorem enterExiting_gross_exits {c : Capture} (hv : p.visit l = some v) (hc : v.capture = some c)
    (hk : v.kind = some .gross) : p.exitsTo (p.enterExiting l) l v ∧ (p.enterExiting l).tickets = p.tickets := by
  have hplain (h : (p.exiting l v).takeEffect l v c = p.exiting l v) :
      p.exitsTo (p.enterExiting l) l v ∧ (p.enterExiting l).tickets = p.tickets := by
    rw [enterExiting_eq hv hc, h]
    exact ⟨⟨rfl, fun _ => rfl⟩, rfl⟩
  cases hi : v.pendingIndex with
  | none =>
    refine hplain ?_
    unfold Part.takeEffect
    rw [hk, hi]
  | some i =>
    cases he : p.slot i with
    | none =>
      refine hplain ?_
      unfold Part.takeEffect
      rw [hk, hi]
      dsimp only
      rw [show (p.exiting l v).slot i = none from he]
    | some e =>
      obtain ⟨hexits, htickets, -⟩ := enterExiting_gross hv hc hk hi he
      exact ⟨hexits, htickets⟩

end

/-- What the entry to EXITING of a captured visit leaves. -/
theorem captured_exits {p q : Part} {l : LaneId} {v : Visit} {axles : List Axle} {r : Verdict}
    (h : (p.captured l v axles r).exitsTo q l (v.capturing (p.captureOf l r))) :
    q.visit l = some { v with state := .exiting, storeWait := false, capture := some (p.captureOf l r) } ∧
      (q.lane l).settleTimer = .stopped ∧ (q.lane l).clearTimer = p.clearsFrom l ∧
      q.link = (p.notify (.visitCaptured l v.count v.kind (p.displayedWeights l).sum r.kind)).link ∧
      q.lane l.other = { p.lane l.other with blocks := (q.lane l.other).blocks } ∧ q.decks = p.decks ∧
      q.audit = p.audit ∧ q.tables = p.tables ∧ (q.lane l).axles = axles := by
  obtain ⟨hrest, hlanes⟩ := h
  have hself := hlanes l
  have hother := hlanes l.other
  have hclears : (p.captured l v axles r).clearsFrom l = p.clearsFrom l := by
    unfold Part.clearsFrom Part.laneEnd
    rw [lane_captured]
    rfl
  have hcapturedOther : (p.captured l v axles r).lane l.other = p.lane l.other := by
    unfold Part.captured Part.withAxles
    show (((p.modLane l _).setVisit l _).lane l.other) = _
    unfold Part.setVisit
    rw [modLane_modLane, lane_modLane_other]
  unfold Part.exiting at hself hother
  rw [lane_modLane_self, hclears, lane_captured] at hself
  rw [lane_modLane_other, hcapturedOther] at hother
  refine ⟨?_, ?_, ?_, ?_, hother, ?_, ?_, ?_, ?_⟩
  · unfold Part.visit
    rw [hself]
    rfl
  · rw [hself]
    rfl
  · rw [hself]
    rfl
  · rw [hrest]
    rfl
  · rw [hrest]
    rfl
  · rw [hrest]
    rfl
  · rw [hrest]
    rfl
  · rw [hself]
    rfl

theorem visit_captured {p : Part} {l : LaneId} {v : Visit} {axles : List Axle} {r : Verdict} :
    (p.captured l v axles r).visit l = some (v.capturing (p.captureOf l r)) := by
  unfold Part.visit
  rw [lane_captured]

theorem settled_captured {p : Part} (hs : p.settingsSettled) {l : LaneId} {v : Visit} {axles : List Axle} {r : Verdict} :
    (p.captured l v axles r).settingsSettled :=
  settled_notify (p := (p.withAxles l axles).setVisit l (v.capturing (p.captureOf l r)))
    (settled_modLane (p := p.withAxles l axles) (settled_modLane hs l (fun x => { x with axles := axles }) fun _ => rfl) l
      (fun x => { x with visit := some (v.capturing (p.captureOf l r)) }) fun _ => rfl) _

/-- Settles O38: the verdict by `formVerdict_unfound`, `formVerdict_failing` and `formVerdict_passing`, the results by the
rows of `enterExiting`. -/
theorem settleCompletionRows : Obligations.SettleCompletionRows := by
  intro l v deadline s hs hv hst ht p x weights counts gross unscreened captures exits opens stages
  set P := p.modLane l fun x => { x with settleTimer := .expired } with hP
  have hPs : P.settingsSettled := settled_modLane (settled_elapse hs _) l _ fun _ => rfl
  have hlane : P.lane l = { x with settleTimer := .expired } := lane_modLane_self ..
  have hPv : P.visit l = some v := by
    unfold Part.visit
    rw [hlane]
    exact hv
  have hset : P.settings l = s.toPart.settings l := settings_modLane p l fun _ => rfl
  have hclears : P.clearsFrom l = p.clearsFrom l := by
    unfold Part.clearsFrom Part.laneEnd
    rw [hlane]
    rfl
  have hother : P.lane l.other = s.toPart.lane l.other := lane_modLane_other ..
  have run {r : Part} (hr : P.settleComplete l = r) (hrs : r.settingsSettled) : endsAs (.settleCompletion l) s r :=
    endsAs_run (.settleCompletion l) s (fun p => p.expire (p.lane l).settleTimer fun q =>
      (q.modLane l fun x => { x with settleTimer := .expired }).settleComplete l) _ rfl ((expire_running ht _).trans hr) hrs
  have exitsOf {axles : List Axle} {r : Verdict} {q : Part} (hq : P.settleComplete l = q)
      (h : (P.captured l v axles r).exitsTo q l (v.capturing (P.captureOf l r))) :
      exits q r ∧ (q.lane l).axles = axles := by
    obtain ⟨hvisit, hsettle, hclear, hlink, hoth, hdecks, haudit, htables, haxles⟩ := captured_exits h
    rw [hclears] at hclear
    rw [hother] at hoth
    exact ⟨⟨run hq (h.settled (settled_captured hPs)), hvisit, hsettle, hclear, hlink, hoth, hdecks, haudit, htables⟩, haxles⟩
  refine ⟨fun hbelow => ?_, fun hmin => ?_⟩
  · obtain ⟨hrest, haborts, hreleases, hlink, hoth⟩ := abortVisit_facts P l v .belowMinimum hPv (.inr (.inl hst))
    refine ⟨_, run (settleComplete_below hPs hPv hst ?_) (settled_oneLane hPs l (by rw [hrest]) (by rw [haborts]; rfl) hoth),
      ?_, hreleases, hlink⟩
    · rw [hset]
      exact hbelow
    · rw [haborts, hlane, hclears]
      rfl
  have weighed := settleComplete_weighed hPs hPv hst (by rw [hset]; exact hmin)
  have exiting {axles : List Axle} {r : Verdict} (hstage : ¬ ((v.kind = some .tare ∨ v.kind = some .grossPreset) ∧ P.stagingFull = true))
      (hno : v.kind = some .tare ∨ r.kind ≠ .over ∨ (s.toPart.settings l).overload = .note)
      (form : P.formVerdict l v.permits (P.displayedWeights l).sum (P.rawTotal l) = (P.withAxles l axles, r)) :
      P.settleComplete l = (P.captured l v axles r).enterExiting l := by
    rw [weighed, if_neg hstage, capture_eq form, hset]
    refine if_neg ?_
    rintro ⟨hkind, hover, hhold⟩
    rcases hno with h | h | h
    · exact hkind h
    · exact h hover
    · exact absurd (h.symm.trans hhold) (by decide)
  have grossOf {axles : List Axle} {r : Verdict} (hk : v.kind = some .gross)
      (hno : r.kind ≠ .over ∨ (s.toPart.settings l).overload = .note)
      (form : P.formVerdict l v.permits (P.displayedWeights l).sum (P.rawTotal l) = (P.withAxles l axles, r)) :
      ∃ q, exits q r ∧ opens q r ∧ (q.lane l).axles = axles ∧ q.tickets = s.tickets := by
    have hstage : ¬ ((v.kind = some .tare ∨ v.kind = some .grossPreset) ∧ P.stagingFull = true) := by
      rintro ⟨h | h, -⟩
      · exact absurd (hk.symm.trans h) (by decide)
      · exact absurd (hk.symm.trans h) (by decide)
    obtain ⟨hexits, htickets⟩ := enterExiting_gross_exits (visit_captured (p := P) (l := l) (v := v) (axles := axles) (r := r)) rfl hk
    obtain ⟨hexited, haxles⟩ := exitsOf (exiting hstage (.inr hno) form) hexits
    refine ⟨_, hexited, fun i e g hi he hg => ?_, haxles, htickets⟩
    obtain ⟨-, -, -, hslot, hslots, hdirty⟩ := enterExiting_gross (visit_captured (p := P) (l := l) (v := v) (axles := axles) (r := r))
      rfl hk hi (show (P.captured l v axles r).slot i = some e from he)
    refine ⟨hslot.trans (congrArg (fun g => some { e with state := .opened g }) ?_), hslots, hdirty⟩
    exact grossSide_eq (v := v.capturing (P.captureOf l r)) hg l (P.captureOf l r)
  have hunscreened : unscreened.kind ≠ .over := show VerdictKind.notScreened ≠ .over by decide
  have unfound (hinv : x.axleInvalid = true) : P.formVerdict l v.permits (P.displayedWeights l).sum (P.rawTotal l) =
      (P.withAxles l x.axles, unscreened) := by
    have hform := formVerdict_unfound v.permits (P.displayedWeights l).sum
      (findSteps_invalid (x := P.lane l) (by rw [hlane]; exact hinv) (P.rawTotal l))
    rw [hlane] at hform
    exact hform
  have hblocks : ∀ m, (P.lane m).blocks = (s.toPart.lane m).blocks := blocks_modLane _ _ fun _ => rfl
  refine ⟨fun hk hfull => ?_, fun hk hinv i e g hi he hg => ?_, fun hk hinv totals hband htot => ?_,
    fun hroom hinv => ⟨fun hk i e g m hi he hest => ?_, fun hk t g id hpre hg hid => ?_⟩⟩
  · refine run (weighed.trans ((if_pos ⟨hk, decide_eq_true hfull⟩).trans ?_)) (settled_modLane (settled_elapse hs _) l _ fun _ => rfl)
    unfold Part.setVisit
    rw [hP, modLane_modLane, modLane_modLane]
  · obtain ⟨q, hexits, hopens, haxles, htickets⟩ := grossOf hk (.inl hunscreened) (unfound hinv)
    exact ⟨q, hexits, hopens, haxles, htickets⟩
  · intro raw steps
    have hfound : findSteps (P.lane l).axleInvalid (P.lane l).axles (P.rawTotal l) = some steps := by
      rw [hlane]
      dsimp only
      rw [hinv]
      exact findSteps_found hband htot raw
    refine ⟨fun hfail => ?_, fun hsum hpos hgood => ?_⟩
    · have hno : stepsPass steps = false := Bool.eq_false_iff.mpr fun h => by
        obtain ⟨hsum, hpos⟩ := (stepsPass_iff steps).mp h
        rcases hfail with h | ⟨w, hw, hneg⟩
        · omega
        · exact absurd (hpos w hw) (not_le.mpr hneg)
      have hform := formVerdict_failing v.permits (P.displayedWeights l).sum hfound hno
      rw [hlane] at hform
      obtain ⟨q, hexits, hopens, haxles, -⟩ := grossOf (r := unscreened) hk (.inl hunscreened) hform
      exact ⟨q, hexits, hopens, haxles⟩
    · intro scaled groups pattern matching r axles
      have hform : P.formVerdict l v.permits (P.displayedWeights l).sum (P.rawTotal l) = (P.withAxles l axles, r) := by
        have hform := formVerdict_passing v.permits (P.displayedWeights l).sum hfound ((stepsPass_iff steps).mpr ⟨hsum, hpos⟩) hgood
        dsimp only at hform
        rw [hlane, hset] at hform
        exact hform
      refine ⟨fun hno => ?_, fun hover hhold => ?_⟩
      · obtain ⟨q, hexits, hopens, haxles, -⟩ := grossOf hk hno hform
        exact ⟨q, hexits, hopens, haxles⟩
      · have hstage : ¬ ((v.kind = some .tare ∨ v.kind = some .grossPreset) ∧ P.stagingFull = true) := by
          rintro ⟨h | h, -⟩
          · exact absurd (hk.symm.trans h) (by decide)
          · exact absurd (hk.symm.trans h) (by decide)
        have hholds : v.kind ≠ some .tare ∧ r.kind = .over ∧ (P.settings l).overload = .hold :=
          ⟨fun h => absurd (hk.symm.trans h) (by decide), hover, by rw [hset]; exact hhold⟩
        have hcapture := capture_holds hform hholds
        have hheld := (weighed.trans (if_neg hstage)).trans hcapture
        rw [hP, holding_modLane, ← hP] at hheld
        exact run hheld (settled_holding (settled_elapse hs _))
  · have hstage : ¬ ((v.kind = some .tare ∨ v.kind = some .grossPreset) ∧ P.stagingFull = true) := fun h =>
      absurd (of_decide_eq_true h.2) (Nat.not_le.mpr hroom)
    have hcv := visit_captured (p := P) (l := l) (v := v) (axles := x.axles) (r := unscreened)
    obtain ⟨hexits, hslot, hslots, hdirty, hstages⟩ := enterExiting_tare hcv rfl hk hi
      (show (P.captured l v x.axles unscreened).slot i = some e from he) hest hroom
    obtain ⟨hexited, -⟩ := exitsOf (exiting hstage (.inl hk) (unfound hinv)) hexits
    obtain ⟨hstaged, hbusy⟩ := hstages
    refine ⟨_, hexited, hslot, hslots, hdirty, hstaged.trans ?_, fun m => (hbusy m).trans ?_⟩
    · rw [pairTicket_eq]
      rfl
    · rw [blocks_captured, hblocks]
      rfl
  · have hstage : ¬ ((v.kind = some .tare ∨ v.kind = some .grossPreset) ∧ P.stagingFull = true) := fun h =>
      absurd (of_decide_eq_true h.2) (Nat.not_le.mpr hroom)
    have hcv := visit_captured (p := P) (l := l) (v := v) (axles := x.axles) (r := unscreened)
    obtain ⟨hexits, hpairing, hstages⟩ := enterExiting_preset hcv rfl hk hpre hid hroom
    obtain ⟨hexited, -⟩ := exitsOf (exiting hstage (.inr (.inl hunscreened)) (unfound hinv)) hexits
    obtain ⟨hstaged, hbusy⟩ := hstages
    refine ⟨_, hexited, hpairing, hstaged.trans ?_, fun m => (hbusy m).trans ?_⟩
    · rw [pairTicket_eq, grossSide_eq (v := v.capturing (P.captureOf l unscreened)) hg]
      rfl
    · rw [blocks_captured, hblocks]
      rfl

end Sys2Proof.Machine
end


section
/-! PROOFS. A session becomes ACTIVE, and the rows of AUDIT_OPEN (R148-R150, R40). -/

namespace Sys2Proof.Machine

/-! ## Notices and responses -/

theorem responses_queueNotice (k : Link) (n : Notice) : (k.queueNotice n).responses = k.responses := by
  unfold Link.queueNotice
  split
  · split
    · rfl
    · rfl
  · split
    · rfl
    · rfl

theorem responses_notify (p : Part) (b : NoticeBody) : (p.notify b).link.responses = p.link.responses :=
  responses_queueNotice _ _

/-! ## Records handed to a trail that takes them (R161) -/

theorem hand_staged {t : Trail} (hgap : t.gap = 0) (hfree : 1 ≤ t.free) (hroom : t.staging.length < 16) (r gap : TrailRecord) :
    t.hand r gap = { t with staging := t.staging ++ [r] } := by
  unfold Trail.hand
  rw [if_pos hgap, if_pos ⟨hfree, hroom⟩]

/-! ## The lane and the deck of a session that becomes ACTIVE -/

/-- The lane of a session that becomes ACTIVE enters AUDIT, and no session waits for it then (R40). -/
def Lane.audited (x : Lane) : Lane := { x with state := .audit, blocks := { x.blocks with auditPending := false } }

theorem enterAudit_facts (p : Part) (l : LaneId) :
    let q := (p.modBlocks l fun b => { b with auditPending := false }).enterLaneState l .audit
    q = { p with lanes := (p.modLane l Lane.audited).lanes, link := q.link } ∧ q.link.responses = p.link.responses := by
  have hblocks : (p.modBlocks l fun b => { b with auditPending := false }) =
      p.modLane l fun x => { x with blocks := { x.blocks with auditPending := false } } := rfl
  dsimp only
  rw [hblocks]
  by_cases h : (p.lane l).state = .audit
  · have hstate : ((p.modLane l fun x => { x with blocks := { x.blocks with auditPending := false } }).lane l).state = .audit := by
      rw [lane_modLane_self]
      exact h
    have hlane : (p.modLane l fun x => { x with blocks := { x.blocks with auditPending := false } }) =
        p.modLane l Lane.audited := by
      refine modLane_congr _ _ _ _ ?_
      unfold Lane.audited
      rw [← h]
    unfold Part.enterLaneState
    rw [if_pos hstate, hlane]
    exact ⟨rfl, rfl⟩
  · have hstate : ((p.modLane l fun x => { x with blocks := { x.blocks with auditPending := false } }).lane l).state ≠ .audit := by
      rw [lane_modLane_self]
      exact h
    rw [enterLaneState_ne _ _ _ hstate, modLane_modLane]
    exact ⟨rfl, responses_notify _ _⟩

/-- On a lane in AUDIT a deck that is no longer in FAULT changes the cause set alone. -/
theorem clearDeckFault_audit {p : Part} {l : LaneId} (h : (p.lane l).state = .audit) :
    p.clearDeckFault l = p.modLane l fun x => { x with causes := ((p.clearDeckFault l).lane l).causes } := by
  have hkept : p = p.modLane l fun x => { x with causes := (p.lane l).causes } := (modLane_id p l rfl).symm
  have hclears : p.laneClear l .deckFault = p ∨
      p.laneClear l .deckFault = p.modLane l fun x => { x with causes := x.causes.put false .deckFault } := by
    unfold Part.laneClear
    split
    · refine .inr (if_neg ?_)
      rintro ⟨-, k, -⟩
      rw [lane_modLane_self] at k
      exact absurd (h.symm.trans k) (by decide)
    · exact .inl rfl
  unfold Part.clearDeckFault
  split
  · rcases hclears with hc | hc
    · rw [hc]
      exact hkept
    · rw [hc]
      refine modLane_congr _ _ _ _ ?_
      rw [lane_modLane_self]
  · exact hkept

/-- A deck that a session takes to AUDIT (R144, R150). -/
def Deck.audited (x : Deck) : Deck :=
  let y := ({ x with service := .audit } : Deck).restart
  { y with persisted := y.persistedValue }

/-- At most the decks, the lanes, the audit unit, the store and the link have changed. -/
def Part.auditsOnly (p q : Part) : Prop :=
  ∃ decks lanes audit store link, q = { p with decks := decks, lanes := lanes, audit := audit, store := store, link := link }

theorem Part.auditsOnly.trans {p q r : Part} (h : p.auditsOnly q) (k : q.auditsOnly r) : p.auditsOnly r := by
  obtain ⟨_, _, _, _, _, rfl⟩ := h
  obtain ⟨_, _, _, _, _, rfl⟩ := k
  exact ⟨_, _, _, _, _, rfl⟩

/-- At most the cause set and TRAIL_FULL of a lane have changed. -/
def Lane.sameButCauses (x y : Lane) : Prop :=
  ∃ causes full, y = { x with causes := causes, blocks := { x.blocks with trailFull := full } }

theorem sameButCauses_refl (x : Lane) : x.sameButCauses x := ⟨_, _, rfl⟩

theorem Lane.sameButCauses.trans {x y z : Lane} (h : x.sameButCauses y) (k : y.sameButCauses z) : x.sameButCauses z := by
  obtain ⟨_, _, rfl⟩ := h
  obtain ⟨_, _, rfl⟩ := k
  exact ⟨_, _, rfl⟩

theorem sameButCauses_of_trailFull {x y : Lane} (h : sameButTrailFull x y) : x.sameButCauses y :=
  ⟨x.causes, y.blocks.trailFull, h⟩

theorem clearDeckFault_audits {p : Part} {l : LaneId} (h : (p.lane l).state = .audit) :
    ∃ causes, p.clearDeckFault l = p.modLane l fun x => { x with causes := causes } := ⟨_, clearDeckFault_audit h⟩

/-- Step 3 of R144 for a deck that goes to AUDIT. -/
theorem toAudit_clears {p : Part} {l : LaneId} (h : (p.lane l).state = .audit) (old : ServiceState) :
    ∃ causes, (if old = .fault then p.clearDeckFault l else p) = p.modLane l fun x => { x with causes := causes } := by
  by_cases hf : old = .fault
  · rw [if_pos hf]
    exact clearDeckFault_audits h
  · rw [if_neg hf]
    exact ⟨(p.lane l).causes, (modLane_id p l rfl).symm⟩

theorem sameButCauses_modLane (p : Part) (l : LaneId) (causes : LaneCauses) (m : LaneId) :
    (p.lane m).sameButCauses ((p.modLane l fun x => { x with causes := causes }).lane m) := by
  rw [lane_modLane]
  by_cases hm : m = l
  · rw [if_pos hm, hm]
    exact ⟨_, _, rfl⟩
  · rw [if_neg hm]
    exact sameButCauses_refl _

/-- The change of a deck to AUDIT on a lane in AUDIT (R144). -/
theorem serviceToAudit_facts {p : Part} {d : DeckId} (hi : p.inFlightOn d = none)
    (hl : (p.lane (laneOf d)).state = .audit) :
    let q := p.serviceToAudit d
    p.auditsOnly q ∧ q.audit = { p.audit with
        trail := p.handed (some d) (.service (p.deck d).service .audit (p.deck d).causes) } ∧
      q.deck d = (p.deck d).audited ∧ (∀ e, e ≠ d → q.deck e = p.deck e) ∧
      (∀ m, (p.lane m).sameButCauses (q.lane m)) ∧ q.link.responses = p.link.responses := by
  obtain ⟨hdeck, hdecks, hlanes, hhead⟩ := serviceHead_facts p d .audit hi
  rw [if_neg (by decide)] at hdeck
  have hq : p.serviceToAudit d = (if (p.deck d).service = .fault then (p.serviceHead d .audit).clearDeckFault (laneOf d)
      else p.serviceHead d .audit).serviceTail d (p.deck d).service .audit := rfl
  dsimp only
  rw [hq]
  generalize p.serviceHead d .audit = h at *
  have hstate : (h.lane (laneOf d)).state = .audit := by
    rw [hlanes (laneOf d)]
    exact hl
  obtain ⟨causes, hcleared⟩ := toAudit_clears hstate (p.deck d).service
  rw [hcleared]
  have hcauses := sameButCauses_modLane h (laneOf d) causes
  have honly : p.auditsOnly (h.modLane (laneOf d) fun x => { x with causes := causes }) := by
    rw [hhead]
    exact ⟨_, _, _, _, _, rfl⟩
  have haudit : (h.modLane (laneOf d) fun x => { x with causes := causes }).audit = { p.audit with
      trail := p.handed (some d) (.service (p.deck d).service .audit (p.deck d).causes) } := by
    rw [hhead]
    rfl
  have hlink : (h.modLane (laneOf d) fun x => { x with causes := causes }).link = p.link := by
    rw [hhead]
    rfl
  have hdeck' : ∀ e, (h.modLane (laneOf d) fun x => { x with causes := causes }).deck e = h.deck e := fun _ => rfl
  generalize (h.modLane (laneOf d) fun x => { x with causes := causes }) = c at *
  obtain ⟨htail, htailDecks, htailDeck⟩ := serviceTail_facts c d (p.deck d).service .audit
  have hresponses : (c.serviceTail d (p.deck d).service .audit).link.responses = c.link.responses := by
    unfold Part.serviceTail
    dsimp only
    rw [responses_notify, (judgePersisted_facts c d).1]
  generalize c.serviceTail d (p.deck d).service .audit = q at *
  refine ⟨honly.trans ⟨_, _, _, _, _, htail⟩, ?_, ?_, fun e he => ?_, fun m => ?_, ?_⟩
  · rw [htail]
    exact haudit
  · rw [htailDeck, hdeck', hdeck]
    rfl
  · rw [htailDecks e he, hdeck', hdecks e he]
  · have hlane : q.lane m = c.lane m := by
      rw [htail]
      rfl
    rw [hlane]
    exact (sameButCauses_of_trailFull (hlanes m)).trans (hcauses m)
  · rw [hresponses, hlink]

/-! ## A session becomes ACTIVE (R150) -/

/-- What a session notes of its lane and its deck as it becomes ACTIVE. -/
def Part.atOpening (p : Part) (d : DeckId) : AtOpen := ⟨(p.lane (laneOf d)).state, (p.deck d).service, (p.deck d).counter⟩

/-- The trail once a session that becomes ACTIVE has handed its two records to it. -/
def Part.opensTrail (p : Part) (y : Session) : Trail :=
  let o := p.atOpening y.deck
  ({ p with audit := { p.audit with
    trail := p.handed (some y.deck) (.auditOpen y.reason o.lane o.deck o.count y.openTime) } } : Part).handed (some y.deck)
      (.service (p.deck y.deck).service .audit (p.deck y.deck).causes)

/-- The lane of a session that becomes ACTIVE enters AUDIT (R40). -/
def Part.laneToAudit (p : Part) (l : LaneId) : Part :=
  (p.modBlocks l fun b => { b with auditPending := false }).enterLaneState l .audit

theorem laneToAudit_facts (p : Part) (l : LaneId) :
    let q := p.laneToAudit l
    p.auditsOnly q ∧ (∀ m, q.lane m = (p.modLane l Lane.audited).lane m) ∧ q.decks = p.decks ∧ q.audit = p.audit ∧
      q.clock = p.clock ∧ q.link.responses = p.link.responses := by
  obtain ⟨hrest, hresponses⟩ := enterAudit_facts p l
  have hq : p.laneToAudit l = (p.modBlocks l fun b => { b with auditPending := false }).enterLaneState l .audit := rfl
  dsimp only
  rw [hq]
  generalize (p.modBlocks l fun b => { b with auditPending := false }).enterLaneState l .audit = q at *
  refine ⟨⟨_, _, _, _, _, hrest⟩, fun m => ?_, ?_, ?_, ?_, hresponses⟩
  · rw [hrest]
    rfl
  · rw [hrest]
  · rw [hrest]
  · rw [hrest]

/-- The deck of a session that becomes ACTIVE has its marker, and its image is to be written (R146, R150). -/
theorem markedImage_facts (p : Part) (d : DeckId) :
    let q := (p.modDeck d fun x => { x with marker := some 0 }).markImage d
    p.auditsOnly q ∧ q.lanes = p.lanes ∧ q.audit = p.audit ∧ q.link = p.link ∧
      q.deck d = { p.deck d with marker := some 0 } ∧ ∀ e, e ≠ d → q.deck e = p.deck e := by
  obtain ⟨hrest, -, -⟩ := markImage_facts (p.modDeck d fun x => { x with marker := some 0 }) d
  dsimp only
  generalize (p.modDeck d fun x => { x with marker := some 0 }).markImage d = q at *
  have hdeck : ∀ e, q.deck e = (p.modDeck d fun x => { x with marker := some 0 }).deck e := fun e => by
    rw [hrest]
    rfl
  refine ⟨⟨_, _, _, _, _, hrest⟩, ?_, ?_, ?_, ?_, fun e he => ?_⟩
  · rw [hrest]
    rfl
  · rw [hrest]
    rfl
  · rw [hrest]
    rfl
  · rw [hdeck, deck_modDeck_self]
  · rw [hdeck, deck_modDeck, if_neg he]

/-- What a record makes of the trail hangs on the trail and the clock alone. -/
theorem handed_congr {p q : Part} (ht : q.audit.trail = p.audit.trail) (hc : q.clock = p.clock) (d : Option DeckId)
    (b : TrailBody) : q.handed d b = p.handed d b := by
  unfold Part.handed Part.siteTime
  rw [ht, hc]

/-- Everything that a session which becomes ACTIVE changes (R150). -/
theorem activate_facts (p : Part) {y : Session} (hi : y.inFlight = none) :
    let d := y.deck
    let q := p.activate y
    p.auditsOnly q ∧ q.audit = { p.audit with
        session := some { y with atOpen := some (p.atOpening d) }, waitTimer := .stopped, trail := p.opensTrail y } ∧
      q.deck d = { (p.deck d).audited with marker := some 0 } ∧ (∀ e, e ≠ d → q.deck e = p.deck e) ∧
      (∀ m, m ≠ laneOf d → (p.lane m).sameButCauses (q.lane m)) ∧
      (p.lane (laneOf d)).audited.sameButCauses (q.lane (laneOf d)) ∧ q.link.responses = p.link.responses := by
  set o := p.atOpening y.deck with ho
  have hq : p.activate y = ((((((p.modAudit fun a => { a with
      session := some { y with atOpen := some o }, waitTimer := .stopped }).laneToAudit (laneOf y.deck)).handTrail (some y.deck)
        (.auditOpen y.reason o.lane o.deck o.count y.openTime)).serviceToAudit y.deck).modDeck y.deck fun x =>
          { x with marker := some 0 }).markImage y.deck).notify (.auditStarted y.deck y.reason) := rfl
  dsimp only
  rw [hq]
  have honly1 : p.auditsOnly (p.modAudit fun a => { a with session := some { y with atOpen := some o }, waitTimer := .stopped }) :=
    ⟨_, _, _, _, _, rfl⟩
  have haudit1 : (p.modAudit fun a => { a with session := some { y with atOpen := some o }, waitTimer := .stopped }).audit =
      { p.audit with session := some { y with atOpen := some o }, waitTimer := .stopped } := rfl
  have hdecks1 : (p.modAudit fun a => { a with session := some { y with atOpen := some o }, waitTimer := .stopped }).decks =
      p.decks := rfl
  have hlanes1 : ∀ m f, ((p.modAudit fun a => { a with session := some { y with atOpen := some o }, waitTimer := .stopped }).modLane
      (laneOf y.deck) f).lane m = (p.modLane (laneOf y.deck) f).lane m := fun _ _ => rfl
  have hclock1 : (p.modAudit fun a => { a with session := some { y with atOpen := some o }, waitTimer := .stopped }).clock =
      p.clock := rfl
  have hlink1 : (p.modAudit fun a => { a with session := some { y with atOpen := some o }, waitTimer := .stopped }).link =
      p.link := rfl
  generalize (p.modAudit fun a => { a with session := some { y with atOpen := some o }, waitTimer := .stopped }) = p1 at *
  obtain ⟨honly2, hlanes2, hdecks2, haudit2, hclock2, hresponses2⟩ := laneToAudit_facts p1 (laneOf y.deck)
  generalize p1.laneToAudit (laneOf y.deck) = p2 at *
  obtain ⟨hrest3, hlanes3⟩ := handTrail_facts p2 (some y.deck) (.auditOpen y.reason o.lane o.deck o.count y.openTime)
  have hflight : (p2.handTrail (some y.deck) (.auditOpen y.reason o.lane o.deck o.count y.openTime)).inFlightOn y.deck = none := by
    rw [inFlightOn_handTrail]
    unfold Part.inFlightOn
    rw [haudit2, haudit1]
    exact (if_pos rfl).trans hi
  generalize p2.handTrail (some y.deck) (.auditOpen y.reason o.lane o.deck o.count y.openTime) = p3 at *
  have hstate3 : (p3.lane (laneOf y.deck)).state = .audit := by
    rw [hlanes3, hlanes2, hlanes1, lane_modLane_self]
    rfl
  obtain ⟨honly4, haudit4, hdeck4, hdecks4, hlanes4, hresponses4⟩ := serviceToAudit_facts hflight hstate3
  generalize p3.serviceToAudit y.deck = p4 at *
  obtain ⟨honly5, hlanes5, haudit5, hlink5, hdeck5, hdecks5⟩ := markedImage_facts p4 y.deck
  generalize (p4.modDeck y.deck fun x => { x with marker := some 0 }).markImage y.deck = p5 at *
  have hdecks3 : ∀ e, p3.deck e = p.deck e := fun e => by
    unfold Part.deck
    rw [hrest3]
    dsimp only
    rw [hdecks2, hdecks1]
  have hlane : ∀ m, ((p.modLane (laneOf y.deck) Lane.audited).lane m).sameButCauses (p5.lane m) := fun m => by
    have h5 : p5.lane m = p4.lane m := by
      unfold Part.lane
      rw [hlanes5]
    rw [h5, ← hlanes1, ← hlanes2]
    exact (sameButCauses_of_trailFull (hlanes3 m)).trans (hlanes4 m)
  refine ⟨?_, ?_, ?_, fun e he => ?_, fun m hm => ?_, ?_, ?_⟩
  · exact ((((honly1.trans honly2).trans ⟨_, _, _, _, _, hrest3⟩).trans honly4).trans honly5).trans ⟨_, _, _, _, _, rfl⟩
  · have htrail2 : p2.handed (some y.deck) (.auditOpen y.reason o.lane o.deck o.count y.openTime) =
        p.handed (some y.deck) (.auditOpen y.reason o.lane o.deck o.count y.openTime) :=
      handed_congr (by rw [haudit2, haudit1]) (hclock2.trans hclock1) _ _
    rw [htrail2] at hrest3
    have htrail3 : p3.handed (some y.deck) (.service (p.deck y.deck).service .audit (p.deck y.deck).causes) =
        p.opensTrail y := by
      refine handed_congr ?_ ?_ _ _
      · rw [hrest3]
      · rw [hrest3]
        exact hclock2.trans hclock1
    rw [hdecks3, htrail3] at haudit4
    show p5.audit = _
    rw [haudit5, haudit4, hrest3]
    dsimp only
    rw [haudit2, haudit1]
  · show p5.deck y.deck = _
    rw [hdeck5, hdeck4, hdecks3]
  · show p5.deck e = _
    rw [hdecks5 e he, hdecks4 e he, hdecks3]
  · have := hlane m
    rwa [lane_modLane, if_neg hm] at this
  · have := hlane (laneOf y.deck)
    rwa [lane_modLane_self] at this
  · rw [responses_notify, hlink5, hresponses4, hrest3]
    exact hresponses2.trans (congrArg Link.responses hlink1)

theorem adoptedActive_sameButCauses {x y : Lane} (h : x.sameButCauses y) : y.adoptedActive = x.adoptedActive := by
  obtain ⟨_, _, rfl⟩ := h
  rfl

theorem visit_sameButCauses {x y : Lane} (h : x.sameButCauses y) : y.visit = x.visit := by
  obtain ⟨_, _, rfl⟩ := h
  rfl

theorem settled_activate {p : Part} (h : p.settingsSettled) {y : Session} (hi : y.inFlight = none) :
    (p.activate y).settingsSettled := by
  obtain ⟨honly, -, -, -, hothers, hlane, -⟩ := activate_facts p hi
  generalize p.activate y = q at *
  refine settled_lane h ?_ fun m => ?_
  · obtain ⟨_, _, _, _, _, rfl⟩ := honly
    rfl
  · by_cases hm : m = laneOf y.deck
    · rw [hm]
      exact (adoptedActive_sameButCauses hlane).trans rfl
    · exact adoptedActive_sameButCauses (hothers m hm)

/-! ## AUDIT_OPEN and the session that lapses (R148, R149) -/

theorem settled_waits {p : Part} (h : p.settingsSettled) (a : AuditUnit) (l : LaneId) (f : Blocks → Blocks) :
    (({ p with audit := a } : Part).modLane l fun x => { x with blocks := f x.blocks }).settingsSettled :=
  settled_modLane (p := { p with audit := a }) (settled_of h rfl rfl rfl) l (fun x => { x with blocks := f x.blocks }) fun _ => rfl

theorem auditOpen_known {p : Part} {deck : Byte} {d : DeckId} (hd : deckTarget deck = some d) (corr : U16) (r : AuditReason) :
    p.auditOpen corr deck (.known r) =
      if p.audit.session.isSome then p.refuse corr .auditOpen .sessionActive
      else if p.store.fault then p.refuse corr .auditOpen .storeFault
      else if p.trailReserved then p.refuse corr .auditOpen .trailFull
      else (if (p.visit (laneOf d)).isSome then p.checkSite else p).openSession corr (.new d r p.siteTime) := by
  unfold Part.auditOpen
  rw [hd]

/-- The two records of a session that becomes ACTIVE are staged in order, in a trail with room (R161). -/
theorem opensTrail_staging {p : Part} {y : Session} (hgap : p.audit.trail.gap = 0) (hfree : 32 < p.audit.trail.free)
    (hroom : p.audit.trail.staging.length < 15) : (p.opensTrail y).staging = p.audit.trail.staging ++
      [⟨some y.deck, p.siteTime, p.clock.valid, .auditOpen y.reason (p.lane (laneOf y.deck)).state (p.deck y.deck).service
          (p.deck y.deck).counter y.openTime⟩,
       ⟨some y.deck, p.siteTime, p.clock.valid, .service (p.deck y.deck).service .audit (p.deck y.deck).causes⟩] := by
  set r : TrailRecord := ⟨some y.deck, p.siteTime, p.clock.valid, .auditOpen y.reason (p.lane (laneOf y.deck)).state
    (p.deck y.deck).service (p.deck y.deck).counter y.openTime⟩ with hr
  have hfirst : p.handed (some y.deck) (.auditOpen y.reason (p.lane (laneOf y.deck)).state (p.deck y.deck).service
      (p.deck y.deck).counter y.openTime) = { p.audit.trail with staging := p.audit.trail.staging ++ [r] } :=
    hand_staged hgap (by omega) (by omega) _ _
  unfold Part.opensTrail Part.atOpening
  dsimp only
  rw [hfirst]
  have hfree' : 1 ≤ ({ p.audit.trail with staging := p.audit.trail.staging ++ [r] } : Trail).free := by
    unfold Trail.free Trail.unacknowledged at hfree ⊢
    dsimp only
    rw [List.length_append, List.length_singleton]
    omega
  have hroom' : (p.audit.trail.staging ++ [r]).length < 16 := by
    rw [List.length_append, List.length_singleton]
    omega
  have hsecond := hand_staged (t := { p.audit.trail with staging := p.audit.trail.staging ++ [r] }) hgap hfree' hroom'
  unfold Part.handed
  rw [hsecond, List.append_assoc]
  rfl

/-- Settles O45, by `activate_facts` for the session that becomes ACTIVE. -/
theorem auditOpenRows : Obligations.AuditOpenRows := by
  refine ⟨?_, ?_⟩
  · intro corr deck d reason s hs ht hdeck p c new
    have hd : deckTarget deck = some d := deckTarget_of hdeck
    have hps : p.settingsSettled := settled_admitted hs ..
    have run {q : Part} (hq : p.auditOpen corr deck (.known reason) = q) (hqs : q.settingsSettled) : endsAs c s q :=
      request_endsAs c s corr .auditOpen (·.auditOpen corr deck (.known reason)) q 0 rfl ht hq hqs
    have rows := auditOpen_known (p := p) hd corr reason
    refine ⟨fun code => ?_, fun hsome => ?_, fun hnone hfault => ?_, fun hnone hfault hfull => ?_, fun hnone hfault hfree => ?_⟩
    · refine request_refused rfl hs ht ?_
      unfold Part.auditOpen
      rw [hd]
    · refine run (rows.trans (if_pos ?_)) (settled_refuse hps ..)
      exact Option.isSome_iff_ne_none.mpr hsome
    · have hno : ¬ p.audit.session.isSome = true := by
        rw [show p.audit.session = none from hnone]
        exact Bool.false_ne_true
      exact run (rows.trans ((if_neg hno).trans (if_pos hfault))) (settled_refuse hps ..)
    · have hno : ¬ p.audit.session.isSome = true := by
        rw [show p.audit.session = none from hnone]
        exact Bool.false_ne_true
      have hok : ¬ p.store.fault = true := by
        rw [show p.store.fault = false from hfault]
        exact Bool.false_ne_true
      exact run (rows.trans ((if_neg hno).trans ((if_neg hok).trans (if_pos (decide_eq_true hfull))))) (settled_refuse hps ..)
    · have hno : ¬ p.audit.session.isSome = true := by
        rw [show p.audit.session = none from hnone]
        exact Bool.false_ne_true
      have hok : ¬ p.store.fault = true := by
        rw [show p.store.fault = false from hfault]
        exact Bool.false_ne_true
      have hopen : p.auditOpen corr deck (.known reason) = p.openSession corr new := by
        have hmore : ¬ p.trailReserved = true := fun k => absurd (of_decide_eq_true k) (Nat.not_le.mpr hfree)
        rw [rows, if_neg hno, if_neg hok, if_neg hmore, checkSite_settled p hps, ite_self]
        rfl
      refine ⟨fun hvisit => run (hopen.trans ?_) ?_, fun hvisit => ?_⟩
      · unfold Part.openSession
        rw [if_pos (show (p.visit (laneOf new.deck)).isSome = true from hvisit)]
        unfold Part.openPending Part.start Part.now
        dsimp only
        rw [← Nat.mul_assoc]
        rfl
      · refine settled_done ?_ _ _ _
        refine settled_notify ?_ _
        exact settled_waits hps _ (laneOf d) fun b => { b with auditPending := true }
      · have hactive : p.auditOpen corr deck (.known reason) = (p.activate new).done corr .auditOpen (.sessionOpened true) := by
          rw [hopen]
          unfold Part.openSession
          refine if_neg ?_
          rw [show p.visit (laneOf new.deck) = none from hvisit]
          exact Bool.false_ne_true
        obtain ⟨honly, haudit, hdeck, hdecks, -, hlane, hresponses⟩ := activate_facts p (y := new) rfl
        have hset := settled_activate hps (y := new) rfl
        have hends := run hactive (settled_done hset ..)
        generalize p.activate new = q at *
        obtain ⟨causes, full, hlane⟩ := hlane
        have hqdeck : (q.done corr .auditOpen (.sessionOpened true)).deck d = { (p.deck d).audited with marker := some 0 } := hdeck
        have hqlane : (q.done corr .auditOpen (.sessionOpened true)).lane (laneOf d) = q.lane (laneOf d) := rfl
        refine ⟨_, hends, ?_, ?_, ?_, ?_, ?_, ?_, ?_, ?_, ?_, ?_, ?_, hdecks, fun hgap hroom => ?_, ?_, ?_, ?_, ?_⟩
        · exact congrArg AuditUnit.session haudit
        · rw [hqdeck]
          rfl
        · rw [hqdeck]
        · rw [hqdeck]
          rfl
        · rw [hqdeck]
          rfl
        · rw [hqdeck]
          rfl
        · rw [hqdeck]
          rfl
        · rw [hqdeck]
          rfl
        · rw [hqdeck]
          rfl
        · rw [hqlane, hlane]
          rfl
        · rw [hqlane, hlane]
          rfl
        · exact (congrArg (fun a : AuditUnit => a.trail.staging) haudit).trans (opensTrail_staging (p := p) (y := new) hgap hfree hroom)
        · exact congrArg (· ++ [({ corr := corr, code := 23, outcome := .done (.sessionOpened true), immediate := false, dup := false } : Response)]) hresponses
        · obtain ⟨_, _, _, _, _, rfl⟩ := honly
          rfl
        · obtain ⟨_, _, _, _, _, rfl⟩ := honly
          rfl
        · obtain ⟨_, _, _, _, _, rfl⟩ := honly
          rfl
  · intro x deadline s hs ht hx
    refine endsAs_run .auditWaitExpiry s (fun p => p.expire p.audit.waitTimer fun q =>
      match q.audit.session with
      | none => q
      | some x => (q.removePending x).notify (.auditLapsed x.deck x.reason)) _ rfl ((expire_running ht _).trans ?_) ?_
    · rw [show (s.toPart.reach deadline).audit.session = some x from hx]
      rfl
    · refine settled_notify ?_ _
      exact settled_waits (settled_elapse hs _) _ (laneOf x.deck) fun b => { b with auditPending := false }

end Sys2Proof.Machine
end


section
/-! PROOFS. The dwell timer and the close of a visit (R67, R68, R72, R134, R150). -/

namespace Sys2Proof.Machine

/-! ## Empty decks (R67) -/

/-- The decks of lane `l` are empty for the visit `v`. -/
def Part.emptied (p : Part) (l : LaneId) (v : Visit) : Prop :=
  ∀ d ∈ l.decks,
    (∃ w c, (p.deck d).published = some w ∧ (p.deck d).cal = some c ∧
      w.displayed.natAbs ≤ (p.settings l).emptyBand * c.entry.e) ∨
    ((p.deck d).published = none ∨ (p.deck d).cal = none) ∧ v.state = .clearing

theorem isEmpty_iff (x : Deck) (band : Nat) (clearing : Bool) : x.isEmpty band clearing = true ↔
    (∃ w c, x.published = some w ∧ x.cal = some c ∧ w.displayed.natAbs ≤ band * c.entry.e) ∨
      (x.published = none ∨ x.cal = none) ∧ clearing = true := by
  unfold Deck.isEmpty
  cases hp : x.published with
  | none => simp
  | some w =>
    cases hc : x.cal with
    | none => simp
    | some c => simp

section
variable {p : Part} {l : LaneId} {v : Visit}

/-- A visit in EXITING or CLEARING closes once its clear timer has expired and the decks are empty (R67). -/
theorem tryClose_eq (hs : p.settingsSettled) (hv : p.visit l = some v) (hst : v.state = .exiting ∨ v.state = .clearing) :
    p.tryClose l = if (p.lane l).clearTimer = .expired ∧ (l.decks.all fun d =>
      (p.deck d).isEmpty (p.settings l).emptyBand (decide (v.state = .clearing))) = true then p.closeStep l true else p := by
  have hstate : p.visitState l = some .exiting ∨ p.visitState l = some .clearing := by
    rw [visitState_of hv]
    exact hst.imp (congrArg some) (congrArg some)
  have hclearing : decide (p.visitState l = some .clearing) = decide (v.state = .clearing) := by
    rw [visitState_of hv]
    simp
  unfold Part.tryClose
  dsimp only
  rw [checkLane_id hs, hclearing]
  by_cases ht : (p.lane l).clearTimer = .expired
  · simp only [hstate, ht, and_self, decide_true, if_true, Bool.true_and, true_and]
  · rw [if_neg fun h => ht (of_decide_eq_true h).2, if_neg fun h => ht h.1]

theorem emptied_iff : p.emptied l v ↔ (l.decks.all fun d =>
    (p.deck d).isEmpty (p.settings l).emptyBand (decide (v.state = .clearing))) = true := by
  unfold Part.emptied
  rw [List.all_eq_true]
  simp only [isEmpty_iff, decide_eq_true_eq]

theorem tryClose_waits (hs : p.settingsSettled) (hv : p.visit l = some v) (hst : v.state = .exiting ∨ v.state = .clearing)
    (h : (p.lane l).clearTimer ≠ .expired ∨ ¬ p.emptied l v) : p.tryClose l = p := by
  rw [tryClose_eq hs hv hst]
  refine if_neg ?_
  rintro ⟨ht, he⟩
  rcases h with h | h
  · exact h ht
  · exact h (emptied_iff.mpr he)

theorem tryClose_closes (hs : p.settingsSettled) (hv : p.visit l = some v) (hst : v.state = .exiting ∨ v.state = .clearing)
    (ht : (p.lane l).clearTimer = .expired) (he : p.emptied l v) : p.tryClose l = p.closeStep l true := by
  rw [tryClose_eq hs hv hst]
  exact if_pos ⟨ht, emptied_iff.mp he⟩

/-! ## The rows of the close step (R72) -/

/-- The lane enters CLOSED. -/
def Part.shut (p : Part) (l : LaneId) (causes : LaneCauses) : Part :=
  (p.modLane l fun y => { y with state := .closed, blocks := { y.blocks with closeRequested := false } }).notify
    (.laneState l .closed causes)

theorem settled_shut (h : p.settingsSettled) (l : LaneId) (causes : LaneCauses) : (p.shut l causes).settingsSettled :=
  settled_notify (settled_modLane h l
    (fun y => { y with state := .closed, blocks := { y.blocks with closeRequested := false } }) fun _ => rfl) _

theorem turns_not_closed {x : Lane} (h : x.turns) : x.state ≠ .closed := by
  rcases h with ⟨h, -⟩ | ⟨h, -⟩
  · rw [h]; decide
  · rw [h]; decide

/-- The close step closes the lane (R37, R44). -/
theorem closeStep_shuts (hv : p.visit l = some v) (ha : (p.lane l).adoptedActive = true) (ht : (p.lane l).turns)
    (hu : p.unaudited l) (closed : Bool) :
    p.closeStep l closed = (p.closing l v closed).shut l (p.lane l).causes := by
  have hlane := lane_closing p l v closed
  have hturns : ((p.closing l v closed).lane l).turns := by
    rw [hlane, turns_emptySlot]
    exact ht
  have hshut : (p.closing l v closed).settleLaneState l = (p.closing l v closed).shut l (p.lane l).causes := by
    rw [settleLaneState_turns hturns, enterLaneState_ne _ _ _ (turns_not_closed hturns), hlane]
    rfl
  have haudit : ((p.closing l v closed).shut l (p.lane l).causes).unaudited l := by
    show (p.closing l v closed).unaudited l
    unfold Part.unaudited
    rw [audit_closing]
    exact hu
  rw [closeStep_eq hv, if_pos ha, hshut, startPendingAudit_same haudit]

/-- The lane adopts the active settings, and no image is left to adopt (R134). -/
def Part.adopting (p : Part) (l : LaneId) : Part :=
  (({ p with tables := { p.tables with settingsPrevious := none } } : Part).modLane l fun y =>
    { y with adoptedActive := true, adoptedValid := true }).notify
      (.tableAdopted l p.tables.settingsActive.crc p.tables.settingsPrevious.isSome)

theorem adopt_good (hc : (p.lane l).causes.settingsParity = false)
    (hg : (p.tables.settingsActive.lanes.get l).damaged = false) (ho : (p.lane l.other).adoptedActive = true) :
    p.adopt l = p.adopting l := by
  set p1 := p.modLane l fun x => { x with adoptedActive := true, adoptedValid := true } with hp1
  have hclear : p1.laneClear l .settingsParity = p1 := by
    refine if_neg ?_
    rw [hp1, lane_modLane_self]
    show ¬ (p.lane l).causes.settingsParity = true
    rw [hc]
    exact Bool.false_ne_true
  have hboth : (p1.lane l.other).adoptedActive = true := by
    rw [hp1, lane_modLane_other]
    exact ho
  have hgood : ¬ (p1.tables.settingsActive.lanes.get l).damaged = true := by
    rw [show p1.tables = p.tables from rfl, hg]
    exact Bool.false_ne_true
  unfold Part.adopt
  dsimp only
  rw [← hp1, hclear, if_neg hgood, hboth, if_pos rfl, Bool.true_and]
  rfl

theorem adopting_notify (p : Part) (l : LaneId) (b : NoticeBody) : (p.notify b).adopting l =
    ((({ p with tables := { p.tables with settingsPrevious := none } } : Part).modLane l fun y => { y with
      adoptedActive := true, adoptedValid := true }).notify b).notify
        (.tableAdopted l p.tables.settingsActive.crc p.tables.settingsPrevious.isSome) := by
  cases l with
  | l0 => rfl
  | l1 => rfl

theorem settled_adopting (h : p.settingsSettled) (hg : (p.tables.settingsActive.lanes.get l).settled)
    (ho : (p.lane l.other).adoptedActive = true) (hsite : p.tables.settingsActive.site.settled) :
    (p.adopting l).settingsSettled := by
  have hother := settings_settled h l.other
  unfold Part.adopted at hother
  rw [if_pos ho] at hother
  cases l with
  | l0 => exact ⟨hg, by
      unfold Part.adopted
      rw [if_pos (show ((p.adopting .l0).lane .l1).adoptedActive = true from ho)]
      exact hother, hsite⟩
  | l1 => exact ⟨by
      unfold Part.adopted
      rw [if_pos (show ((p.adopting .l1).lane .l0).adoptedActive = true from ho)]
      exact hother, hg, hsite⟩

/-- The close step adopts settings that wait (R134). -/
theorem closeStep_adopts (hv : p.visit l = some v) (ha : (p.lane l).adoptedActive = false) (ht : ¬ (p.lane l).turns)
    (hu : p.unaudited l) (hc : (p.lane l).causes.settingsParity = false)
    (hg : (p.tables.settingsActive.lanes.get l).damaged = false) (ho : (p.lane l.other).adoptedActive = true) (closed : Bool) :
    p.closeStep l closed = (p.closing l v closed).adopting l := by
  have hlane := lane_closing p l v closed
  have htables : (p.closing l v closed).tables = p.tables := by
    unfold Part.closing
    split
    · rfl
    · rfl
  have hadopt : (p.closing l v closed).adopt l = (p.closing l v closed).adopting l := by
    refine adopt_good ?_ ?_ ?_
    · rw [hlane]
      exact hc
    · rw [htables]
      exact hg
    · rw [lane_closing_other]
      exact ho
  have hadopted : ((p.closing l v closed).adopting l).lane l =
      { (p.lane l).emptySlot with adoptedActive := true, adoptedValid := true } := by
    rw [← hlane]
    cases l with
    | l0 => rfl
    | l1 => rfl
  have hturns : ¬ (((p.closing l v closed).adopting l).lane l).turns := by
    rw [hadopted]
    exact ht
  have haudit : ((p.closing l v closed).adopting l).unaudited l := by
    show (p.closing l v closed).unaudited l
    unfold Part.unaudited
    rw [audit_closing]
    exact hu
  rw [closeStep_eq hv, if_neg (by rw [ha]; exact Bool.false_ne_true), hadopt, settleLaneState_same hturns,
    startPendingAudit_same haudit]

/-- The close step starts the session that waits for the lane (R150). -/
theorem closeStep_activates {y : Session} (hv : p.visit l = some v) (ha : (p.lane l).adoptedActive = true)
    (ht : ¬ (p.lane l).turns) (hy : p.audit.session = some y) (hl : laneOf y.deck = l) (ho : y.atOpen = none) (closed : Bool) :
    p.closeStep l closed = (p.closing l v closed).activate y := by
  have hturns : ¬ ((p.closing l v closed).lane l).turns := by
    rw [lane_closing, turns_emptySlot]
    exact ht
  have hstart : (p.closing l v closed).startPendingAudit l = (p.closing l v closed).activate y := by
    unfold Part.startPendingAudit
    rw [audit_closing, hy]
    refine if_pos ⟨hl, ?_⟩
    rw [ho]
    rfl
  rw [closeStep_eq hv, if_pos ha, settleLaneState_same hturns, hstart]

/-- The timers of the visit are no part of what the close step leaves. -/
theorem closing_modLane (f : Lane → Lane) (hf : ∀ x, (f x).emptySlot = x.emptySlot) (he : ∀ x, (f x).exitAxles = x.exitAxles)
    (closed : Bool) : (p.modLane l f).closing l v closed = p.closing l v closed := by
  have hexit : ((p.modLane l f).lane l).exitAxles = (p.lane l).exitAxles := by
    rw [lane_modLane_self]
    exact he _
  have hvacated : (p.modLane l f).vacated l v = p.vacated l v := by
    have hticket (t : TicketUnit) : ({ p.modLane l f with tickets := t } : Part).modLane l Lane.emptySlot =
        ({ p with tickets := t } : Part).modLane l Lane.emptySlot :=
      (modLane_modLane ({ p with tickets := t } : Part) l f Lane.emptySlot).trans (modLane_congr _ _ _ _ (hf _))
    unfold Part.vacated
    rw [hexit]
    exact hticket _
  unfold Part.closing
  rw [hvacated, hexit]

end

/-- Settings that the close step adopts are settled where the lane's entry is good. -/
theorem settled_closeAdopts {p : Part} (h : p.settingsSettled) (l : LaneId) (v : Visit)
    (hg : (p.tables.settingsActive.lanes.get l).settled) (ho : (p.lane l.other).adoptedActive = true)
    (hsite : p.tables.settingsActive.site.settled) : ((p.closing l v true).adopting l).settingsSettled := by
  have htables : (p.closing l v true).tables = p.tables := rfl
  refine settled_adopting (settled_closing h l v true) ?_ ?_ ?_
  · rw [htables]
    exact hg
  · rw [lane_closing_other]
    exact ho
  · rw [htables]
    exact hsite

/-- What the close step leaves where it starts the session that waits for the lane (R150). -/
theorem closeStep_session {p : Part} {l : LaneId} {v : Visit} {y : Session} (hs : p.settingsSettled) (hv : p.visit l = some v)
    (hstate : (p.lane l).state = .opened) (ha : (p.lane l).adoptedActive = true)
    (hcr : (p.lane l).blocks.closeRequested = false) (hy : p.audit.session = some y) (hl : laneOf y.deck = l)
    (ho : y.atOpen = none) (hi : y.inFlight = none) :
    let q := p.closeStep l true
    q.settingsSettled ∧ q.visit l = none ∧ (q.lane l).state = .audit ∧ (q.lane l).blocks.auditPending = false ∧
      q.audit.session = some { y with
        atOpen := some ⟨.opened, (p.deck y.deck).service, (p.deck y.deck).counter⟩ } ∧
      q.audit.waitTimer = .stopped ∧ (q.deck y.deck).service = .audit ∧ (q.deck y.deck).marker = some 0 ∧
      (∀ d, d ≠ y.deck → q.deck d = p.deck d) ∧ q.tickets = (p.closing l v true).tickets := by
  have hturns : ¬ (p.lane l).turns := by
    rintro (⟨-, k⟩ | ⟨k, -⟩)
    · exact Bool.false_ne_true (hcr.symm.trans k)
    · exact absurd (hstate.symm.trans k) (by decide)
  have hcs : (p.closing l v true).settingsSettled := settled_closing hs l v true
  have hcl := lane_closing p l v true
  have hcd : ∀ d, (p.closing l v true).deck d = p.deck d := fun _ => rfl
  dsimp only
  rw [closeStep_activates hv ha hturns hy hl ho true]
  generalize p.closing l v true = c at *
  have hset := settled_activate hcs hi
  obtain ⟨honly, haudit, hdeck, hdecks, -, hlane, -⟩ := activate_facts c hi
  generalize c.activate y = q at *
  rw [hl, hcl] at hlane
  obtain ⟨causes, full, hlane⟩ := hlane
  refine ⟨hset, ?_, ?_, ?_, ?_, ?_, ?_, ?_, fun d hd => (hdecks d hd).trans (hcd d), ?_⟩
  · unfold Part.visit
    rw [hlane]
    rfl
  · rw [hlane]
    rfl
  · rw [hlane]
    rfl
  · rw [haudit]
    unfold Part.atOpening
    rw [hl, hcl, hcd]
    show some { y with atOpen := some ⟨(p.lane l).state, _, _⟩ } = _
    rw [hstate]
  · rw [haudit]
  · rw [hdeck]
    rfl
  · rw [hdeck]
  · obtain ⟨_, _, _, _, _, hq⟩ := honly
    rw [hq]

/-! ## The dwell timer (R68) -/

section
variable {p : Part} {l : LaneId} {v : Visit}

theorem dwellExpiry_overstays (hv : p.visit l = some v) (hst : v.state = .held ∨ v.state = .exiting ∨ v.state = .clearing) :
    p.dwellExpiry l = (p.setVisit l { v with overstaySent := true }).notify (.overstay l v.count v.vehicle v.state) := by
  unfold Part.dwellExpiry
  rw [hv]
  dsimp only
  rcases hst with hst | hst | hst
  · rw [hst]
  · rw [hst]
  · rw [hst]

theorem dwellExpiry_aborts (hv : p.visit l = some v)
    (hst : v.state = .consignWait ∨ v.state = .entering ∨ v.state = .settling) :
    p.dwellExpiry l = p.abortVisit l .dwellLimit := by
  unfold Part.dwellExpiry
  rw [hv]
  dsimp only
  rcases hst with hst | hst | hst
  · rw [hst]
  · rw [hst]
  · rw [hst]

end

theorem laneReact_leaving {p : Part} {d : DeckId} {v : Visit} (hv : p.visit (laneOf d) = some v)
    (hst : v.state = .exiting ∨ v.state = .clearing) (before : WeightStatus) :
    p.laneReact d true before = p.tryClose (laneOf d) := by
  unfold Part.laneReact
  dsimp only
  rw [visitState_of hv]
  rcases hst with hst | hst
  · rw [hst]
    rfl
  · rw [hst]
    rfl

/-- Settles O36: the dwell timer by the rows of the abort, the close by the rows of the close step. -/
theorem dwellAndClearTimers : Obligations.DwellAndClearTimers := by
  intro l v s hs hv x tickets
  refine ⟨?_, ?_⟩
  · intro deadline ht p
    set P := p.modLane l fun x => { x with dwellTimer := .expired } with hP
    have hPs : P.settingsSettled := settled_modLane (settled_elapse hs _) l _ fun _ => rfl
    have hlane : P.lane l = { x with dwellTimer := .expired } := lane_modLane_self ..
    have hPv : P.visit l = some v := by
      unfold Part.visit
      rw [hlane]
      exact hv
    have hother : P.lane l.other = s.toPart.lane l.other := lane_modLane_other ..
    have run {r : Part} (hr : P.dwellExpiry l = r) (hrs : r.settingsSettled) : endsAs (.dwellTimerExpiry l) s r :=
      endsAs_run (.dwellTimerExpiry l) s (fun p => p.expire (p.lane l).dwellTimer fun q =>
        (q.modLane l fun x => { x with dwellTimer := .expired }).dwellExpiry l) _ rfl ((expire_running ht _).trans hr) hrs
    refine ⟨fun hst => ?_, fun hst => ?_, fun hst hplain => ?_⟩
    · refine run ((dwellExpiry_overstays hPv hst).trans ?_) (settled_notify (settled_modLane (settled_elapse hs _) l
        (fun x => { x with dwellTimer := .expired, visit := some { v with overstaySent := true } }) fun _ => rfl) _)
      unfold Part.setVisit
      rw [hP, modLane_modLane]
    · obtain ⟨hrest, haborts, hreleases, hlink, hoth⟩ := abortVisit_facts P l v .dwellLimit hPv (hst.imp_right .inl)
      have hclears : P.clearsFrom l = p.clearsFrom l := by
        unfold Part.clearsFrom Part.laneEnd
        rw [hlane]
        rfl
      have hends := run (dwellExpiry_aborts hPv (.inr hst)) (settled_oneLane hPs l (by rw [hrest]) (by rw [haborts]; rfl) hoth)
      rw [hlane, hclears] at haborts
      refine ⟨_, hends, haborts, hreleases, hlink, hoth.trans hother, ?_, ?_⟩
      · rw [hrest]
        rfl
      · rw [hrest]
        rfl
    · have hPp : P.closesPlainly l := by
        unfold Part.closesPlainly
        rw [hlane]
        exact hplain
      obtain ⟨hadopted, hturns, haudit⟩ := closesPlainly_quiet hPp
      obtain ⟨hrest, hempty, hoth, hreleases, hlink, htickets, -⟩ := endAtOnce_facts .dwellLimit hPv hadopted hturns haudit
      have hends := run ((dwellExpiry_aborts hPv (.inl hst)).trans (abortVisit_atOnce hPv (.inr hst) _))
        (settled_endAtOnce hPs .dwellLimit hPv hadopted hturns haudit)
      rw [hlane] at hempty htickets
      refine ⟨_, hends, hempty, hreleases, hlink, hoth.trans hother, ?_, htickets⟩
      rw [hrest]
      rfl
  · intro hst empty left closed shut turns plain
    have hempty : ∀ q : Part, q.settings l = s.toPart.settings l → (q.emptied l v ↔ empty q) := fun q h => by
      unfold Part.emptied
      rw [h]
    have rows {c : Instr} {P Q : Part} (hPs : P.settingsSettled) (hPv : P.visit l = some v)
        (hPl : P.lane l = { x with clearTimer := .expired }) (hPa : P.audit = s.audit)
        (hclosing : P.closing l v true = (left Q).notify closed)
        (run : ∀ {r : Part}, P.closeStep l true = r → r.settingsSettled → endsAs c s r) :
        (plain → ¬ turns → endsAs c s ((left Q).notify closed)) ∧
          (plain → turns → endsAs c s (shut ((left Q).notify closed))) := by
      have hcs : (P.closing l v true).settingsSettled := settled_closing hPs l v true
      rw [hclosing] at hcs
      refine ⟨fun ⟨ha, hu⟩ ht => run ?_ hcs, fun ⟨ha, hu⟩ ht => run ?_ (settled_shut hcs l x.causes)⟩
      · rw [← hclosing]
        refine closeStep_quiet hPv ?_ ?_ ?_ true
        · rw [hPl]
          exact ha
        · rw [hPl]
          exact ht
        · unfold Part.unaudited
          rw [hPa]
          exact hu
      · have hshuts := closeStep_shuts hPv (by rw [hPl]; exact ha) (by rw [hPl]; exact ht)
          (by unfold Part.unaudited; rw [hPa]; exact hu) true
        rw [hclosing, hPl] at hshuts
        exact hshuts
    refine ⟨?_, ?_⟩
    · intro deadline ht p ends
      set P := p.modLane l fun x => { x with clearTimer := .expired } with hP
      have hPs : P.settingsSettled := settled_modLane (settled_elapse hs _) l _ fun _ => rfl
      have hlane : P.lane l = { x with clearTimer := .expired } := lane_modLane_self ..
      have hPv : P.visit l = some v := by
        unfold Part.visit
        rw [hlane]
        exact hv
      have hPother : P.lane l.other = s.toPart.lane l.other := lane_modLane_other ..
      have hexpired : (P.lane l).clearTimer = .expired := by rw [hlane]
      have hset : P.settings l = s.toPart.settings l := settings_modLane p l fun _ => rfl
      have hPe : P.emptied l v ↔ empty p := hempty P hset
      have hclosing : P.closing l v true = (left p).notify closed :=
        closing_modLane (p := p) (fun x => { x with clearTimer := .expired }) (fun _ => rfl) (fun _ => rfl) true
      have run {r : Part} (hr : P.tryClose l = r) (hrs : r.settingsSettled) : ends r :=
        endsAs_run (.clearTimerExpiry l) s (fun p => p.expire (p.lane l).clearTimer fun q =>
          (q.modLane l fun x => { x with clearTimer := .expired }).tryClose l) _ rfl ((expire_running ht _).trans hr) hrs
      have runClose (he : empty p) {r : Part} (hr : P.closeStep l true = r) (hrs : r.settingsSettled) : ends r :=
        run ((tryClose_closes hPs hPv hst hexpired (hPe.mpr he)).trans hr) hrs
      refine ⟨fun hno => run (tryClose_waits hPs hPv hst (.inr fun h => hno (hPe.mp h))) hPs,
        fun he => (rows hPs hPv hlane rfl hclosing (runClose he)).1, fun he => (rows hPs hPv hlane rfl hclosing (runClose he)).2,
        fun he ht' ha ho hu hc hg hsite => ?_, fun y he hopen ha hcr hy hyl hyo hyi => ?_⟩
      · obtain ⟨hgs, hgd⟩ := good_settled hg
        have hadopts := closeStep_adopts hPv (by rw [hlane]; exact ha) (by rw [hlane]; exact ht') hu (by rw [hlane]; exact hc)
          hgd (by rw [hPother]; exact ho) true
        have hadopted := settled_closeAdopts hPs l v hgs (by rw [hPother]; exact ho) hsite
        rw [hclosing] at hadopts hadopted
        refine (congrArg (endsAs _ s) (adopting_notify (left p) l closed)).mp (runClose he hadopts hadopted)
      · obtain ⟨hset, hvisit, hstate, hpending, hsession, hwait, hservice, hmarker, hdecks, htickets⟩ :=
          closeStep_session hPs hPv (by rw [hlane]; exact hopen) (by rw [hlane]; exact ha) (by rw [hlane]; exact hcr) hy hyl hyo hyi
        rw [hclosing] at htickets
        exact ⟨_, runClose he rfl hset, hvisit, hstate, hpending, hsession, hwait, hservice, hmarker, hdecks, htickets⟩
    · intro d wire f c hd hr hi hcal hparse hnode hdeck hcells hfresh hgood hother q ends
      subst hd
      have hqs : q.settingsSettled := settled_modDeck hs d _
      have hqv : q.visit (laneOf d) = some v := hv
      have hframe := (sampleFrame_visited hr hv hi hcal hparse hnode hdeck hcells hfresh hgood hother).trans
        (laneReact_leaving hqv hst _)
      have hqe : q.emptied (laneOf d) v ↔ empty q := hempty q rfl
      have run {r : Part} (hr : q.tryClose (laneOf d) = r) (hrs : r.settingsSettled) : ends r :=
        endsAs_run (.sampleFrame d wire) s (fun p => p.sampleFrame d wire) _ rfl (hframe.trans hr) hrs
      have closes (ht : x.clearTimer = .expired) (he : empty q) := rows (c := .sampleFrame d wire) (P := q) (Q := q) hqs hqv
        (congrArg (fun t => { x with clearTimer := t }) ht) rfl rfl
        fun hr hrs => run ((tryClose_closes hqs hqv hst ht (hqe.mpr he)).trans hr) hrs
      exact ⟨fun h => run (tryClose_waits hqs hqv hst (h.imp_right fun k e => k (hqe.mp e))) hqs,
        fun ht he => (closes ht he).1, fun ht he => (closes ht he).2⟩

end Sys2Proof.Machine
end


section
/-! PROOFS. LANE_OPEN, LANE_CLOSE, CANCEL_PENDING and PENDING_READ (R38, R39, R106, R107). -/

namespace Sys2Proof.Machine

/-! ## LANE_OPEN (R38) -/

section
variable {p : Part} {corr : U16} {lane : Byte} {l : LaneId}

theorem laneOpen_eq (hl : laneTarget lane = some l) : p.laneOpen corr lane =
    if (p.lane l).state ≠ .closed then p.refuse corr .laneOpen .wrongState
    else if p.clock.valid = false then p.refuse corr .laneOpen .timeInvalid
    else if (p.lane l).adoptedValid = false then p.refuse corr .laneOpen .tablesInvalid
    else if (l.decks.any fun d => decide ((p.deck d).service ≠ .trade)) then p.refuse corr .laneOpen .wrongState
    else (p.enterLaneState l .opened).done corr .laneOpen := by
  unfold Part.laneOpen
  rw [hl]

/-! ## LANE_CLOSE (R39, R44) -/

theorem laneClose_settled (hl : laneTarget lane = some l) (h : (p.lane l).state = .closed ∨ (p.lane l).state = .fault) :
    p.laneClose corr lane = (p.clearStop l).done corr .laneClose := by
  unfold Part.laneClose
  rw [hl]
  dsimp only
  rcases h with h | h
  · rw [h]
  · rw [h]

theorem laneClose_opened (hl : laneTarget lane = some l) (h : (p.lane l).state = .opened) (hc : p.clearStop l = p)
    (hv : p.visit l = none) : p.laneClose corr lane = (p.shut l (p.lane l).causes).done corr .laneClose := by
  have hshut : p.enterLaneState l .closed = p.shut l (p.lane l).causes := by
    rw [enterLaneState_ne _ _ _ (by rw [h]; decide)]
    rfl
  unfold Part.laneClose
  rw [hl]
  dsimp only
  rw [h, hc, if_pos (Option.isNone_iff_eq_none.mpr hv), hshut]

/-- A lane in AUDIT or with a visit closes later (R39, R44). -/
theorem laneClose_later (hl : laneTarget lane = some l) (hc : p.clearStop l = p)
    (h : (p.lane l).state = .audit ∨ (p.lane l).state = .opened ∧ p.visit l ≠ none) : p.laneClose corr lane =
      (p.modLane l fun y => { y with blocks := { y.blocks with closeRequested := true } }).done corr .laneClose := by
  unfold Part.laneClose
  rw [hl]
  dsimp only
  rcases h with h | ⟨h, hv⟩
  · rw [h, hc]
    rfl
  · rw [h, hc, if_neg fun k => hv (Option.isNone_iff_eq_none.mp k)]
    rfl

/-- LANE_STOP, the lane's only cause, leaves with the latch, and the lane enters CLOSED (R28, R37). -/
theorem clearStop_closes (hlatch : (p.lane l).stopLatch = true) (hinput : (p.lane l).stopInput = false)
    (hstate : (p.lane l).state = .fault) (hv : p.visit l = none)
    (hc : (p.lane l).causes = { LaneCauses.empty with laneStop := true }) : p.clearStop l =
      (p.modLane l fun y => { y with
        stopLatch := false, causes := .empty, state := .closed, blocks := { y.blocks with closeRequested := false } }).notify
          (.laneState l .closed .empty) := by
  have hlane : (p.modLane l fun x => { x with stopLatch := false }).lane l = { p.lane l with stopLatch := false } :=
    lane_modLane_self ..
  have hput : ({ LaneCauses.empty with laneStop := true } : LaneCauses).put false .laneStop = .empty := rfl
  have hcleared : ((p.modLane l fun x => { x with stopLatch := false }).modLane l fun x =>
      { x with causes := x.causes.put false .laneStop }).lane l = { p.lane l with stopLatch := false, causes := .empty } := by
    rw [lane_modLane_self, hlane]
    dsimp only
    rw [hc, hput]
  unfold Part.clearStop
  rw [if_pos ⟨hlatch, hinput⟩]
  unfold Part.laneClear
  rw [if_pos (by rw [hlane]; show (p.lane l).causes.has .laneStop = true; rw [hc]; rfl)]
  dsimp only
  rw [if_pos ⟨by rw [hcleared], by rw [hcleared]; exact hstate, by unfold Part.visit; rw [hcleared]; exact Option.isNone_iff_eq_none.mpr hv⟩]
  rw [enterLaneState_ne _ _ _ (by rw [hcleared]; dsimp only; rw [hstate]; decide), hcleared, modLane_modLane, modLane_modLane]
  refine congrArg (fun q : Part => q.notify (.laneState l .closed .empty)) (modLane_congr _ _ _ _ ?_)
  dsimp only
  rw [hc, hput]
  rfl

end

/-- Settles O40. -/
theorem laneOpenAndClose : Obligations.LaneOpenAndClose := by
  intro corr lane l s hs ht hlane x p r
  have hl : laneTarget lane = some l := laneTarget_of hlane
  have hps : p.settingsSettled := settled_admitted hs ..
  have hrs : r.settingsSettled := settled_admitted hs ..
  have runOpen {q : Part} (hq : p.laneOpen corr lane = q) (hqs : q.settingsSettled) : endsAs (.laneOpen corr lane) s q :=
    request_endsAs (.laneOpen corr lane) s corr .laneOpen (·.laneOpen corr lane) q lane rfl ht hq hqs
  have runClose {q : Part} (hq : r.laneClose corr lane = q) (hqs : q.settingsSettled) : endsAs (.laneClose corr lane) s q :=
    request_endsAs (.laneClose corr lane) s corr .laneClose (·.laneClose corr lane) q lane rfl ht hq hqs
  have rows := laneOpen_eq (p := p) (corr := corr) hl
  have valid {a : Bool} (h : a = true) : ¬ a = false := by
    rw [h]
    decide
  refine ⟨fun h => runOpen (rows.trans (if_pos h)) (settled_refuse hps ..),
    fun h hv => runOpen (rows.trans ((if_neg (not_not.mpr h)).trans (if_pos hv))) (settled_refuse hps ..),
    fun h hv ha => runOpen (rows.trans ((if_neg (not_not.mpr h)).trans ((if_neg (valid hv)).trans (if_pos ha))))
      (settled_refuse hps ..), fun h hv ha hd => ?_, fun h hv ha hd => ?_, fun hstop => ⟨fun h => ?_, fun h hn => ?_, fun h => ?_⟩,
    fun hlatch hinput hst hv hc => ?_⟩
  · have hany : (l.decks.any fun d => decide ((p.deck d).service ≠ .trade)) = true := by
      obtain ⟨d, hd, hne⟩ := hd
      exact List.any_eq_true.mpr ⟨d, hd, decide_eq_true hne⟩
    exact runOpen (rows.trans ((if_neg (not_not.mpr h)).trans ((if_neg (valid hv)).trans ((if_neg (valid ha)).trans (if_pos hany)))))
      (settled_refuse hps ..)
  · have hany : ¬ (l.decks.any fun d => decide ((p.deck d).service ≠ .trade)) = true := fun k => by
      obtain ⟨d, hd', hne⟩ := List.any_eq_true.mp k
      exact of_decide_eq_true hne (hd d hd')
    have hopen := rows.trans ((if_neg (not_not.mpr h)).trans ((if_neg (valid hv)).trans ((if_neg (valid ha)).trans (if_neg hany))))
    have henter := enterLaneState_ne p l .opened (by rw [show (p.lane l).state = .closed from h]; decide)
    rw [henter] at hopen
    exact runOpen hopen (settled_done (settled_notify (settled_modLane hps l (fun y => { y with state := .opened })
      fun _ => rfl) _) ..)
  · have hclose := laneClose_settled (p := r) (corr := corr) hl h
    rw [clearStop_none r l hstop] at hclose
    exact runClose hclose (settled_done hrs ..)
  · exact runClose (laneClose_opened (p := r) (corr := corr) hl h (clearStop_none r l hstop) hn)
      (settled_done (settled_shut hrs l x.causes) ..)
  · exact runClose (laneClose_later (p := r) (corr := corr) hl (clearStop_none r l hstop) h)
      (settled_done (settled_modLane hrs l (fun y => { y with blocks := { y.blocks with closeRequested := true } })
        fun _ => rfl) ..)
  · have hclose := laneClose_settled (p := r) (corr := corr) hl (.inr hst)
    rw [clearStop_closes (p := r) hlatch hinput hst hv hc] at hclose
    exact runClose hclose (settled_done (settled_notify (settled_modLane hrs l (fun y => { y with
      stopLatch := false, causes := .empty, state := .closed, blocks := { y.blocks with closeRequested := false } })
        fun _ => rfl) _) ..)

/-! ## CANCEL_PENDING (R106) -/

section
variable {p : Part} {corr : U16} {bytes : List Byte} {v : VehicleId} {i : Nat} {e : PendingEntry}

theorem cancelPending_found (hv : parseVehicle bytes = some v) (hf : p.pairing.find v = some (i, e)) :
    ((∀ g, e.state ≠ .opened g) → p.cancelPending corr bytes = p.refuse corr .cancelPending .claimed) ∧
    ∀ g, e.state = .opened g → p.cancelPending corr bytes =
      if p.store.fault then p.refuse corr .cancelPending .storeFault
      else if p.stagingFull then p.refuse corr .cancelPending .storeBusy
      else ((p.setSlot i none).issueTicket (e.soloTicket .cancelled g) none).done corr .cancelPending (.cancelled i) := by
  unfold Part.cancelPending
  rw [hv]
  dsimp only
  rw [hf]
  dsimp only
  refine ⟨fun h => ?_, fun g hg => ?_⟩
  · cases hst : e.state with
    | opened g => exact absurd hst (h g)
    | reserved => rfl
    | claimed g m => rfl
  · rw [hg]

/-- What a cancelled entry leaves: its slot is empty, and its ticket is staged. -/
theorem cancelled_facts (hi : i < 64) (t : Ticket) (hroom : p.tickets.staging.length < 8) :
    let q := (p.setSlot i none).issueTicket t none
    q.slot i = none ∧ (∀ j, j ≠ i → q.slot j = p.slot j) ∧ i ∈ q.pairing.dirty ∧
      q.tickets = { p.tickets with staging := p.tickets.staging ++ [⟨t, none⟩] } ∧
      (∀ m, q.lane m = { p.lane m with blocks := { (p.lane m).blocks with
        storeBusy := (p.lane m).blocks.storeBusy || decide (p.tickets.staging.length = 7) } }) ∧
      q = { p with lanes := q.lanes, tickets := q.tickets, pairing := q.pairing } := by
  have hrest := setSlot_rest p i none
  have hset : (p.setSlot i none).tickets = p.tickets ∧ ∀ m, (p.setSlot i none).lane m = p.lane m := by
    rw [hrest]
    exact ⟨rfl, fun _ => rfl⟩
  have hslots := slot_setSlot p i none hi
  have hdirty := dirty_setSlot p i none
  dsimp only
  generalize p.setSlot i none = r at *
  obtain ⟨hissued, htickets, hlanes⟩ := issueTicket_facts r t none (by rw [hset.1]; exact hroom)
  generalize r.issueTicket t none = q at *
  have hq : q.pairing = r.pairing := by rw [hissued]
  have hslot : ∀ j, q.slot j = r.slot j := fun j => by
    unfold Part.slot
    rw [hq]
  refine ⟨?_, fun j hj => ?_, ?_, ?_, fun m => ?_, ?_⟩
  · rw [hslot, hslots, if_pos rfl]
  · rw [hslot, hslots, if_neg hj]
  · rw [hq]
    exact hdirty
  · rw [htickets, hset.1]
  · rw [hlanes, hset.2, hset.1]
  · rw [hissued, hrest]

end

/-- Settles O42. -/
theorem pendingRequests : Obligations.PendingRequests := by
  refine ⟨?_, ?_⟩
  · intro corr vehicle s hs ht p
    have hps : p.settingsSettled := settled_admitted hs ..
    have run {q : Part} (hq : p.cancelPending corr vehicle = q) (hqs : q.settingsSettled) : endsAs (.cancelPending corr vehicle) s q :=
      request_endsAs (.cancelPending corr vehicle) s corr .cancelPending (·.cancelPending corr vehicle) q 0 rfl ht hq hqs
    refine ⟨fun h => ?_, fun v hv => ⟨fun h => ?_, fun i e hf => ?_⟩⟩
    · refine request_refused rfl hs ht ?_
      unfold Part.cancelPending
      rw [h]
    · refine request_refused rfl hs ht ?_
      unfold Part.cancelPending
      rw [hv]
      dsimp only
      rw [show (s.toPart.admitted corr .cancelPending).pairing.find v = none from h]
    · obtain ⟨hclaimed, hopened⟩ := cancelPending_found (p := p) (corr := corr) hv hf
      refine ⟨fun h => run (hclaimed h) (settled_refuse hps ..), fun g hg => ⟨fun hfault => ?_, fun hok hfull => ?_, fun hok hroom => ?_⟩⟩
      · exact run ((hopened g hg).trans (if_pos hfault)) (settled_refuse hps ..)
      · have hok' : ¬ p.store.fault = true := by
          rw [show p.store.fault = false from hok]
          exact Bool.false_ne_true
        exact run ((hopened g hg).trans ((if_neg hok').trans (if_pos (decide_eq_true hfull)))) (settled_refuse hps ..)
      · have hok' : ¬ p.store.fault = true := by
          rw [show p.store.fault = false from hok]
          exact Bool.false_ne_true
        have hroom' : ¬ p.stagingFull = true := fun k => absurd (of_decide_eq_true k) (Nat.not_le.mpr hroom)
        have hcancel := (hopened g hg).trans ((if_neg hok').trans (if_neg hroom'))
        obtain ⟨hslot, -⟩ := find_slot hf
        obtain ⟨hempty, hslots, hdirty, htickets, hlanes, hrest⟩ :=
          cancelled_facts (p := p) (slot_lt hslot) (e.soloTicket .cancelled g) hroom
        have hset : ((p.setSlot i none).issueTicket (e.soloTicket .cancelled g) none).settingsSettled := by
          refine settled_lane hps (by rw [hrest]) fun m => ?_
          rw [hlanes]
        have hends := run hcancel (settled_done hset ..)
        generalize (p.setSlot i none).issueTicket (e.soloTicket .cancelled g) none = q at *
        refine ⟨_, e.soloTicket .cancelled g, hends, hempty, hslots, hdirty, congrArg TicketUnit.staging htickets, rfl, rfl, rfl, rfl, rfl, rfl, rfl, rfl,
          fun m => ?_, ?_, ?_, ?_⟩
        · show (q.lane m).blocks.storeBusy = _
          rw [hlanes]
          rfl
        · refine link_done ?_ ..
          rw [hrest]
        · show q.decks = _
          rw [hrest]
          rfl
        · show q.audit = _
          rw [hrest]
          rfl
  · intro corr index s hs ht hi
    have hread : (s.toPart.admitted corr .pendingRead).pendingRead corr index = _ := if_neg (Nat.not_lt.mpr hi)
    exact request_endsAs (.pendingRead corr index) s corr .pendingRead (·.pendingRead corr index) _ 0 rfl ht hread
      (settled_done (settled_admitted hs ..) ..)

end Sys2Proof.Machine
end


section
/-! PROOFS. CONSIGN (R56, R57). -/

namespace Sys2Proof.Machine

/-- Whether the visit of lane `l` is one for vehicle `v` that `f` takes. -/
def Part.visitFits (p : Part) (v : VehicleId) (f : Visit → Bool) (l : LaneId) : Bool :=
  ((p.visit l).map fun w => decide (w.vehicle = some v) && f w).getD false

theorem laneWhere_eq (p : Part) (v : VehicleId) (f : Visit → Bool) :
    p.laneWhere v f = [LaneId.l0, LaneId.l1].find? (p.visitFits v f) := by
  unfold Part.laneWhere
  congr 1
  funext l
  unfold Part.visitFits
  cases p.visit l with
  | none => rfl
  | some w => rfl

theorem visitFits_iff (p : Part) (v : VehicleId) (f : Visit → Bool) (l : LaneId) :
    p.visitFits v f l = true ↔ ∃ w, p.visit l = some w ∧ w.vehicle = some v ∧ f w = true := by
  unfold Part.visitFits
  cases p.visit l with
  | none => simp
  | some w => simp

/-- The one lane whose visit fits is the one found. -/
theorem laneWhere_only {p : Part} {v : VehicleId} {f : Visit → Bool} {l : LaneId} (h : p.visitFits v f l = true)
    (ho : p.visitFits v f l.other = false) : p.laneWhere v f = some l := by
  rw [laneWhere_eq]
  cases l with
  | l0 => rw [List.find?_cons_of_pos h]
  | l1 =>
    rw [List.find?_cons_of_neg (by rw [show p.visitFits v f .l0 = false from ho]; exact Bool.false_ne_true),
      List.find?_cons_of_pos h]

theorem laneWhere_none {p : Part} {v : VehicleId} {f : Visit → Bool}
    (h : ∀ l w, p.visit l = some w → w.vehicle = some v → f w = false) : p.laneWhere v f = none := by
  rw [laneWhere_eq, List.find?_eq_none]
  intro l _ hfits
  obtain ⟨w, hv, hw, hf⟩ := (visitFits_iff ..).mp hfits
  exact Bool.false_ne_true ((h l w hv hw).symm.trans hf)

theorem laneWhere_isSome_iff (p : Part) (v : VehicleId) (f : Visit → Bool) :
    (p.laneWhere v f).isSome = true ↔ ∃ l w, p.visit l = some w ∧ w.vehicle = some v ∧ f w = true := by
  rw [laneWhere_eq, List.find?_isSome]
  simp only [visitFits_iff]
  refine ⟨fun ⟨l, _, h⟩ => ⟨l, h⟩, fun ⟨l, h⟩ => ⟨l, ?_, h⟩⟩
  cases l with
  | l0 => exact List.mem_cons_self
  | l1 => exact List.mem_cons_of_mem _ List.mem_cons_self

section
variable {p : Part} {corr : U16} {bytes : List Byte} {c : Consignment} {v : VehicleId}

theorem waitingLane_none (h : ∀ l w, p.visit l = some w → w.vehicle = some v → w.state ≠ .consignWait) :
    p.waitingLane v = none :=
  laneWhere_none fun l w hv hw => decide_eq_false (h l w hv hw)

theorem alreadyActive_iff (p : Part) (v : VehicleId) : p.alreadyActive v = true ↔
    (∃ l w, p.visit l = some w ∧ w.vehicle = some v ∧ w.consignment ≠ none) ∨ p.pairing.find v ≠ none := by
  unfold Part.alreadyActive
  rw [Bool.or_eq_true, laneWhere_isSome_iff]
  simp only [Option.isSome_iff_ne_none]

/-- What CONSIGN does once its values are judged (R57). -/
theorem consign_judged (hs : p.settingsSettled) (hv : parseVehicle bytes = some v) (hc : consignmentOk c = true)
    (ht : p.clock.valid = true) :
    (p.waitingLane v = none → p.consign corr bytes c = p.listConsignment corr v c) ∧
    ∀ l w, p.waitingLane v = some l → p.visit l = some w →
      p.consign corr bytes c = ((p.setVisit l { w with consignment := some c }).enterEntering l).done corr .consign := by
  unfold Part.consign
  rw [hv]
  dsimp only
  rw [hc, ht, if_neg (by decide), if_neg (by decide)]
  refine ⟨fun h => ?_, fun l w hl hw => ?_⟩
  · rw [h]
    dsimp only
    rw [h]
  · rw [hl]
    dsimp only
    rw [checkLane_id hs, hl]
    dsimp only
    rw [hw]

/-- The visit that waits takes its consignment and enters ENTERING (R57, R59). -/
theorem enterEntering_consigned {l : LaneId} (w : Visit) :
    (p.setVisit l { w with consignment := some c }).enterEntering l = p.modLane l fun x => { x with
      visit := some { w with consignment := some c, state := .entering, storeWait := false }
      waitTimer := .stopped, settleTimer := .stopped
      quietTimer := .running (p.clock.running + 10000 * (p.settings l).quietTime) } := by
  have hset : (p.setVisit l { w with consignment := some c }).settings l = p.settings l :=
    settings_modLane p l (f := fun x => { x with visit := some { w with consignment := some c } }) fun _ => rfl
  unfold Part.enterEntering Part.start Part.now
  dsimp only
  rw [hset, ← Nat.mul_assoc]
  unfold Part.setVisit
  rw [modLane_modLane]
  rfl

end

theorem isGradeChar_iff (b : Byte) :
    isGradeChar b = true ↔ 0x41 ≤ b.toNat ∧ b.toNat ≤ 0x5A ∨ 0x30 ≤ b.toNat ∧ b.toNat ≤ 0x39 := by
  unfold isGradeChar
  dsimp only
  rw [Bool.or_eq_true, Bool.and_eq_true, Bool.and_eq_true]
  simp only [decide_eq_true_eq]

/-- R56: a consignment whose fields are in range. -/
theorem consignmentOk_iff (c : Consignment) : consignmentOk c = true ↔ 1 ≤ c.commodity.toNat ∧ c.commodity.toNat ≤ 999 ∧
    (∀ b ∈ [c.grade0, c.grade1], 0x41 ≤ b.toNat ∧ b.toNat ≤ 0x5A ∨ 0x30 ≤ b.toNat ∧ b.toNat ≤ 0x39) ∧
    ∀ b, c.bin = some b → 1 ≤ b.toNat ∧ b.toNat ≤ 64 := by
  have hgrades : (∀ b ∈ [c.grade0, c.grade1], 0x41 ≤ b.toNat ∧ b.toNat ≤ 0x5A ∨ 0x30 ≤ b.toNat ∧ b.toNat ≤ 0x39) ↔
      isGradeChar c.grade0 = true ∧ isGradeChar c.grade1 = true := by
    rw [isGradeChar_iff, isGradeChar_iff]
    rw [List.forall_mem_cons, List.forall_mem_singleton]
  rw [hgrades]
  unfold consignmentOk
  cases hb : c.bin with
  | none => simp [and_assoc]
  | some b => simp [and_assoc]

/-- Settles O41, by the rows of `listConsignment` and the visit that waits. -/
theorem consignRows : Obligations.ConsignRows := by
  refine ⟨consignmentOk_iff, ?_⟩
  intro corr vehicle c s hs ht p ends
  have hps : p.settingsSettled := settled_admitted hs ..
  have run {q : Part} (hq : p.consign corr vehicle c = q) (hqs : q.settingsSettled) : ends q :=
    request_endsAs (.consign corr vehicle c) s corr .consign (·.consign corr vehicle c) q 0 rfl ht hq hqs
  refine ⟨fun h => ?_, fun v hv hc => ⟨fun hinvalid => ?_, fun hvalid => ⟨fun l w hw hvehicle hst hother => ?_, fun hno => ?_⟩⟩⟩
  · refine run ?_ (settled_refuse hps ..)
    unfold Part.consign
    cases hv : parseVehicle vehicle with
    | none => rfl
    | some v =>
      rcases h with h | h
      · exact absurd (hv.symm.trans h) (Option.some_ne_none v)
      · exact if_pos h
  · refine run ?_ (settled_refuse hps ..)
    unfold Part.consign
    rw [hv]
    dsimp only
    rw [hc, if_neg (by decide)]
    exact if_pos hinvalid
  · have hwaiting : p.waitingLane v = some l := by
      refine laneWhere_only ((visitFits_iff ..).mpr ⟨w, hw, hvehicle, decide_eq_true hst⟩) (Bool.eq_false_iff.mpr fun k => ?_)
      obtain ⟨w', hw', hvehicle', hst'⟩ := (visitFits_iff ..).mp k
      exact hother w' hw' ⟨hvehicle', of_decide_eq_true hst'⟩
    have hset : p.settings l = s.toPart.settings l := rfl
    have hconsign := (consign_judged (corr := corr) hps hv hc hvalid).2 l w hwaiting hw
    rw [enterEntering_consigned w] at hconsign
    exact run hconsign (settled_done (settled_modLane hps l (fun x => { x with
      visit := some { w with consignment := some c, state := .entering, storeWait := false }
      waitTimer := .stopped, settleTimer := .stopped
      quietTimer := .running (p.clock.running + 10000 * (p.settings l).quietTime) }) fun _ => rfl) ..)
  · intro active lists
    have hconsign := (consign_judged (corr := corr) hps hv hc hvalid).1 (waitingLane_none hno)
    have hactive : p.alreadyActive v = true ↔ active := alreadyActive_iff p v
    have settledList (old : List ConsignEntry) : (({ p with pairing := { p.pairing with
        consignments := old ++ [⟨v, c, s.clock.sec⟩] } } : Part).done corr .consign).settingsSettled :=
      settled_of hps rfl rfl rfl
    refine ⟨fun h => run (hconsign.trans (if_pos (hactive.mpr h))) (settled_refuse hps ..), fun h => ?_⟩
    have hfresh : ¬ p.alreadyActive v = true := fun k => h (hactive.mp k)
    have hlist := hconsign.trans (if_neg hfresh)
    refine ⟨fun hlisted => ?_, fun hunlisted => ?_⟩
    · exact run (hlist.trans (if_pos (Option.isSome_iff_ne_none.mpr hlisted))) (settledList _)
    · have hnone : ¬ (p.pairing.findConsignment v).isSome = true := fun k => Option.isSome_iff_ne_none.mp k hunlisted
      exact ⟨fun hroom => run (hlist.trans ((if_neg hnone).trans (if_neg (Nat.not_le.mpr hroom)))) (settledList _),
        fun hfull => run (hlist.trans ((if_neg hnone).trans (if_pos hfull))) (settled_refuse hps ..)⟩

end Sys2Proof.Machine
end


section
/-! PROOFS. Visits that a tag read or an ADMIT starts (R46-R56, R69, R136). -/

namespace Sys2Proof.Machine

/-! ## ADMIT (R52) -/

section
variable {p : Part} {l : LaneId} {v : VehicleId}

theorem identifyByName_none (h : searchPasses (fun r => r.status = .active ∧ r.vehicle = v) p.tables.register) :
    p.identifyByName l v = p.setIdentity l ⟨v, none, [], none⟩ := by
  unfold Part.identifyByName
  rw [search_none _ _ (fun _ => decide_eq_true_iff) _ p h]

theorem identifyByName_some {before after : List (Nat × Slot (Option RegEntry))} {i : Nat} {sl : Slot (Option RegEntry)}
    {r : RegEntry} (hreg : p.tables.register = before ++ (i, sl) :: after)
    (hb : searchPasses (fun r => r.status = .active ∧ r.vehicle = v) before) (hd : sl.damaged = false) (hp : sl.parityOk = true)
    (hv : sl.val = some r) (hr : r.status = .active ∧ r.vehicle = v) :
    p.identifyByName l v = p.setIdentity l (.ofEntry i r) := by
  unfold Part.identifyByName
  rw [hreg, search_some _ _ (fun _ => decide_eq_true_iff) before i sl r after p hb hd hp hv hr]

/-- The visit that starts on lane `l` (R49). -/
def Part.starting (p : Part) (l : LaneId) (e : LaneEnd) (who : TagId ⊕ VehicleId) : Part :=
  (p.modLane l fun x => { x.emptySlot with
    visit := some (Visit.start (p.lane l).nextVisit e), nextVisit := (p.lane l).nextVisit + 1 }).notify
      (.visitStarted l (p.lane l).nextVisit e who)

theorem startVisit_eq (p : Part) (l : LaneId) (e : LaneEnd) (who : TagId ⊕ VehicleId) :
    p.startVisit l e who = p.starting l e who := rfl

theorem visit_starting (e : LaneEnd) (who : TagId ⊕ VehicleId) :
    (p.starting l e who).visit l = some (Visit.start (p.lane l).nextVisit e) :=
  congrArg Lane.visit (lane_modLane_self p l fun x => { x.emptySlot with
    visit := some (Visit.start (p.lane l).nextVisit e), nextVisit := (p.lane l).nextVisit + 1 })

theorem settled_starting (h : p.settingsSettled) (e : LaneEnd) (who : TagId ⊕ VehicleId) :
    (p.starting l e who).settingsSettled :=
  settled_notify (settled_modLane h l (fun x => { x.emptySlot with
    visit := some (Visit.start (p.lane l).nextVisit e), nextVisit := (p.lane l).nextVisit + 1 }) fun _ => rfl) _

/-- The rows of ADMIT once its values are judged (R52). -/
theorem admitVehicle_judged {corr : U16} {lane : Byte} {e : LaneEnd} {bytes : List Byte} (hs : p.settingsSettled)
    (hl : laneTarget lane = some l) (hv : parseVehicle bytes = some v) :
    p.admitVehicle corr lane (.known e) bytes = p.admitVisit corr l e v := by
  unfold Part.admitVehicle endTarget
  rw [hl]
  dsimp only
  rw [hv]
  dsimp only
  rw [checkLane_id hs, ite_self]

theorem admits_iff (x : Lane) : x.admits = true ↔ x.state = .opened ∧ x.visit = none ∧ x.blocks = .empty := by
  unfold Lane.admits
  rw [Bool.and_eq_true, Bool.and_eq_true, decide_eq_true_iff, decide_eq_true_iff, Option.isNone_iff_eq_none, and_assoc]

theorem identifiesAt_iff {e : LaneEnd} :
    p.identifiesAt l e = true ↔ ∃ w, p.visit l = some w ∧ w.state = .identify ∧ w.entry = e := by
  unfold Part.identifiesAt
  cases p.visit l with
  | none => simp
  | some w => simp

theorem admitVisit_refused {corr : U16} {e : LaneEnd} (hi : ¬ p.identifiesAt l e = true) (ha : ¬ (p.lane l).admits = true) :
    p.admitVisit corr l e v = p.refuse corr .admitVehicle .wrongState :=
  (if_neg hi).trans (if_neg ha)

theorem admitVisit_identifies {corr : U16} {e : LaneEnd} {w : Visit} (hw : p.visit l = some w) (hst : w.state = .identify)
    (he : w.entry = e) :
    p.admitVisit corr l e v = (p.identifyByName l v).done corr .admitVehicle (.admitted l w.count) := by
  unfold Part.admitVisit
  rw [if_pos (identifiesAt_iff.mpr ⟨w, hw, hst, he⟩), hw]
  rfl

theorem admitVisit_starts {corr : U16} {e : LaneEnd} (hv : p.visit l = none) (ha : (p.lane l).admits = true) :
    p.admitVisit corr l e v = ((p.starting l e (.inr v)).identifyByName l v).done corr .admitVehicle
      (.admitted l (p.lane l).nextVisit) := by
  have hno : ¬ p.identifiesAt l e = true := fun k => by
    obtain ⟨w, hw, -⟩ := identifiesAt_iff.mp k
    exact Option.some_ne_none w (hw.symm.trans hv)
  unfold Part.admitVisit
  rw [if_neg hno, if_pos ha]
  rfl

end

/-- Settles O34, by `setIdentity_identified` for the visit that ADMIT finds or starts. -/
theorem admitStartsGrossVisit : Obligations.AdmitStartsGrossVisit := by
  refine ⟨parseVehicle_iff, ?_⟩
  intro corr lane l e vehicle s hs ht hlane c n p
  have hl : laneTarget lane = some l := laneTarget_of hlane
  have hps : p.settingsSettled := settled_admitted hs ..
  have run {q : Part} (hq : p.admitVehicle corr lane (.known e) vehicle = q) (hqs : q.settingsSettled) : endsAs c s q :=
    request_endsAs c s corr .admitVehicle (·.admitVehicle corr lane (.known e) vehicle) q lane rfl ht hq hqs
  refine ⟨fun h => ?_, fun v hv => ?_⟩
  · refine run ?_ (settled_refuse hps ..)
    unfold Part.admitVehicle endTarget
    rw [hl]
    dsimp only
    rw [h]
  intro identifies
  have judged := admitVehicle_judged (corr := corr) (e := e) hps hl hv
  have identified (q : Part) (w : Visit) (hqr : q.tables.register = s.tables.register) (hqs : q.readsSettled)
      (hqv : q.visit l = some w) (hi : w.pendingIndex = none)
      (hq : p.admitVehicle corr lane (.known e) vehicle = (q.identifyByName l v).done corr .admitVehicle (.admitted l w.count)) :
      identifies q w := by
    have given (id : Identity) (hid : q.identifyByName l v = q.setIdentity l id) :
        ∃ u, q.identified u l w id ∧ endsAs c s (u.done corr .admitVehicle (.admitted l w.count)) := by
      rw [hid] at hq
      exact ⟨_, setIdentity_identified q l w id hqs.1 hqv hi, run hq (settled_done (setIdentity_settled q l id hqs).1 ..)⟩
    refine ⟨fun h => given _ (identifyByName_none (by rw [hqr]; exact h)), fun before i sl r after hreg hb hd hp hval hr => ?_⟩
    exact given _ (identifyByName_some (hqr.trans hreg) hb hd hp hval hr)
  refine ⟨fun w hw hst => ?_, fun hw hst => ?_, fun w hw hst he hi hact => ?_, fun hw hst hb hact => ?_⟩
  · refine run (judged.trans (admitVisit_refused (fun k => ?_) fun k => ?_)) (settled_refuse hps ..)
    · obtain ⟨w', hw', hst', he'⟩ := identifiesAt_iff.mp k
      cases hw.symm.trans hw'
      rcases hst with h | h
      · exact h hst'
      · exact h he'
    · exact Option.some_ne_none w (hw.symm.trans ((admits_iff _).mp k).2.1)
  · refine run (judged.trans (admitVisit_refused (fun k => ?_) fun k => ?_)) (settled_refuse hps ..)
    · obtain ⟨w', hw', -⟩ := identifiesAt_iff.mp k
      exact Option.some_ne_none w' (hw'.symm.trans hw)
    · obtain ⟨hopen, -, hblocks⟩ := (admits_iff _).mp k
      rcases hst with h | h
      · exact h hopen
      · exact h hblocks
  · exact identified p w rfl ⟨hps, hact⟩ hw hi (judged.trans (admitVisit_identifies hw hst he))
  · exact identified (p.starting l e (.inr v)) (Visit.start n e) rfl ⟨settled_starting hps e _, hact⟩ (visit_starting e _) rfl
      (judged.trans (admitVisit_starts hw ((admits_iff _).mpr ⟨hst, hw, hb⟩)))

/-! ## Tag reads (R46-R50) -/

theorem lane_modEnd_self (p : Part) (l : LaneId) (e : LaneEnd) (f : EndState → EndState) :
    (p.modEnd l e f).lane l = { p.lane l with ends := (p.lane l).ends.set e (f (p.laneEnd l e)) } := lane_modLane_self ..

theorem suppressed_iff (last : Option LastRead) (tag : TagId) (ms : Nat) :
    suppressed last tag ms = true ↔ ∃ r, last = some r ∧ r.tag = tag ∧ ms - r.ms < 5000 := by
  unfold suppressed
  cases last with
  | none => simp
  | some r => simp

/-- The tickets of other visits are left alone. -/
theorem exitEntered_none {l : LaneId} {count : Byte} {ts : List StagedTicket} (h : ∀ t ∈ ts, t.tag ≠ some (l, count))
    (n : Nat) : exitEntered l count n ts = ts := by
  unfold exitEntered
  refine (List.map_congr_left fun t ht => if_neg (h t ht)).trans (List.map_id' ts)

section
variable {p : Part} {l : LaneId} {e : LaneEnd} {tag : TagId}

theorem tagFrame_read {wire : List Byte} (hr : p.phase = .running) (hw : parseTag wire = some (l, e, tag)) :
    p.tagFrame wire = if suppressed (p.laneEnd l e).lastRead tag (p.clock.running / 10) then p
      else (p.modEnd l e fun x => { x with lastRead := some ⟨tag, p.clock.running / 10⟩ }).offerTag l e tag := by
  unfold Part.tagFrame
  rw [hw]
  exact if_neg (not_not.mpr hr)

/-- A tag read that is ignored (R48). -/
def Part.ignoring (p : Part) (l : LaneId) (e : LaneEnd) (tag : TagId) (r : IgnoreReason) : Part :=
  p.notify (.tagIgnored (readerOf l e) tag r)

/-- The rows of R48. -/
theorem offerTag_eq (hs : p.settingsSettled) : p.offerTag l e tag =
    if (p.visit l).isSome then p.ignoring l e tag .laneBusy
    else if (p.lane l).state ≠ .opened then p.ignoring l e tag .notOpen
    else if (p.lane l).blocks ≠ .empty then p.ignoring l e tag .blocked
    else if (p.settings l).admitting.admits e = false then p.ignoring l e tag .endClosed
    else (p.starting l e (.inl tag)).lookupTag l e tag := by
  unfold Part.offerTag
  dsimp only
  rw [checkLane_id hs]
  by_cases hstate : (p.lane l).state = .opened
  · simp only [hstate, ne_eq, not_true_eq_false, if_false]
    rfl
  · simp only [hstate, ne_eq, not_false_eq_true, if_true]
    rfl

/-- A tag that no register entry carries (R50). -/
theorem lookupTag_unknown {v : Visit} (hv : p.visit l = some v) (h : searchPasses (fun r => r.tag = tag) p.tables.register) :
    p.lookupTag l e tag = (p.notify (.tagUnknown l v.count e tag)).modLane l fun x =>
      { x with waitTimer := .running (p.clock.running + 10000 * (p.settings l).identityTimeout) } := by
  unfold Part.lookupTag
  rw [search_none _ _ (fun _ => decide_eq_true_iff) _ p h]
  dsimp only
  rw [hv]
  unfold Part.start Part.now
  dsimp only
  rw [← Nat.mul_assoc]

theorem lookupTag_found {v : Visit} (hv : p.visit l = some v) {before after : List (Nat × Slot (Option RegEntry))} {i : Nat}
    {sl : Slot (Option RegEntry)} {r : RegEntry} (hreg : p.tables.register = before ++ (i, sl) :: after)
    (hb : searchPasses (fun r => r.tag = tag) before) (hd : sl.damaged = false) (hp : sl.parityOk = true)
    (hval : sl.val = some r) (hr : r.tag = tag) :
    (r.status = .active → p.lookupTag l e tag = p.setIdentity l (.ofEntry i r)) ∧
    (r.status = .barred → p.lookupTag l e tag = (p.setVisit l { v with vehicle := some r.vehicle }).endAtOnce l .barred) := by
  unfold Part.lookupTag
  rw [hreg, search_some _ _ (fun _ => decide_eq_true_iff) before i sl r after p hb hd hp hval hr]
  dsimp only
  rw [hv]
  dsimp only
  refine ⟨fun hst => ?_, fun hst => ?_⟩
  · rw [hst]
  · rw [hst]

/-- A visit that is ended at once at its start leaves its notices alone (R50, R69). -/
theorem barred_ends {n : Byte} {vehicle : VehicleId} (hn : (p.lane l).nextVisit = n) (hplain : p.closesPlainly l)
    (htag : ∀ t ∈ p.tickets.staging, t.tag ≠ some (l, n)) :
    ((p.starting l e (.inl tag)).setVisit l { Visit.start n e with vehicle := some vehicle }).endAtOnce l .barred =
      ((p.modLane l fun x => { x.emptySlot with nextVisit := n + 1 }).notify (.visitStarted l n e (.inl tag))).notify
        (.visitAborted l n (some vehicle) none .barred) := by
  set q := (p.starting l e (.inl tag)).setVisit l { Visit.start n e with vehicle := some vehicle } with hq
  have hqeq : q = (p.modLane l fun x => { x.emptySlot with
      visit := some { Visit.start n e with vehicle := some vehicle }, nextVisit := n + 1 }).notify
        (.visitStarted l n e (.inl tag)) := by
    rw [hq]
    unfold Part.starting Part.setVisit
    rw [modLane_notify, modLane_modLane, hn]
  have hlane : q.lane l = { (p.lane l).emptySlot with
      visit := some { Visit.start n e with vehicle := some vehicle }, nextVisit := n + 1 } := by
    rw [hqeq]
    exact lane_modLane_self p l fun x => { x.emptySlot with
      visit := some { Visit.start n e with vehicle := some vehicle }, nextVisit := n + 1 }
  have hqv : q.visit l = some { Visit.start n e with vehicle := some vehicle } := by
    unfold Part.visit
    rw [hlane]
  have hqp : q.closesPlainly l := by
    unfold Part.closesPlainly
    rw [hlane]
    exact hplain
  have hqt : exitEntered l n (q.lane l).exitAxles q.tickets.staging = p.tickets.staging := exitEntered_none htag _
  have hlanes : (q.modLane l Lane.emptySlot).lanes = (p.modLane l fun x => { x.emptySlot with nextVisit := n + 1 }).lanes := by
    rw [hqeq, modLane_notify, modLane_modLane]
    rfl
  have hend : q.endAtOnce l .barred = { q with
      link := (q.notify (.visitAborted l n (some vehicle) none .barred)).link
      tickets := { q.tickets with staging := exitEntered l n (q.lane l).exitAxles q.tickets.staging }
      lanes := (q.modLane l Lane.emptySlot).lanes } := endAtOnce_plain q l _ .barred hqv rfl hqp
  rw [hend, hqt, hlanes, hqeq]
  rfl

/-- A visit of an unknown tag waits in IDENTIFY (R50, R51). -/
theorem unknown_waits {n : Byte} (hn : (p.lane l).nextVisit = n)
    (h : searchPasses (fun r => r.tag = tag) p.tables.register) :
    (p.starting l e (.inl tag)).lookupTag l e tag = ((p.modLane l fun x => { x.emptySlot with
      visit := some (Visit.start n e), nextVisit := n + 1
      waitTimer := .running (p.clock.running + 10000 * (p.settings l).identityTimeout) }).notify
        (.visitStarted l n e (.inl tag))).notify (.tagUnknown l n e tag) := by
  have hset : (p.starting l e (.inl tag)).settings l = p.settings l :=
    settings_modLane p l (f := fun x => { x.emptySlot with
      visit := some (Visit.start (p.lane l).nextVisit e), nextVisit := (p.lane l).nextVisit + 1 }) fun _ => rfl
  have hsv : (p.starting l e (.inl tag)).visit l = some (Visit.start n e) := (visit_starting e _).trans (by rw [hn])
  rw [lookupTag_unknown hsv h, hset]
  unfold Part.starting
  rw [modLane_notify, modLane_notify, modLane_modLane, hn]
  rfl

end

/-- Settles O33. -/
theorem tagReads : Obligations.TagReads := by
  refine ⟨parseTag_iff, ⟨rfl, rfl, rfl, rfl⟩, ?_⟩
  intro wait wire s hs hr p
  have hps : p.settingsSettled := settled_elapse hs _
  have run {q : Part} (hq : p.tagFrame wire = q) (hqs : q.settingsSettled) : endsAs (.tagFrame wait wire) s q :=
    endsAs_run (.tagFrame wait wire) s (fun p => (p.elapse wait).tagFrame wire) _ rfl hq hqs
  refine ⟨fun h => run ?_ hps, fun l e tag hw => ?_⟩
  · unfold Part.tagFrame
    rw [h]
  intro ms q
  have hread := tagFrame_read (p := p) hr hw
  refine ⟨fun r hlast htag hms => run (hread.trans (if_pos ((suppressed_iff ..).mpr ⟨r, hlast, htag, hms⟩))) hps, fun hfresh => ?_⟩
  have hnot : ¬ suppressed (p.laneEnd l e).lastRead tag (p.clock.running / 10) = true := fun k => by
    obtain ⟨r, hlast, htag, hms⟩ := (suppressed_iff ..).mp k
    rcases hfresh r hlast with h | h
    · exact h htag
    · exact absurd hms (Nat.not_lt.mpr h)
  have hqs : q.settingsSettled := settled_modEnd hps l e _
  have hlane : q.lane l = _ := lane_modEnd_self p l e fun x => { x with lastRead := some ⟨tag, ms⟩ }
  have hstate : (q.lane l).state = (s.toPart.lane l).state := (congrArg Lane.state hlane).trans rfl
  have hblocks : (q.lane l).blocks = (s.toPart.lane l).blocks := (congrArg Lane.blocks hlane).trans rfl
  have hnext : (q.lane l).nextVisit = (s.toPart.lane l).nextVisit := (congrArg Lane.nextVisit hlane).trans rfl
  have hvisit : q.visit l = s.toPart.visit l := visit_modEnd ..
  have hset : q.settings l = s.toPart.settings l := settings_modEnd ..
  have hoffer := (hread.trans (if_neg hnot)).trans (offerTag_eq hqs)
  rw [hvisit, hstate, hblocks, hset] at hoffer
  have ignored (r : IgnoreReason) : (q.ignoring l e tag r).settingsSettled := settled_notify hqs _
  have free (h : s.toPart.visit l = none) : ¬ (s.toPart.visit l).isSome = true := by
    rw [h]
    exact Bool.false_ne_true
  refine ⟨fun h => run (hoffer.trans (if_pos h)) (ignored _),
    fun h hst => run (hoffer.trans ((if_neg (free h)).trans (if_pos hst))) (ignored _),
    fun h hst hb => run (hoffer.trans ((if_neg (free h)).trans ((if_neg (not_not.mpr hst)).trans (if_pos hb)))) (ignored _),
    fun h hst hb ha => run (hoffer.trans ((if_neg (free h)).trans ((if_neg (not_not.mpr hst)).trans
      ((if_neg (not_not.mpr hb)).trans (if_pos ha))))) (ignored _), fun h hst hb ha => ?_⟩
  intro n started
  have hclosed : ¬ (s.toPart.settings l).admitting.admits e = false := by
    rw [ha]
    decide
  have hstarts := hoffer.trans ((if_neg (free h)).trans ((if_neg (not_not.mpr hst)).trans
    ((if_neg (not_not.mpr hb)).trans (if_neg hclosed))))
  have hss : (q.starting l e (.inl tag)).settingsSettled := settled_starting hqs e _
  have hsv : (q.starting l e (.inl tag)).visit l = some (Visit.start n e) := (visit_starting e _).trans (by rw [hnext])
  refine ⟨fun hunknown => ?_, fun before i sl r after hreg hbefore hd hp hval htag => ?_⟩
  · exact run (hstarts.trans ((unknown_waits hnext hunknown).trans (by rw [hset]; rfl)))
      (settled_notify (settled_notify (settled_modLane hqs l (fun x => { x.emptySlot with
        visit := some (Visit.start n e), nextVisit := n + 1
        waitTimer := .running (p.clock.running + 10000 * (s.toPart.settings l).identityTimeout) }) fun _ => rfl) _) _)
  · obtain ⟨hactive, hbarred⟩ := lookupTag_found (p := q.starting l e (.inl tag)) (e := e) hsv hreg hbefore hd hp hval htag
    refine ⟨fun hst hplain htickets => ?_, fun hst hact => ?_⟩
    · have hqp : q.closesPlainly l := by
        unfold Part.closesPlainly
        rw [hlane]
        exact hplain
      exact run (hstarts.trans ((hbarred hst).trans (barred_ends hnext hqp htickets)))
        (settled_notify (settled_notify (settled_modLane hqs l (fun x => { x.emptySlot with nextVisit := n + 1 })
          fun _ => rfl) _) _)
    · have hidentified := setIdentity_identified _ l (Visit.start n e) (.ofEntry i r) hss hsv rfl
      have hset' := (setIdentity_settled (q.starting l e (.inl tag)) l (.ofEntry i r) ⟨hss, hact⟩).1
      have hsame : q.starting l e (.inl tag) = (q.modLane l fun x => { x.emptySlot with
          visit := some (Visit.start n e), nextVisit := n + 1 }).notify started := by
        unfold Part.starting
        rw [hnext]
      have hends := run (hstarts.trans (hactive hst)) hset'
      rw [hsame] at hidentified hends
      exact ⟨_, hends, hidentified⟩

end Sys2Proof.Machine
end


section
/-! PROOFS. Lane faults: a stopped lane, a barrier that does not move in time, and BARRIER leaving (R28, R32, R35-R37). -/

namespace Sys2Proof.Machine

section
variable {p : Part} {l : LaneId} {v : Visit}

/-! ## A lane that is stopped -/

/-- The cause set of a lane that is stopped and has no other cause. -/
def stopCauses : LaneCauses := { LaneCauses.empty with laneStop := true }

/-- A lane that the stop input takes from OPEN to FAULT. -/
def Lane.stopped (x : Lane) : Lane :=
  { x with stopInput := true, stopLatch := true, state := .fault, causes := stopCauses }

/-- The lane has entered FAULT, and its visit has not received the fault yet (R36). -/
def Part.stopping (p : Part) (l : LaneId) : Part := (p.modLane l Lane.stopped).notify (.laneState l .fault stopCauses)

theorem lane_stopping (p : Part) (l : LaneId) : (p.stopping l).lane l = (p.lane l).stopped := lane_modLane_self ..

theorem settled_stopping (h : p.settingsSettled) (l : LaneId) : (p.stopping l).settingsSettled :=
  settled_notify (settled_modLane h l Lane.stopped fun _ => rfl) _

theorem stopEdge_active (hr : p.phase = .running) (hi : (p.lane l).stopInput = false) : p.stopEdge l true =
    (p.modLane l fun x => { x with stopInput := true, stopLatch := true }).laneRaise l .laneStop := by
  unfold Part.stopEdge
  rw [if_neg (by rw [hi]; decide)]
  dsimp only
  rw [if_pos ⟨rfl, hr⟩, modLane_modLane]

/-- An edge into the stop level of an OPEN lane without a cause (R28, R36). -/
theorem stopEdge_opened (hr : p.phase = .running) (hi : (p.lane l).stopInput = false) (hst : (p.lane l).state = .opened)
    (hc : (p.lane l).causes = .empty) : p.stopEdge l true = (p.stopping l).visitFault l := by
  set q := p.modLane l fun x => { x with stopInput := true, stopLatch := true } with hq
  have hlane : q.lane l = { p.lane l with stopInput := true, stopLatch := true } := lane_modLane_self ..
  have hraised : (q.modLane l fun x => { x with causes := x.causes.put true .laneStop }).enterLaneState l .fault =
      p.stopping l := by
    have hcauses : (q.modLane l fun x => { x with causes := x.causes.put true .laneStop }).lane l =
        { q.lane l with causes := stopCauses } := by
      rw [lane_modLane_self, hlane]
      dsimp only
      rw [hc]
      rfl
    rw [enterLaneState_ne _ _ _ (by rw [hcauses, hlane]; dsimp only; rw [hst]; decide), hcauses, hq, modLane_modLane,
      modLane_modLane]
    refine congrArg (fun r : Part => r.notify (.laneState l .fault stopCauses)) (modLane_congr _ _ _ _ ?_)
    unfold Lane.stopped
    dsimp only
    rw [hc]
    rfl
  rw [stopEdge_active hr hi, ← hq]
  unfold Part.laneRaise
  rw [if_neg (by rw [hlane]; show ¬ (p.lane l).causes.laneStop = true; rw [hc]; exact Bool.false_ne_true)]
  dsimp only
  rw [if_neg (by rw [hlane]; exact not_not.mpr hc), hlane]
  dsimp only
  rw [hst]
  dsimp only
  rw [hraised]

/-- What the lane fault does to a visit, by its state (R36). -/
theorem visitFault_eq (hv : p.visit l = some v) :
    p.visitFault l = if v.state = .exiting then p.enterClearing l else p.abortVisit l .laneFault := by
  unfold Part.visitFault
  rw [visitState_of hv]
  by_cases h : v.state = .exiting
  · rw [if_pos h, h, if_pos rfl]
  · rw [if_neg h, if_neg fun k => h (Option.some.inj k)]

theorem enterClearing_eq (hv : p.visit l = some v) : p.enterClearing l = p.modLane l fun x => { x with
    visit := some { v with state := .clearing, storeWait := false }
    quietTimer := .stopped, settleTimer := .stopped, clearTimer := p.clearsFrom l } := by
  unfold Part.enterClearing
  dsimp only
  rw [clearTimerAtEntry_eq]
  refine modLane_congr _ _ _ _ ?_
  rw [show (p.lane l).visit = some v from hv]
  rfl

theorem abortVisit_clearing (hv : p.visit l = some v) (hst : v.state = .clearing) (r : AbortReason) :
    p.abortVisit l r = p := by
  unfold Part.abortVisit
  rw [hv]
  dsimp only
  rw [hst]

/-! ## BARRIER leaves the cause set at the end of a step (R32, R37) -/

/-- BARRIER, the lane's only cause, leaves, and the lane enters CLOSED. -/
theorem barrierLeaves_closes (hw : p.barriersWell l = true) (hst : (p.lane l).state = .fault) (hv : p.visit l = none)
    (hc : (p.lane l).causes = { LaneCauses.empty with barrier := true }) : p.barrierLeaves l =
      (p.modLane l fun y => { y with
        causes := .empty, state := .closed, blocks := { y.blocks with closeRequested := false } }).notify
          (.laneState l .closed .empty) := by
  unfold Part.barrierLeaves
  dsimp only
  rw [if_pos ⟨by rw [hc], hw⟩, if_pos ⟨by rw [hc]; rfl, hst, Option.isNone_iff_eq_none.mpr hv⟩]

/-- Where the other lane has no BARRIER, the end of a step takes it out of this lane alone. -/
theorem barrierLeaves_both (ho : (p.lane l.other).causes.barrier = false) :
    (p.barrierLeaves .l0).barrierLeaves .l1 = p.barrierLeaves l := by
  cases l with
  | l0 =>
    obtain ⟨-, -, hother, -⟩ := barrierLeaves_facts p .l0
    refine barrierLeaves_id _ _ (.inl ?_)
    rw [show (p.barrierLeaves .l0).lane .l1 = p.lane .l1 from hother]
    exact ho
  | l1 => rw [barrierLeaves_id p .l0 (.inl ho)]

end

theorem ne_exiting {st : VisitState}
    (h : st = .identify ∨ st = .consignWait ∨ st = .entering ∨ st = .settling ∨ st = .held) : st ≠ .exiting := by
  rcases h with h | h | h | h | h
  · rw [h]; decide
  · rw [h]; decide
  · rw [h]; decide
  · rw [h]; decide
  · rw [h]; decide

theorem other_ne (e : LaneEnd) : e.other ≠ e := by
  cases e with
  | a => decide
  | b => decide

theorem barriersWell_of {p : Part} {l : LaneId} {e : LaneEnd} (h : (p.laneEnd l e).barrier.failed = false)
    (ho : (p.laneEnd l e.other).barrier.failed = false) : p.barriersWell l = true := by
  unfold Part.barriersWell
  cases e with
  | a =>
    rw [h, show (p.laneEnd l .b).barrier.failed = false from ho]
    rfl
  | b =>
    rw [h, show (p.laneEnd l .a).barrier.failed = false from ho]
    rfl

/-- Settles O29: `laneRaise_noVisit` without a visit, the rows of the lane fault with one, and `barrierLeaves_closes`. -/
theorem laneCausesFaultLane : Obligations.LaneCausesFaultLane := by
  intro l s hs
  have runStop {active : Bool} {q : Part} (hq : s.toPart.stopEdge l active = q) (hqs : q.settingsSettled) :
      endsAs (.laneStopEdge l active) s q :=
    endsAs_run (.laneStopEdge l active) s (fun p => p.stopEdge l active) _ rfl hq hqs
  refine ⟨fun hc hv hst => ⟨fun e deadline ht => ?_, fun hr hi => ?_⟩, fun hr hi => ?_, fun v hv hst hc hr hi => ?_,
    fun e up down hr hv hst hc ho hf => ?_⟩
  · have hlane := lane_modEnd_stateAndCauses (s.toPart.reach deadline) l e fun x =>
      { x with barrier := { x.barrier with timer := .stopped, failed := true } }
    have hraise := laneRaise_noVisit ((s.toPart.reach deadline).modEnd l e fun x =>
      { x with barrier := { x.barrier with timer := .stopped, failed := true } }) l .barrier
      (hlane.1.trans hc) ((visit_modEnd ..).trans hv) (hst.imp hlane.2.trans hlane.2.trans)
    have hps : (s.toPart.reach deadline).settingsSettled := settled_elapse hs _
    exact endsAs_run (.supervisionTimerExpiry l e) s (fun p => p.expire (p.laneEnd l e).barrier.timer (·.supervisionExpiry l e)) _
      rfl ((expire_running ht _).trans hraise) (settled_notify (settled_modLane (settled_modEnd hps l e _) l (fun x =>
        { x with state := .fault, causes := { LaneCauses.empty with barrier := true } }) fun _ => rfl) _)
  · have hlane : (s.toPart.modLane l fun x => { x with stopInput := true, stopLatch := true }).lane l =
        { s.toPart.lane l with stopInput := true, stopLatch := true } := lane_modLane_self ..
    have hraise := laneRaise_noVisit (s.toPart.modLane l fun x => { x with stopInput := true, stopLatch := true }) l .laneStop
      (by rw [hlane]; exact hc) (by unfold Part.visit; rw [hlane]; exact hv) (by rw [hlane]; exact hst)
    rw [modLane_modLane] at hraise
    exact runStop ((stopEdge_active hr hi).trans hraise) (settled_notify (settled_modLane hs l (fun x => { x with
      stopInput := true, stopLatch := true, state := .fault, causes := { LaneCauses.empty with laneStop := true } })
        fun _ => rfl) _)
  · refine runStop ?_ (settled_modLane hs l (fun x => { x with stopInput := false }) fun _ => rfl)
    unfold Part.stopEdge
    rw [if_neg (by rw [hi]; decide)]
    exact if_neg fun k => absurd k.1 (by decide)
  · intro causes stops aborted clear
    have hstop := stopEdge_opened hr hi hst hc
    have hFs : (s.toPart.stopping l).settingsSettled := settled_stopping hs l
    have hFl : (s.toPart.stopping l).lane l = stops (s.toPart.lane l) := lane_stopping s.toPart l
    have hFv : (s.toPart.stopping l).visit l = some v := by
      unfold Part.visit
      rw [hFl]
      exact hv
    have hFo : (s.toPart.stopping l).lane l.other = s.toPart.lane l.other := lane_modLane_other ..
    have hFc : (s.toPart.stopping l).clearsFrom l = clear := by
      unfold Part.clearsFrom Part.laneEnd
      rw [hFl]
      rfl
    rw [visitFault_eq hFv] at hstop
    refine ⟨fun h ha hu => ?_, fun h => ?_, fun h => ?_, fun h => ?_⟩
    · have hturns : ¬ ((s.toPart.stopping l).lane l).turns := by
        rw [hFl]
        rintro (⟨k, -⟩ | ⟨-, k⟩)
        · exact absurd k (show LaneState.fault ≠ .opened by decide)
        · exact absurd k (show stopCauses ≠ LaneCauses.empty by decide)
      have hadopted : ((s.toPart.stopping l).lane l).adoptedActive = true := by
        rw [hFl]
        exact ha
      obtain ⟨hrest, hempty, hother, hreleases, hlink, -⟩ := endAtOnce_facts .laneFault hFv hadopted hturns hu
      have hends := runStop ((hstop.trans (if_neg (ne_exiting (h.imp_right .inl)))).trans (abortVisit_atOnce hFv h _))
        (settled_endAtOnce hFs .laneFault hFv hadopted hturns hu)
      rw [hFl] at hempty
      refine ⟨_, hends, hempty, hreleases, hlink, hother.trans hFo, ?_⟩
      rw [hrest]
      rfl
    · obtain ⟨hrest, haborts, hreleases, hlink, hother⟩ := abortVisit_facts _ l v .laneFault hFv h
      have hends := runStop (hstop.trans (if_neg (ne_exiting (.inr (.inr h)))))
        (settled_oneLane hFs l (by rw [hrest]) (by rw [haborts]; rfl) hother)
      rw [hFl, hFc] at haborts
      refine ⟨_, hends, haborts, hreleases, hlink, hother.trans hFo, ?_⟩
      rw [hrest]
      rfl
    · have hclearing := enterClearing_eq hFv
      rw [hFc] at hclearing
      refine runStop ((hstop.trans (if_pos h)).trans (hclearing.trans ?_)) (settled_notify (settled_modLane hs l
        (fun x => { stops x with
          visit := some { v with state := .clearing, storeWait := false }
          quietTimer := .stopped, settleTimer := .stopped, clearTimer := clear }) fun _ => rfl) _)
      unfold Part.stopping
      rw [modLane_notify, modLane_modLane]
      rfl
    · have hne : v.state ≠ .exiting := by
        rw [h]
        decide
      exact runStop (hstop.trans ((if_neg hne).trans (abortVisit_clearing hFv h _))) hFs
  · intro b c hmoved hreach
    have hswitch := switchChange_running hs hr l e up down
    set q := s.toPart.modEnd l e fun x =>
      { x with barrier := x.barrier.switched up down (s.toPart.wanted l e) (s.toPart.moveLimit l) } with hq
    obtain ⟨t, hexec, -, -, hcloses⟩ := endsAs_run (.barrierSwitchChange l e up down) s (fun p => p.switchChange l e up down) q
      rfl hswitch (settled_modEnd hs l e _)
    have hend : (q.laneEnd l e).barrier.failed = false := by
      rw [hq, laneEnd_modEnd_self]
      show (b.failed && !decide (c.position ≠ b.position ∧
        (s.toPart.wanted l e = .raise ∧ c.position = .up ∨ s.toPart.wanted l e = .lower ∧ c.position = .down))) = false
      rw [decide_eq_true ⟨hmoved, hreach⟩]
      exact Bool.and_false _
    have hother : (q.laneEnd l e.other).barrier.failed = false := by
      rw [hq, laneEnd_modEnd, if_neg fun k => other_ne e k.2]
      exact hf
    have hlane := lane_modEnd_self s.toPart l e fun x =>
      { x with barrier := x.barrier.switched up down (s.toPart.wanted l e) (s.toPart.moveLimit l) }
    have hcloses' := barrierLeaves_closes (p := q) (l := l) (barriersWell_of hend hother) ((congrArg Lane.state hlane).trans hst)
      ((visit_modEnd ..).trans hv) ((congrArg Lane.causes hlane).trans hc)
    have hboth := (barrierLeaves_both (p := q) (l := l) (by
      rw [hq, show (s.toPart.modEnd l e _).lane l.other = s.toPart.lane l.other from lane_modLane_other ..]
      exact ho)).trans hcloses'
    have hstate := hcloses.state l
    have hframes := hcloses.frames
    rw [hboth] at hstate hframes
    have hshut := lane_modLane_self q l fun y => { y with
      causes := .empty, state := .closed, blocks := { y.blocks with closeRequested := false } }
    obtain ⟨hs', hc', hb'⟩ := hstate
    refine ⟨t, hexec, ?_, ?_, ?_, ?_, ?_⟩
    · rw [hcloses.ends]
      exact hend
    · exact hs'.trans (congrArg Lane.state hshut)
    · exact hc'.trans (congrArg Lane.causes hshut)
    · refine hb'.trans ((congrArg Lane.blocks hshut).trans ?_)
      rw [hlane]
    · exact hframes.1

end Sys2Proof.Machine
end


section
/-! PROOFS. Step weights, scaled weights, groups and verdicts, as list functions (R87-R92). -/

namespace Sys2Proof.Machine

/-! ## Step weights and scaled weights (R87, R88) -/

theorem length_stepWeights (totals : List Int) (captured : Int) :
    (stepWeights totals captured).length = totals.length := by
  unfold stepWeights
  rw [List.length_zipWith, List.length_append, List.length_drop, List.length_singleton]
  omega

/-- The totals after the first, with the captured one after the last. -/
theorem next_total {totals : List Int} (captured : Int) {i : Nat} (h : i < totals.length) :
    (totals.drop 1 ++ [captured])[i]? = some ((totals[i + 1]?).getD captured) := by
  by_cases hn : i + 1 < totals.length
  · rw [List.getElem?_append_left (by rw [List.length_drop]; omega), List.getElem?_drop, Nat.add_comm 1 i,
      List.getElem?_eq_getElem hn]
    rfl
  · have hi : i = (totals.drop 1).length := by
      rw [List.length_drop]
      omega
    rw [List.getElem?_eq_none (Nat.le_of_not_lt hn), hi, List.getElem?_concat_length]
    rfl

theorem stepWeights_get {totals : List Int} (captured : Int) {i : Nat} {t : Int} (h : totals[i]? = some t) :
    (stepWeights totals captured)[i]? = some ((totals[i + 1]?).getD captured - t) := by
  obtain ⟨hi, -⟩ := List.getElem?_eq_some_iff.mp h
  unfold stepWeights
  rw [List.getElem?_zipWith, h, next_total captured hi]

theorem sum_addToLast (r : Int) {ws : List Int} (h : ws ≠ []) : (addToLast r ws).sum = ws.sum + r := by
  induction ws with
  | nil => exact absurd rfl h
  | cons x xs ih =>
    cases xs with
    | nil => simp [addToLast]
    | cons y ys =>
      show x + (addToLast r (y :: ys)).sum = _
      rw [ih (List.cons_ne_nil y ys), List.sum_cons, List.sum_cons, List.sum_cons]
      omega

theorem length_addToLast (r : Int) (ws : List Int) : (addToLast r ws).length = ws.length := by
  induction ws with
  | nil => rfl
  | cons x xs ih =>
    cases xs with
    | nil => rfl
    | cons y ys => exact congrArg (· + 1) ih

theorem addToLast_get (r : Int) {ws : List Int} {i : Nat} {w : Int} (h : ws[i]? = some w) :
    (addToLast r ws)[i]? = some (if i + 1 = ws.length then w + r else w) := by
  induction ws generalizing i with
  | nil => simp at h
  | cons x xs ih =>
    cases xs with
    | nil =>
      cases i with
      | zero =>
        obtain rfl : x = w := by simpa using h
        rfl
      | succ j => simp at h
    | cons y ys =>
      cases i with
      | zero =>
        obtain rfl : x = w := by simpa using h
        rfl
      | succ j =>
        show (addToLast r (y :: ys))[j]? = _
        rw [ih (i := j) (by simpa using h)]
        simp

/-! ## Sums by group number -/

/-- The values of the pairs whose first part is `g`. -/
def valuesOf {M : Type} (zs : List (Nat × M)) (g : Nat) : List M := (zs.filter fun x => x.1 == g).map (·.2)

theorem sum_valuesOf_cons {M : Type} [AddCommMonoid M] (z : Nat × M) (zs : List (Nat × M)) (g : Nat) :
    (valuesOf (z :: zs) g).sum = (if z.1 = g then z.2 else 0) + (valuesOf zs g).sum := by
  unfold valuesOf
  by_cases h : z.1 = g
  · simp [h]
  · simp [h]

/-- One number of a range carries a value, and the sum over the range is that value. -/
theorem sum_range_single {M : Type} [AddCommMonoid M] {k x : Nat} (hx : 1 ≤ x) (hk : x ≤ k) (m : M) :
    ((List.range k).map fun g => if x = g + 1 then m else 0).sum = m := by
  obtain ⟨y, rfl⟩ := Nat.exists_eq_add_of_le' hx
  have hsum := Finset.sum_ite_eq (Finset.range k) y fun _ => m
  rw [if_pos (Finset.mem_range.mpr hk)] at hsum
  simp only [Nat.add_right_cancel_iff]
  exact hsum

/-- Pairs whose numbers all lie in 1 to `k`, summed number by number, give the sum of all values. -/
theorem sum_by_number {M : Type} [AddCommMonoid M] {k : Nat} {zs : List (Nat × M)} (h : ∀ z ∈ zs, 1 ≤ z.1 ∧ z.1 ≤ k) :
    ((List.range k).map fun g => (valuesOf zs (g + 1)).sum).sum = (zs.map (·.2)).sum := by
  induction zs with
  | nil => simp [valuesOf]
  | cons z zs ih =>
    have hz := h z List.mem_cons_self
    simp only [sum_valuesOf_cons]
    rw [List.sum_map_add, sum_range_single hz.1 hz.2, ih fun y hy => h y (List.mem_cons_of_mem z hy), List.map_cons,
      List.sum_cons]

theorem count_eq_sum (gs : List Nat) (g : Nat) : gs.count g = (valuesOf (gs.map fun x => (x, 1)) g).sum := by
  induction gs with
  | nil => rfl
  | cons x xs ih =>
    rw [List.map_cons, sum_valuesOf_cons, ← ih, List.count_cons, Nat.add_comm]
    simp

/-! ## The largest value of a list -/

section
variable {K : Type} [LinearOrder K]

theorem foldl_max_ge (xs : List K) (a : K) : a ≤ xs.foldl max a ∧ ∀ x ∈ xs, x ≤ xs.foldl max a := by
  induction xs generalizing a with
  | nil => exact ⟨le_refl a, fun x hx => absurd hx List.not_mem_nil⟩
  | cons y ys ih =>
    obtain ⟨hle, hall⟩ := ih (max a y)
    refine ⟨(le_max_left a y).trans hle, fun x hx => ?_⟩
    rcases List.mem_cons.mp hx with rfl | hx
    · exact (le_max_right a x).trans hle
    · exact hall x hx

theorem foldl_max_mem (xs : List K) (a : K) : xs.foldl max a = a ∨ xs.foldl max a ∈ xs := by
  induction xs generalizing a with
  | nil => exact .inl rfl
  | cons y ys ih =>
    rcases ih (max a y) with h | h
    · rcases max_choice a y with k | k
      · exact .inl (h.trans k)
      · exact .inr (List.mem_cons.mpr (.inl (h.trans k)))
    · exact .inr (List.mem_cons_of_mem y h)

end

/-! ## Groups (R89) -/

theorem le_groupCount {gs : List Nat} {x : Nat} (h : x ∈ gs) : x ≤ groupCount gs := (foldl_max_ge gs 0).2 x h

theorem groupCount_mem {gs : List Nat} (h : 1 ≤ groupCount gs) : groupCount gs ∈ gs :=
  (foldl_max_mem gs 0).resolve_left (Nat.ne_of_gt h)

section
variable {gap : Nat}

theorem length_groupsFrom (ss : List (Option Nat)) (g n : Nat) : (groupsFrom gap g n ss).length = ss.length := by
  induction ss generalizing g n with
  | nil => rfl
  | cons s ss ih =>
    cases s with
    | none => exact congrArg (· + 1) (ih ..)
    | some d =>
      unfold groupsFrom
      dsimp only
      split
      · exact congrArg (· + 1) (ih ..)
      · exact congrArg (· + 1) (ih ..)

/-- The axle joins the group before it. -/
def joins (gap n : Nat) (s : Option Nat) : Prop := (∃ y, s = some y ∧ y ≤ gap) ∧ n < 4

theorem groupsFrom_joins {s : Option Nat} {n : Nat} (h : joins gap n s) (g : Nat) (ss : List (Option Nat)) :
    groupsFrom gap g n (s :: ss) = g :: groupsFrom gap g (n + 1) ss := by
  obtain ⟨⟨y, rfl, hy⟩, hn⟩ := h
  exact if_pos ⟨hy, hn⟩

theorem groupsFrom_parts {s : Option Nat} {n : Nat} (h : ¬ joins gap n s) (g : Nat) (ss : List (Option Nat)) :
    groupsFrom gap g n (s :: ss) = (g + 1) :: groupsFrom gap (g + 1) 1 ss := by
  cases s with
  | none => rfl
  | some y =>
    exact if_neg fun (k : y ≤ gap ∧ n < 4) => h ⟨⟨y, rfl, k.1⟩, k.2⟩

theorem le_of_mem_groupsFrom {ss : List (Option Nat)} {g n x : Nat} (h : x ∈ groupsFrom gap g n ss) : g ≤ x := by
  induction ss generalizing g n with
  | nil => simp [groupsFrom] at h
  | cons s ss ih =>
    by_cases hj : joins gap n s
    · rw [groupsFrom_joins hj] at h
      rcases List.mem_cons.mp h with rfl | h
      · exact Nat.le_refl _
      · exact ih h
    · rw [groupsFrom_parts hj] at h
      rcases List.mem_cons.mp h with rfl | h
      · exact Nat.le_succ g
      · exact Nat.le_of_succ_le (ih h)

/-- No group number is left out. -/
theorem mem_groupsFrom_between {ss : List (Option Nat)} {g n x y : Nat} (h : x ∈ groupsFrom gap g n ss) (hg : g < y)
    (hy : y ≤ x) : y ∈ groupsFrom gap g n ss := by
  induction ss generalizing g n with
  | nil => simp [groupsFrom] at h
  | cons s ss ih =>
    by_cases hj : joins gap n s
    · rw [groupsFrom_joins hj] at h ⊢
      rcases List.mem_cons.mp h with rfl | h
      · exact absurd hy (Nat.not_le.mpr hg)
      · exact List.mem_cons_of_mem g (ih h hg)
    · rw [groupsFrom_parts hj] at h ⊢
      by_cases hn : y = g + 1
      · exact hn ▸ List.mem_cons_self
      · rcases List.mem_cons.mp h with rfl | h
        · omega
        · exact List.mem_cons_of_mem _ (ih h (by omega))

/-- A group holds at most four axles; the group in the making holds `n` already. -/
theorem count_groupsFrom (ss : List (Option Nat)) {g n : Nat} (hn : 1 ≤ n ∧ n ≤ 4) (y : Nat) :
    (groupsFrom gap g n ss).count y + (if y = g then n else 0) ≤ 4 := by
  induction ss generalizing g n with
  | nil =>
    show 0 + _ ≤ 4
    split
    · omega
    · omega
  | cons s ss ih =>
    by_cases hj : joins gap n s
    · have := ih (g := g) (n := n + 1) ⟨Nat.le_add_left 1 n, hj.2⟩
      rw [groupsFrom_joins hj, List.count_cons]
      by_cases hy : y = g
      · subst hy
        simp only [beq_self_eq_true, if_true] at this ⊢
        omega
      · simpa [hy, Ne.symm hy] using this
    · have := ih (g := g + 1) (n := 1) ⟨Nat.le_refl 1, by decide⟩
      rw [groupsFrom_parts hj, List.count_cons]
      by_cases hy : y = g
      · have hnone : (groupsFrom gap (g + 1) 1 ss).count y = 0 :=
          List.count_eq_zero.mpr fun hm => absurd (le_of_mem_groupsFrom hm) (by omega)
        subst hy
        rw [hnone]
        simpa using hn.2
      · by_cases hy' : y = g + 1
        · subst hy'
          simpa using this
        · simpa [hy, hy', Ne.symm hy'] using this

/-- The group of an axle, from the axle before it and the groups before. -/
theorem groupsFrom_next {ss : List (Option Nat)} (pre : List Nat) {g n : Nat} (hle : ∀ x ∈ pre, x ≤ g)
    (hn : (pre ++ [g]).count g = n) {i h : Nat} {x : Option Nat} :
    let groups := pre ++ g :: groupsFrom gap g n ss
    groups[pre.length + i]? = some h → ss[i]? = some x →
      groups[pre.length + i + 1]? = some (if (∃ y, x = some y ∧ y ≤ gap) ∧ (groups.take (pre.length + i + 1)).count h < 4
        then h else h + 1) := by
  intro groups hh hx
  induction ss generalizing pre g n i with
  | nil => simp at hx
  | cons s ss ih =>
    cases i with
    | zero =>
      obtain rfl : s = x := by simpa using hx
      obtain rfl : g = h := by simpa [groups] using hh
      have htake : groups.take (pre.length + 0 + 1) = pre ++ [g] := by
        simp [groups, List.take_append]
      rw [htake, hn]
      by_cases hj : joins gap n s
      · rw [if_pos (show (∃ y, s = some y ∧ y ≤ gap) ∧ n < 4 from hj)]
        simp [groups, groupsFrom_joins hj]
      · rw [if_neg (show ¬ ((∃ y, s = some y ∧ y ≤ gap) ∧ n < 4) from hj)]
        simp [groups, groupsFrom_parts hj]
    | succ i =>
      have hlen : (pre ++ [g]).length + i = pre.length + (i + 1) := by simp; omega
      have hx' : ss[i]? = some x := by simpa using hx
      by_cases hj : joins gap n s
      · have hgroups : groups = (pre ++ [g]) ++ g :: groupsFrom gap g (n + 1) ss := by
          simp [groups, groupsFrom_joins hj]
        rw [hgroups, ← hlen] at hh ⊢
        refine ih (pre ++ [g]) ?_ ?_ hh hx'
        · intro y hy
          rcases List.mem_append.mp hy with hy | hy
          · exact hle y hy
          · exact (List.mem_singleton.mp hy).le
        · rw [List.count_append, hn]
          simp
      · have hgroups : groups = (pre ++ [g]) ++ (g + 1) :: groupsFrom gap (g + 1) 1 ss := by
          simp [groups, groupsFrom_parts hj]
        rw [hgroups, ← hlen] at hh ⊢
        have hle' : ∀ y ∈ pre ++ [g], y ≤ g := by
          intro y hy
          rcases List.mem_append.mp hy with hy | hy
          · exact hle y hy
          · exact (List.mem_singleton.mp hy).le
        refine ih (pre ++ [g]) (fun y hy => Nat.le_succ_of_le (hle' y hy)) ?_ hh hx'
        rw [List.count_append, List.count_eq_zero.mpr fun hm => absurd (hle' _ hm) (by omega)]
        simp

/-! ### All axles -/

theorem length_groupNumbers (ss : List (Option Nat)) : (groupNumbers gap ss).length = ss.length := by
  cases ss with
  | nil => rfl
  | cons s ss => exact congrArg (· + 1) (length_groupsFrom ss 1 1)

theorem groupNumbers_pos {ss : List (Option Nat)} {x : Nat} (h : x ∈ groupNumbers gap ss) : 1 ≤ x := by
  cases ss with
  | nil => simp [groupNumbers] at h
  | cons s ss =>
    rcases List.mem_cons.mp h with rfl | h
    · exact Nat.le_refl 1
    · exact le_of_mem_groupsFrom h

theorem count_groupNumbers_le (ss : List (Option Nat)) (y : Nat) : (groupNumbers gap ss).count y ≤ 4 := by
  cases ss with
  | nil => exact Nat.zero_le 4
  | cons s ss =>
    have := count_groupsFrom (gap := gap) ss (g := 1) (n := 1) ⟨Nat.le_refl 1, by decide⟩ y
    show (1 :: groupsFrom gap 1 1 ss).count y ≤ 4
    rw [List.count_cons]
    by_cases hy : y = 1
    · simpa [hy] using this
    · simpa [hy, Ne.symm hy] using this

/-- Every number from 1 to the last group's has an axle. -/
theorem mem_groupNumbers {ss : List (Option Nat)} {y : Nat} (h : 1 ≤ y) (hy : y ≤ groupCount (groupNumbers gap ss)) :
    y ∈ groupNumbers gap ss := by
  have hm := groupCount_mem (Nat.le_trans h hy)
  generalize groupCount (groupNumbers gap ss) = k at hm hy
  cases ss with
  | nil => simp [groupNumbers] at hm
  | cons s ss =>
    by_cases h1 : y = 1
    · exact h1 ▸ List.mem_cons_self
    · rcases List.mem_cons.mp hm with rfl | hm
      · omega
      · exact List.mem_cons_of_mem 1 (mem_groupsFrom_between hm (by omega) hy)

theorem groupNumbers_next {ss : List (Option Nat)} {i g : Nat} {x : Option Nat} (h : (groupNumbers gap ss)[i]? = some g)
    (hx : ss[i + 1]? = some x) : (groupNumbers gap ss)[i + 1]? =
      some (if (∃ y, x = some y ∧ y ≤ gap) ∧ ((groupNumbers gap ss).take (i + 1)).count g < 4 then g else g + 1) := by
  cases ss with
  | nil => simp at hx
  | cons s ss =>
    have := groupsFrom_next (gap := gap) (ss := ss) (g := 1) (n := 1) (i := i) (h := g) (x := x) [] (by simp) (by simp)
    simp only [List.length_nil, Nat.zero_add, List.nil_append] at this
    exact this h (by simpa using hx)

end

/-! ## The group pattern and the group masses -/

theorem groupPattern_get {gs : List Nat} {g : Nat} (h : g < (groupPattern gs).length) :
    (groupPattern gs)[g]? = some (gs.count (g + 1)) := by
  unfold groupPattern at h ⊢
  rw [List.length_map, List.length_range] at h
  simp [h]

theorem length_groupPattern (gs : List Nat) : (groupPattern gs).length = groupCount gs := by
  unfold groupPattern
  rw [List.length_map, List.length_range]

theorem sum_groupPattern {gs : List Nat} (h : ∀ x ∈ gs, 1 ≤ x) : (groupPattern gs).sum = gs.length := by
  unfold groupPattern
  simp only [count_eq_sum]
  rw [sum_by_number fun z hz => ?_]
  · simp [Function.comp_def]
  · obtain ⟨x, hx, rfl⟩ := List.mem_map.mp hz
    exact ⟨h x hx, le_groupCount hx⟩

theorem sum_groupMasses {gs : List Nat} {scaled : List Int} (h : ∀ x ∈ gs, 1 ≤ x) (hl : scaled.length = gs.length) :
    (groupMasses gs scaled).sum = scaled.sum := by
  have hsum := sum_by_number (k := groupCount gs) (zs := gs.zip scaled) fun z hz => by
    have hm := (List.of_mem_zip (a := z.1) (b := z.2) hz).1
    exact ⟨h _ hm, le_groupCount hm⟩
  rw [List.map_snd_zip hl.le] at hsum
  exact hsum

/-- A group's mass, axle by axle. -/
theorem sum_valuesOf_zip {gs : List Nat} {scaled : List Int} (h : gs.length = scaled.length) (g : Nat) :
    (valuesOf (gs.zip scaled) g).sum =
      ((List.range gs.length).map fun i => if gs[i]? = some g then scaled.getD i 0 else 0).sum := by
  induction gs generalizing scaled with
  | nil => rfl
  | cons x xs ih =>
    cases scaled with
    | nil => simp at h
    | cons w ws =>
      rw [List.zip_cons_cons, sum_valuesOf_cons, ih (by simpa using h), List.length_cons, List.range_succ_eq_map,
        List.map_cons, List.sum_cons, List.map_map]
      simp [Function.comp_def]

theorem groupMasses_get {gs : List Nat} {scaled : List Int} (hl : gs.length = scaled.length) {g : Nat}
    (h : g < (groupPattern gs).length) : (groupMasses gs scaled)[g]? = some ((List.range gs.length).map fun i =>
      if gs[i]? = some (g + 1) then scaled.getD i 0 else 0).sum := by
  rw [length_groupPattern] at h
  rw [← sum_valuesOf_zip hl]
  unfold groupMasses
  rw [List.getElem?_map, List.getElem?_range h]
  rfl

/-! ## The verdict against a class (R91) -/

theorem mem_overGroups {masses : List Int} {limits : List Nat} (h : limits.length = masses.length) {g : Nat} :
    g ∈ overGroups masses limits ↔
      ∃ i, g = i + 1 ∧ ∃ m k, masses[i]? = some m ∧ limits[i]? = some k ∧ (k : Int) < m := by
  unfold overGroups
  simp only [List.mem_map, List.mem_filter, List.mem_range, decide_eq_true_eq]
  constructor
  · rintro ⟨i, ⟨hi, hlt⟩, rfl⟩
    have hk : i < limits.length := h ▸ hi
    refine ⟨i, rfl, masses[i], limits[i], List.getElem?_eq_getElem hi, List.getElem?_eq_getElem hk, ?_⟩
    simpa [List.getD, hi, hk] using hlt
  · rintro ⟨i, rfl, m, k, hm, hk, hlt⟩
    refine ⟨i, ⟨(List.getElem?_eq_some_iff.mp hm).1, ?_⟩, rfl⟩
    simpa [List.getD, hm, hk] using hlt

theorem overGroups_ascending (masses : List Int) (limits : List Nat) : (overGroups masses limits).Pairwise (· < ·) := by
  unfold overGroups
  exact (List.pairwise_lt_range.filter _).map _ fun a b h => Nat.succ_lt_succ h

/-- Settles O39, by induction on the axles' spacings and on the axles. -/
theorem weightsGroupsAndVerdict : Obligations.WeightsGroupsAndVerdict := by
  refine ⟨fun totals captured => ⟨length_stepWeights totals captured, fun i t => stepWeights_get captured⟩,
    fun steps gross hne => ?_, fun gap ss => ?_, fun gs scaled hl => ?_, fun gap ss scaled hl => ?_, fun _ _ _ _ => ?_,
    fun overflow pattern masses gross c hl => ?_⟩
  · have hmap : steps.map (fun w => roundHalfAway (w * gross) steps.sum) ≠ [] := fun k => hne (List.map_eq_nil_iff.mp k)
    refine ⟨?_, ?_, fun i w hw => ?_⟩
    · exact (sum_addToLast _ hmap).trans (add_sub_cancel ..)
    · exact (length_addToLast ..).trans (List.length_map _)
    · refine (addToLast_get _ (by rw [List.getElem?_map, hw]; rfl)).trans ?_
      rw [List.length_map]
  · refine ⟨length_groupNumbers ss, ?_, fun n hn => ?_, fun hne => ?_, fun i g x => groupNumbers_next⟩
    · rw [sum_groupPattern fun x => groupNumbers_pos, length_groupNumbers]
    · obtain ⟨g, hg, rfl⟩ := List.mem_map.mp hn
      have := mem_groupNumbers (gap := gap) (ss := ss) (Nat.le_add_left 1 g) (List.mem_range.mp hg)
      exact ⟨List.count_pos_iff.mpr this, count_groupNumbers_le ss _⟩
    · obtain ⟨s, t, rfl⟩ := List.exists_cons_of_ne_nil hne
      rfl
  · refine ⟨?_, fun g hg _ => ?_, fun g hg => ⟨groupPattern_get hg, groupMasses_get hl hg⟩⟩
    · unfold groupMasses groupPattern
      rw [List.length_map, List.length_map]
    · rw [length_groupPattern]
      exact le_groupCount hg
  · exact sum_groupMasses (fun x => groupNumbers_pos) (hl.trans (length_groupNumbers ss).symm)
  · unfold verdictOf
    simp
  · intro v
    have hv : v.overGroups = overGroups masses c.limits ∧ v.overGross = decide ((c.gross : Int) < gross) ∧
      v.kind = if overGroups masses c.limits ≠ [] ∨ decide ((c.gross : Int) < gross) = true then .over else .compliant :=
      ⟨rfl, rfl, rfl⟩
    obtain ⟨hgroups, hgross, hkind⟩ := hv
    rw [hgroups, hgross, hkind]
    refine ⟨fun g => mem_overGroups hl, overGroups_ascending masses c.limits, decide_eq_true_iff, ?_, ?_, rfl, rfl, rfl, rfl,
      rfl⟩
    · by_cases h : overGroups masses c.limits ≠ [] ∨ decide ((c.gross : Int) < gross) = true
      · rw [if_pos h]
        exact iff_of_true rfl h
      · rw [if_neg h]
        exact iff_of_false (by decide) h
    · by_cases h : overGroups masses c.limits ≠ [] ∨ decide ((c.gross : Int) < gross) = true
      · rw [if_pos h]
        exact iff_of_false (by decide) fun k => h.elim (· k.1) (ne_true_of_eq_false k.2)
      · rw [if_neg h]
        obtain ⟨hgroups, hgross⟩ := not_or.mp h
        exact iff_of_true rfl ⟨not_not.mp hgroups, Bool.eq_false_of_not_eq_true hgross⟩

end Sys2Proof.Machine
end


section
/-! PROOFS. CAL_WRITE and ZERO_SET: their rows, and the calibration write that an accepted one starts (R16, R153-R156). -/

namespace Sys2Proof.Machine

section
variable {p : Part} {corr : U16} {d : DeckId} {y : Session}

/-! ## The ACTIVE session -/

theorem active_of (h : p.audit.session = some y) (ho : y.atOpen ≠ none) : p.active = some y := by
  unfold Part.active
  rw [h]
  exact if_pos (Option.isSome_iff_ne_none.mpr ho)

theorem active_none (h : ∀ y, p.audit.session = some y → y.atOpen = none) : p.active = none := by
  unfold Part.active
  cases hx : p.audit.session with
  | none => rfl
  | some y =>
    refine if_neg ?_
    rw [h y hx]
    exact Bool.false_ne_true

theorem auditBusy_of (h : y.inFlight ≠ none ∨ p.audit.calWrite ≠ none) : p.auditBusy y = true := by
  unfold Part.auditBusy
  rw [Bool.or_eq_true, Option.isSome_iff_ne_none, Option.isSome_iff_ne_none]
  exact h

theorem auditBusy_idle (h : y.inFlight = none) (hw : p.audit.calWrite = none) : ¬ p.auditBusy y = true := by
  unfold Part.auditBusy
  rw [h, hw]
  exact Bool.false_ne_true

theorem readEntry_sound (h : ∀ k, (p.deck d).cal = some k → k.damaged = true ∨ k.parityOk = true) : p.readEntry d = p := by
  unfold Part.readEntry
  cases hc : (p.deck d).cal with
  | none => rfl
  | some k =>
    refine if_pos ?_
    rw [Bool.or_eq_true]
    exact h k hc

/-! ## The trail, staging and store rows (R153, R156) -/

theorem writeRefusal_eq (p : Part) : p.writeRefusal =
    if p.audit.trail.free ≤ 32 ∨ 4294967295 < p.audit.trail.nextSeq then some .trailFull
    else if 16 ≤ p.audit.trail.staging.length ∨ 15 ≤ p.audit.trail.staging.length ∧ 0 < p.audit.trail.gap then some .busy
    else if p.store.fault = true then some .storeFault
    else if p.store.hold = .held then some .storeHeld
    else none := by
  unfold Part.writeRefusal Part.trailRefusal
  dsimp only
  by_cases hfull : p.audit.trail.free ≤ 32 ∨ 4294967295 < p.audit.trail.nextSeq
  · rw [if_pos hfull, if_pos hfull]
  · rw [if_neg hfull, if_neg hfull]
    by_cases hbusy : 16 ≤ p.audit.trail.staging.length ∨ 15 ≤ p.audit.trail.staging.length ∧ 0 < p.audit.trail.gap
    · rw [if_pos hbusy, if_pos hbusy]
    · rw [if_neg hbusy, if_neg hbusy]

/-! ## A calibration write starts (R154) -/

theorem settled_startCalWrite (h : p.settingsSettled) (w : CalWrite) (b : TrailBody) : (p.startCalWrite w b).settingsSettled :=
  settled_handTrail (p := p.modAudit fun a => { a with calWrite := some w }) (settled_of h rfl rfl rfl) _ _

/-- All that a calibration write changes as it starts. -/
theorem startCalWrite_facts (p : Part) (w : CalWrite) (b : TrailBody) :
    let q := p.startCalWrite w b
    q = { p with lanes := q.lanes, audit := { p.audit with calWrite := some w, trail := p.handed (some w.deck) b } } ∧
      ∀ l, sameButTrailFull (p.lane l) (q.lane l) := by
  obtain ⟨hrest, hlanes⟩ := handTrail_facts (p.modAudit fun a => { a with calWrite := some w }) (some w.deck) b
  exact ⟨hrest, hlanes⟩

/-- An accepted CAL_WRITE of a deck whose entry does not fail its check. -/
theorem acceptCalWrite_starts (hread : p.readEntry y.deck = p) (corr : U16) (e : CalEntry) : ∃ old fresh,
    (∀ i, p.image y.deck = some i → old = i.crc) ∧
      p.acceptCalWrite corr y e = ({ p with fresh := fresh } : Part).startCalWrite
        ⟨corr, y.deck, .entry e, (p.deck y.deck).counter + 1, .trail⟩ (.calChange old
          (⟨y.deck, e, (p.deck y.deck).counter + 1, (p.deck y.deck).persisted, some (y.writes + 1)⟩ : CalImage).crc
          ((p.deck y.deck).counter + 1)) := by
  unfold Part.acceptCalWrite
  rw [hread]
  dsimp only
  cases hi : p.image y.deck with
  | none =>
    refine ⟨_, p.fresh + 1, ⟨?_, rfl⟩⟩
    intro i hi
    exact absurd hi (by simp)
  | some i =>
    refine ⟨i.crc, p.fresh, fun j hj => ?_, rfl⟩
    rw [Option.some.inj hj]

/-! ## The rows of CAL_WRITE (R153) -/

section
variable {deck : Byte} {entry : List Byte}

theorem calWrite_noSession (hd : deckTarget deck = some d)
    (h : ∀ y, p.audit.session = some y → y.atOpen = none ∨ y.deck ≠ d) :
    p.calWrite corr deck entry = p.refuse corr .calWrite .noSession := by
  unfold Part.calWrite
  rw [hd]
  dsimp only
  by_cases hopen : ∃ y, p.audit.session = some y ∧ y.atOpen ≠ none
  · obtain ⟨y, hy, ho⟩ := hopen
    rw [active_of hy ho]
    exact if_pos ((h y hy).resolve_left ho)
  · rw [active_none fun y hy => not_not.mp fun ho => hopen ⟨y, hy, ho⟩]

/-- The rows of CAL_WRITE for the ACTIVE session's deck. -/
theorem calWrite_eq (hd : deckTarget deck = some d) (hy : p.active = some y) (hyd : y.deck = d) :
    p.calWrite corr deck entry =
      if p.auditBusy y then p.refuse corr .calWrite .busy
      else if p.calEn = false then p.refuse corr .calWrite .switchOpen
      else
        match parseCalEntry (entry.take 15) (entry.drop 15) with
        | none => p.refuse corr .calWrite .badValue
        | some e =>
          if counterLimit ≤ (p.deck d).counter then p.refuse corr .calWrite .wrongState
          else
            match p.writeRefusal with
            | some r => p.refuse corr .calWrite r
            | none => p.acceptCalWrite corr y e := by
  unfold Part.calWrite
  rw [hd, hy]
  dsimp only
  rw [if_neg (not_not.mpr hyd)] <;> rfl

/-- A CAL_WRITE that reaches its value rows. -/
theorem calWrite_judged (hd : deckTarget deck = some d) (hy : p.active = some y) (hyd : y.deck = d)
    (hb : ¬ p.auditBusy y = true) (hen : p.calEn = true) {e : CalEntry}
    (he : parseCalEntry (entry.take 15) (entry.drop 15) = some e) :
    (4294967295 ≤ (p.deck d).counter → p.calWrite corr deck entry = p.refuse corr .calWrite .wrongState) ∧
    ((p.deck d).counter < 4294967295 →
      (∀ r, p.writeRefusal = some r → p.calWrite corr deck entry = p.refuse corr .calWrite r) ∧
      (p.writeRefusal = none → p.calWrite corr deck entry = p.acceptCalWrite corr y e)) := by
  have hrow := calWrite_eq (corr := corr) (entry := entry) hd hy hyd
  rw [if_neg hb, if_neg (by rw [hen]; decide), he] at hrow
  dsimp only at hrow
  refine ⟨fun h => hrow.trans (if_pos h), fun h => ?_⟩
  rw [if_neg (show ¬ counterLimit ≤ (p.deck d).counter from Nat.not_le.mpr h)] at hrow
  refine ⟨fun r hr => ?_, fun hr => ?_⟩
  · rw [hr] at hrow
    exact hrow
  · rw [hr] at hrow
    exact hrow

end

/-! ## The rows of ZERO_SET (R16, R156) -/

theorem inZeroRange_iff (k : CalEntry) (f : Int) :
    k.inZeroRange f = true ↔ 100 * |f - 1000 * k.zcal| ≤ k.zeroRange * (1000 * k.capacity) := by
  unfold CalEntry.inZeroRange
  rw [decide_eq_true_iff, Int.abs_eq_natAbs]
  have hprod : (k.zeroRange : Int) * (1000 * k.capacity) = ((1000 * (k.zeroRange * k.capacity) : Nat) : Int) := by
    push_cast
    ring
  have hlimit : k.zeroRange * k.capacity * 10 = 10 * (k.zeroRange * k.capacity) := Nat.mul_comm ..
  rw [hprod, hlimit]
  generalize k.zeroRange * k.capacity = c
  generalize (f - 1000 * k.zcal).natAbs = m
  omega

theorem withZero_good {k : CalEntry} {w : Published} (hcal : (p.deck d).cal = some ⟨k, true, false⟩)
    (hw : (p.deck d).published = some w) (f : Part → CalEntry → Int → Part) : p.withZero corr d f = f p k w.filtered := by
  unfold Part.withZero Deck.entry
  rw [readEntry_good hcal]
  dsimp only
  rw [hcal, hw]
  rfl

section
variable {deck : Byte}

theorem zeroSet_eq (hd : deckTarget deck = some d) : p.zeroSet corr deck =
    if (p.deck d).service = .audit then p.auditZeroSet corr d
    else if (p.deck d).service = .trade then p.tradeZeroSet corr d
    else p.refuse corr .zeroSet .wrongState := by
  unfold Part.zeroSet
  rw [hd]
  dsimp only
  cases (p.deck d).service with
  | audit => rfl
  | trade => rfl
  | fault => rfl
  | suspended => rfl

theorem auditZeroSet_eq (hy : p.active = some y) : p.auditZeroSet corr d =
    if p.auditBusy y then p.refuse corr .zeroSet .busy
    else if (p.deck d).status ≠ .stable then p.refuse corr .zeroSet .wrongState
    else if counterLimit ≤ (p.deck d).counter then p.refuse corr .zeroSet .wrongState
    else p.withZero corr d fun q c f => q.judgeZcal corr d c (newZcal f) := by
  unfold Part.auditZeroSet
  rw [hy]

/-- The new Zcal of an audit zero set is judged against the capacity, and then the trail and store rows. -/
theorem judgeZcal_eq (k : CalEntry) (z : Int) :
    ((k.capacity : Int) < |z| → p.judgeZcal corr d k z = p.refuse corr .zeroSet .badValue) ∧
    (|z| ≤ k.capacity →
      (∀ r, p.writeRefusal = some r → p.judgeZcal corr d k z = p.refuse corr .zeroSet r) ∧
      (p.writeRefusal = none → p.judgeZcal corr d k z = p.startCalWrite
        ⟨corr, d, .zero z, (p.deck d).counter + 1, .trail⟩ (.zeroSet k.zcal z ((p.deck d).counter + 1)))) := by
  unfold Part.judgeZcal
  rw [Int.abs_eq_natAbs]
  refine ⟨fun h => if_pos (Int.ofNat_lt.mp h), fun h => ?_⟩
  rw [if_neg (Nat.not_lt.mpr (Int.ofNat_le.mp h))]
  refine ⟨fun r hr => ?_, fun hr => ?_⟩
  · rw [hr]
  · rw [hr]

end

end

/-- Settles O47, by the rows of CAL_WRITE and of ZERO_SET in their order. -/
theorem calibrationRequests : Obligations.CalibrationRequests := by
  unfold Obligations.CalibrationRequests
  intro corr deck d s hs ht hdeck x t barred
  have hd : deckTarget deck = some d := deckTarget_of hdeck
  refine ⟨fun entry calEn => ?_, fun k hcal => ?_⟩
  · intro c p refused
    have hps : p.settingsSettled := settled_of (settled_admitted hs corr .calWrite 0) rfl rfl rfl
    have refuses {r : Reason} (h : p.calWrite corr deck entry = p.refuse corr .calWrite r) : refused r :=
      calWrite_endsAs ht h (settled_refuse hps ..)
    refine ⟨fun h => refuses (calWrite_noSession hd h), fun y hy ho hyd => ?_⟩
    have hact : p.active = some y := active_of hy ho
    have hrows := calWrite_eq (corr := corr) (entry := entry) hd hact hyd
    refine ⟨fun h => refuses (hrows.trans (if_pos (auditBusy_of h))), fun hi hw => ?_⟩
    have hidle : ¬ p.auditBusy y = true := auditBusy_idle hi hw
    refine ⟨fun hen => ?_, fun hen he => ?_, fun e hen he => ?_⟩
    · exact refuses (hrows.trans ((if_neg hidle).trans (if_pos hen)))
    · refine refuses (hrows.trans ((if_neg hidle).trans ((if_neg ?_).trans ?_)))
      · rw [show p.calEn = true from hen]
        decide
      · rw [he]
    · obtain ⟨hlimit, hjudged⟩ := calWrite_judged (corr := corr) hd hact hyd hidle hen he
      refine ⟨fun h => refuses (hlimit h), fun h r hr => ?_, fun h hb hsound => ?_⟩
      · exact refuses ((hjudged h).1 r ((writeRefusal_eq p).trans hr))
      · subst hyd
        obtain ⟨old, fresh, hold, haccept⟩ := acceptCalWrite_starts (p := p) (y := y) (readEntry_sound hsound) corr e
        set w : CalWrite := ⟨corr, y.deck, .entry e, (p.deck y.deck).counter + 1, .trail⟩ with hw'
        set b : TrailBody := .calChange old (⟨y.deck, e, (p.deck y.deck).counter + 1, (p.deck y.deck).persisted,
          some (y.writes + 1)⟩ : CalImage).crc ((p.deck y.deck).counter + 1) with hbody
        obtain ⟨hrest, hlanes⟩ := startCalWrite_facts { p with fresh := fresh } w b
        have hends : endsAs c s (({ p with fresh := fresh } : Part).startCalWrite w b) :=
          calWrite_endsAs ht (((hjudged h).2 ((writeRefusal_eq p).trans hb)).trans haccept)
            (settled_startCalWrite (p := { p with fresh := fresh }) (settled_of hps rfl rfl rfl) w b)
        generalize ({ p with fresh := fresh } : Part).startCalWrite w b = q at *
        refine ⟨q, old, hends, hold, ?_, ?_, ?_, ?_, ?_, ?_, ?_, hlanes⟩
        · rw [hrest]
          exact hen
        · rw [hrest]
          rfl
        · rw [hrest]
          rfl
        · rw [hrest]
          rfl
        · rw [hrest]
          rfl
        · rw [hrest]
          rfl
        · rw [hrest]
  · intro c p refused
    have hps : p.settingsSettled := settled_admitted hs ..
    have run {q : Part} (h : p.zeroSet corr deck = q) (hq : q.settingsSettled) : endsAs c s q :=
      request_endsAs c s corr .zeroSet (·.zeroSet corr deck) q deck rfl ht h hq
    have refuses {r : Reason} (h : p.zeroSet corr deck = p.refuse corr .zeroSet r) : refused r :=
      run h (settled_refuse hps ..)
    have hrows := zeroSet_eq (p := p) (corr := corr) hd
    refine ⟨fun hserv => ?_, fun hserv => ?_, fun hserv y hy ho => ?_⟩
    · refine refuses (hrows.trans ?_)
      rw [show (p.deck d).service = x.service from rfl]
      rcases hserv with h | h
      · rw [h]
        rfl
      · rw [h]
        rfl
    · have htrade : p.zeroSet corr deck = p.tradeZeroSet corr d := by
        rw [hrows, show (p.deck d).service = .trade from hserv]
        rfl
      refine ⟨fun h => refuses (htrade.trans (if_pos h)), fun w hw hvisit hstable => ?_⟩
      have hrow : p.tradeZeroSet corr d =
          if k.inZeroRange w.filtered = false then p.refuse corr .zeroSet .badValue
          else (p.modDeck d fun x => { x with zd := some w.filtered }).done corr .zeroSet := by
        unfold Part.tradeZeroSet
        rw [if_neg]
        · exact withZero_good (p := p) (w := w) hcal hw _
        · rintro (h | h)
          · rw [show p.visit (laneOf d) = none from hvisit] at h
            exact absurd h Bool.false_ne_true
          · exact h hstable
      refine ⟨fun h => ?_, fun h => ?_⟩
      · refine run (htrade.trans (hrow.trans (if_neg ?_))) (settled_done (settled_modDeck hps d _) ..)
        rw [(inZeroRange_iff k w.filtered).mpr h]
        decide
      · refine refuses (htrade.trans (hrow.trans (if_pos ?_)))
        exact Bool.eq_false_of_not_eq_true fun k' => absurd ((inZeroRange_iff k w.filtered).mp k') (not_le.mpr h)
    · have haudit : p.zeroSet corr deck = p.auditZeroSet corr d := by
        rw [hrows, show (p.deck d).service = .audit from hserv]
        rfl
      have hrow := haudit.trans (auditZeroSet_eq (corr := corr) (d := d) (active_of (p := p) hy ho))
      refine ⟨fun h => refuses (hrow.trans (if_pos (auditBusy_of h))), fun hi hw => ?_⟩
      have hrow := hrow.trans (if_neg (auditBusy_idle (p := p) hi hw))
      refine ⟨fun h => refuses (hrow.trans (if_pos h)), fun h hlim => ?_, fun w h hlim hpub => ?_⟩
      · exact refuses (hrow.trans ((if_neg (not_not.mpr h)).trans (if_pos hlim)))
      · have hrow := hrow.trans ((if_neg (not_not.mpr h)).trans ((if_neg (Nat.not_le.mpr hlim)).trans
          (withZero_good (p := p) (corr := corr) (w := w) hcal hpub _)))
        obtain ⟨hover, hjudged⟩ := judgeZcal_eq (p := p) (corr := corr) (d := d) k (newZcal w.filtered)
        intro z
        refine ⟨fun hz => refuses (hrow.trans (hover hz)), fun hz r hr => ?_, fun hz hb => ?_⟩
        · exact refuses (hrow.trans ((hjudged hz).1 r ((writeRefusal_eq p).trans hr)))
        · set b : TrailBody := .zeroSet k.zcal z ((p.deck d).counter + 1) with hbody
          set v : CalWrite := ⟨corr, d, .zero z, (p.deck d).counter + 1, .trail⟩ with hv
          have hends : endsAs c s (p.startCalWrite v b) :=
            run (hrow.trans ((hjudged hz).2 ((writeRefusal_eq p).trans hb))) (settled_startCalWrite hps v b)
          obtain ⟨hrest, hlanes⟩ := startCalWrite_facts p v b
          generalize p.startCalWrite v b = q at *
          refine ⟨q, hends, ?_, ?_, ?_, ?_, ?_, ?_, hlanes⟩
          · rw [hrest]
            rfl
          · rw [hrest]
            rfl
          · rw [hrest]
            rfl
          · rw [hrest]
            rfl
          · rw [hrest]
            rfl
          · rw [hrest]

end Sys2Proof.Machine
end


section
/-! PROOFS. AUDIT_STEP, and the ways in which a step in flight completes (R10, R151, R152). -/

namespace Sys2Proof.Machine

/-! ## The rows of AUDIT_STEP (R151) -/

section
variable {p : Part} {corr : U16} {x : Session}

theorem auditStep_noSession (h : ∀ x, p.audit.session = some x → x.atOpen = none) (kind : Coded StepKind)
    (reference : U32) (cell : Option Byte) :
    p.auditStep corr kind reference cell = p.refuse corr .auditStep .noSession := by
  unfold Part.auditStep
  rw [active_none h]

/-- The rows of AUDIT_STEP that come before those of its values. -/
theorem auditStep_active (hx : p.active = some x) (kind : Coded StepKind) (reference : U32) (cell : Option Byte) :
    (p.auditBusy x = true → p.auditStep corr kind reference cell = p.refuse corr .auditStep .busy) ∧
    (¬ p.auditBusy x = true →
      (24 ≤ x.steps.length → p.auditStep corr kind reference cell = p.refuse corr .auditStep .stepsFull) ∧
      (x.steps.length < 24 →
        (∀ code, kind = .undefined code → p.auditStep corr kind reference cell = p.refuse corr .auditStep .badValue) ∧
        ∀ k, kind = .known k →
          p.auditStep corr kind reference cell = p.takeStep corr x k reference.toInt (cell.map (·.toNat)))) := by
  unfold Part.auditStep
  rw [hx]
  dsimp only
  refine ⟨fun h => if_pos h, fun h => ⟨fun hn => (if_neg h).trans (if_pos hn), fun hn => ?_⟩⟩
  rw [if_neg h, if_neg (Nat.not_le.mpr hn)]
  refine ⟨fun code hc => ?_, fun k hk => ?_⟩
  · rw [hc]
  · rw [hk]

/-- What R151 asks of the values of a step on a deck with this entry. -/
def stepWithin (cal : Option CalSlot) (kind : StepKind) (reference : U32) (cell : Option Byte) : Prop :=
  ¬ (kind = .load ∨ kind = .corner) ∧ reference = 0 ∨
    ∃ k b, cal = some ⟨k, b, false⟩ ∧ 1 ≤ reference.toInt ∧ reference.toInt ≤ k.capacity ∧
      (kind = .load ∨ kind = .corner ∧ ∃ i : Byte, cell = some i ∧ i.toNat < k.cells.length)

theorem toInt_eq_zero {v : U32} : v.toInt = 0 ↔ v = 0 := by
  constructor
  · intro h
    exact BitVec.eq_of_toInt_eq h
  · rintro rfl
    rfl

theorem entry_some {y : Deck} {k : CalEntry} : y.entry = some k ↔ ∃ b, y.cal = some ⟨k, b, false⟩ := by
  unfold Deck.entry
  cases y.cal with
  | none => simp
  | some slot =>
    obtain ⟨e, ok, damaged⟩ := slot
    cases damaged with
    | true => simp
    | false => simp

theorem stepOk_iff (y : Deck) (kind : StepKind) (reference : U32) (cell : Option Byte) :
    stepOk y.entry kind reference.toInt (cell.map (·.toNat)) = true ↔ stepWithin y.cal kind reference cell := by
  have hentry : ∀ P : CalEntry → Prop, (∃ k, y.entry = some k ∧ P k) ↔ ∃ k b, y.cal = some ⟨k, b, false⟩ ∧ P k := by
    intro P
    constructor
    · rintro ⟨k, hk, hP⟩
      obtain ⟨b, hb⟩ := entry_some.mp hk
      exact ⟨k, b, hb, hP⟩
    · rintro ⟨k, b, hb, hP⟩
      exact ⟨k, entry_some.mpr ⟨b, hb⟩, hP⟩
  unfold stepWithin
  rw [← hentry]
  cases kind with
  | zero => simp [stepOk, toInt_eq_zero]
  | returnZero => simp [stepOk, toInt_eq_zero]
  | load =>
    cases he : y.entry with
    | none => simp [stepOk]
    | some k => simp [stepOk]
  | corner =>
    cases he : y.entry with
    | none => simp [stepOk]
    | some k =>
      cases cell with
      | none => simp [stepOk]
      | some i => simp [stepOk, and_assoc]

/-- The read of the entry that a step brings, where it does not fail (R142). -/
theorem stepRead_sound {kind : StepKind} (h : kind = .load ∨ kind = .corner → p.readEntry x.deck = p) :
    (if kindReadsEntry kind then p.readEntry x.deck else p) = p := by
  cases kind with
  | zero => rfl
  | returnZero => rfl
  | load => exact h (.inl rfl)
  | corner => exact h (.inr rfl)

theorem takeStep_eq {kind : StepKind} (h : kind = .load ∨ kind = .corner → p.readEntry x.deck = p) (reference : Int)
    (cell : Option Nat) : p.takeStep corr x kind reference cell =
      if stepOk (p.deck x.deck).entry kind reference cell = false then p.refuse corr .auditStep .badValue
      else if p.trailReserved then p.refuse corr .auditStep .trailFull
      else (p.startStep x kind reference cell).respond corr .auditStep (.accepted (.stepNumber (x.steps.length + 1))) := by
  unfold Part.takeStep
  rw [stepRead_sound h]

end

/-- The rows of AUDIT_STEP, as O46 states them. -/
theorem auditStep_rows (corr : U16) (kind : StepKind) (reference : U32) (cell : Option Byte) (s : State)
    (hs : s.toPart.settingsSettled) (ht : s.toPart.takes corr) :
    let p := s.toPart.admitted corr .auditStep
    let c := Instr.auditStep corr (.known kind) reference cell
    let refused := fun (r : Reason) => endsAs c s (p.refuse corr .auditStep r)
    ((∀ x, s.audit.session = some x → x.atOpen = none) → refused .noSession) ∧
    ∀ x o, s.audit.session = some x → x.atOpen = some o →
      ((x.inFlight ≠ none ∨ s.audit.calWrite ≠ none) → refused .busy) ∧
      (x.inFlight = none → s.audit.calWrite = none →
        (24 ≤ x.steps.length → refused .stepsFull) ∧
        (x.steps.length < 24 →
          (∀ code, endsAs (.auditStep corr (.undefined code) reference cell) s (p.refuse corr .auditStep .badValue)) ∧
          (((kind = .load ∨ kind = .corner) → ∀ k, (s.toPart.deck x.deck).cal = some k → k.damaged = true ∨ k.parityOk = true) →
            (¬ stepWithin (s.toPart.deck x.deck).cal kind reference cell → refused .badValue) ∧
            (stepWithin (s.toPart.deck x.deck).cal kind reference cell → s.audit.trail.free ≤ 32 → refused .trailFull) ∧
            (stepWithin (s.toPart.deck x.deck).cal kind reference cell → 32 < s.audit.trail.free →
              endsAs c s ((p.startStep x kind reference.toInt (cell.map (·.toNat))).respond corr .auditStep
                (.accepted (.stepNumber (x.steps.length + 1)))))))) := by
  intro p c refused
  have hps : p.settingsSettled := settled_admitted hs ..
  have run {k : Coded StepKind} {q : Part} (h : p.auditStep corr k reference cell = q) (hq : q.settingsSettled) :
      endsAs (.auditStep corr k reference cell) s q :=
    request_endsAs (.auditStep corr k reference cell) s corr .auditStep (·.auditStep corr k reference cell) q 0 rfl ht h hq
  have refuses {k : Coded StepKind} {r : Reason} (h : p.auditStep corr k reference cell = p.refuse corr .auditStep r) :
      endsAs (.auditStep corr k reference cell) s (p.refuse corr .auditStep r) := run h (settled_refuse hps ..)
  refine ⟨fun h => refuses (auditStep_noSession (p := p) h ..), fun x o hx ho => ?_⟩
  have hact : p.active = some x := active_of (p := p) hx (by rw [ho]; exact Option.some_ne_none o)
  obtain ⟨hbusy, hidle⟩ := auditStep_active (corr := corr) hact (.known kind) reference cell
  refine ⟨fun h => refuses (hbusy (auditBusy_of h)), fun hi hw => ?_⟩
  have hnb : ¬ p.auditBusy x = true := auditBusy_idle hi hw
  obtain ⟨hfull, hroom⟩ := hidle hnb
  refine ⟨fun h => refuses (hfull h), fun h => ⟨fun code => ?_, fun hsound => ?_⟩⟩
  · obtain ⟨-, hidle⟩ := auditStep_active (corr := corr) hact (.undefined code) reference cell
    exact refuses (((hidle hnb).2 h).1 code rfl)
  · have hrow := ((hroom h).2 kind rfl).trans
      (takeStep_eq (corr := corr) (fun hk => readEntry_sound (p := p) (hsound hk)) reference.toInt (cell.map (·.toNat)))
    have hiff := stepOk_iff (p.deck x.deck) kind reference cell
    refine ⟨fun hf => ?_, fun hf hfree => ?_, fun hf hfree => ?_⟩
    · exact refuses (hrow.trans (if_pos (Bool.eq_false_of_not_eq_true fun k => hf (hiff.mp k))))
    · have hok : ¬ stepOk (p.deck x.deck).entry kind reference.toInt (cell.map (·.toNat)) = false := by
        rw [hiff.mpr hf]
        decide
      exact refuses (hrow.trans ((if_neg hok).trans (if_pos (decide_eq_true hfree))))
    · have hok : ¬ stepOk (p.deck x.deck).entry kind reference.toInt (cell.map (·.toNat)) = false := by
        rw [hiff.mpr hf]
        decide
      have hmore : ¬ p.trailReserved = true := fun k => absurd (of_decide_eq_true k) (Nat.not_le.mpr hfree)
      exact run (hrow.trans ((if_neg hok).trans (if_neg hmore))) (settled_of hps rfl rfl rfl)

/-! ## A step in flight, and the deck of its session -/

theorem handTrail_modDeck (p : Part) (d : DeckId) (f : Deck → Deck) (o : Option DeckId) (b : TrailBody) :
    (p.modDeck d f).handTrail o b = (p.handTrail o b).modDeck d f := by
  unfold Part.handTrail
  dsimp only
  by_cases h : (p.audit.trail.hand ⟨o, p.siteTime, p.clock.valid, b⟩ ⟨none, p.siteTime, p.clock.valid, .gap p.audit.trail.gap⟩).free = 0 ∧
      p.audit.trail.free ≠ 0
  · rw [if_pos h]
    exact if_pos h
  · rw [if_neg h]
    exact if_neg h

/-- The step `n`, `st`, of the session `x` is in flight. -/
structure Part.StepInFlight (p : Part) (x : Session) (n : Nat) (st : AuditStepRec) : Prop where
  session : p.audit.session = some x
  step : x.inFlight = some n
  record : x.steps[n - 1]? = some st

section
variable {p : Part} {x : Session} {n : Nat} {st : AuditStepRec} (h : p.StepInFlight x n st)
include h

omit h in
/-- The session and the timer once the step has completed with this reading. -/
def AuditUnit.stepped (a : AuditUnit) (x : Session) (n : Nat) (st : AuditStepRec) (r : Option Reading) : AuditUnit :=
  { a with
    session := some { x with
      steps := x.steps.set (n - 1) { st with reading := r, result := some (resultOf r) }, inFlight := none }
    stepTimer := .stopped }

theorem completeStep_eq (r : Option Reading) : p.completeStep r =
    (({ p with audit := p.audit.stepped x n st r } : Part).handTrail (some x.deck)
      (.step n st.kind st.reference st.cell (resultOf r) r)).notify
        (.stepDone x.deck n { st with reading := r, result := some (resultOf r) }) := by
  unfold Part.completeStep
  rw [h.session]
  dsimp only
  rw [h.step]
  simp only [Option.bind_some, h.record]
  cases r with
  | none => rfl
  | some r => rfl

/-- The completion of a step is apart from the decks. -/
theorem completeStep_modDeck (d : DeckId) (f : Deck → Deck) (r : Option Reading) :
    (p.modDeck d f).completeStep r = (p.completeStep r).modDeck d f := by
  have hq : (p.modDeck d f).StepInFlight x n st := ⟨h.session, h.step, h.record⟩
  have htrail := handTrail_modDeck { p with audit := p.audit.stepped x n st r } d f (some x.deck)
    (.step n st.kind st.reference st.cell (resultOf r) r)
  rw [completeStep_eq h, completeStep_eq hq]
  exact congrArg (fun q : Part => q.notify (.stepDone x.deck n { st with reading := r, result := some (resultOf r) })) htrail

theorem inFlightOn_session : p.inFlightOn x.deck = some n := by
  unfold Part.inFlightOn
  rw [h.session]
  exact (if_pos rfl).trans h.step

/-- A window restart of the session's deck (R10). -/
theorem windowRestart_completes : p.windowRestart x.deck = (p.completeStep none).modDeck x.deck Deck.restart := by
  have hsome : ((p.modDeck x.deck Deck.restart).inFlightOn x.deck).isSome = true := by
    rw [inFlightOn_modDeck, inFlightOn_session h]
    rfl
  unfold Part.windowRestart
  dsimp only
  rw [if_pos hsome, completeStep_modDeck h]

end

/-! ## A frame on the session's deck -/

/-- The frame restarts the deck's windows: a sequence gap, or a changed cell status (R2, R5). -/
abbrev Deck.restarts (y : Deck) (c : CalEntry) (f : Sample) : Prop :=
  3 < missing y.lastSeq f.seq ∨ y.remembered.take c.cells.length ≠ f.used c

/-- The part once the step in flight of the session `x` has completed NO_STABLE, if it is. -/
def Part.abandoned (p : Part) (restarts : Prop) [Decidable restarts] : Part := if restarts then p.completeStep none else p

section
variable {p : Part} {x : Session} {n : Nat} {st : AuditStepRec} (h : p.StepInFlight x n st)
include h

/-- No step is in flight once it has completed. -/
theorem completeStep_idle (r : Option Reading) (d : DeckId) : (p.completeStep r).inFlightOn d = none :=
  (completeStep_facts p x n st r h.session h.step h.record).idle d

theorem completeStep_decks (r : Option Reading) : (p.completeStep r).decks = p.decks ∧ (p.completeStep r).clock = p.clock := by
  have hrest := (completeStep_facts p x n st r h.session h.step h.record).rest
  rw [hrest]
  exact ⟨rfl, rfl⟩

theorem deck_completeStep (r : Option Reading) (d : DeckId) : (p.completeStep r).deck d = p.deck d := by
  unfold Part.deck
  rw [(completeStep_decks h r).1]

theorem trackSequence_flight (c : CalEntry) (seq : Nat) : p.trackSequence x.deck c seq =
    (p.abandoned (3 < missing (p.deck x.deck).lastSeq seq)).modDeck x.deck fun y => y.sequenced c seq p.clock.running := by
  have hg : (p.modDeck x.deck fun y => { y with
      gapCount := min 65535 (y.gapCount + missing (p.deck x.deck).lastSeq seq) }).StepInFlight x n st :=
    ⟨h.session, h.step, h.record⟩
  unfold Part.trackSequence Part.abandoned
  dsimp only
  by_cases hn : 3 < missing (p.deck x.deck).lastSeq seq
  · rw [if_pos hn, if_pos hn, windowRestart_completes hg, completeStep_modDeck h, modDeck_modDeck, modDeck_modDeck,
      modDeck_modDeck]
    refine modDeck_congr _ _ _ _ ?_
    unfold Deck.sequenced Part.start Part.now
    rw [deck_completeStep h, if_pos hn]
    simp only [modDeck_clock, (completeStep_decks h none).2]
    rfl
  · rw [if_neg hn, if_neg hn, modDeck_modDeck]
    refine modDeck_congr _ _ _ _ ?_
    unfold Deck.sequenced
    rw [if_neg hn]
    rfl

/-- The frame at its deck channel, with a step of the session in flight there (R2, R5, R8). -/
theorem channelFrame_flight (c : CalEntry) (f : Sample) :
    let q := (p.abandoned ((p.deck x.deck).restarts c f)).modDeck x.deck fun y => y.heardFrame c f p.clock.running
    ((p.trackSequence x.deck c f.seq).channelFrame x.deck ⟨c, true, false⟩ f).1 =
      if (f.used c).all fun st => decide (st = .good) then q.goodSample x.deck c f else q.badFrame x.deck := by
  intro q
  rw [trackSequence_flight h]
  by_cases hgap : 3 < missing (p.deck x.deck).lastSeq f.seq
  · have hq : q = ((p.completeStep none).modDeck x.deck fun y => y.sequenced c f.seq p.clock.running).modDeck x.deck fun y =>
        y.heard c f := by
      rw [modDeck_modDeck]
      exact congrArg (fun r : Part => r.modDeck x.deck fun y => y.heardFrame c f p.clock.running) (if_pos (.inl hgap))
    unfold Part.abandoned
    rw [if_pos hgap, channelFrame_heard (by rw [inFlightOn_modDeck]; exact completeStep_idle h none x.deck) rfl f, ← hq]
    split
    case isTrue => rfl
    case isFalse => rfl
  · set t := p.modDeck x.deck fun y => y.sequenced c f.seq p.clock.running with ht
    have hflight : t.StepInFlight x n st := ⟨h.session, h.step, h.record⟩
    have hremembered : (t.deck x.deck).remembered = (p.deck x.deck).remembered := by
      rw [ht, deck_modDeck_self]
      unfold Deck.sequenced
      rw [if_neg hgap]
    have hq : ((if f.used c ≠ (t.deck x.deck).remembered.take c.cells.length then t.windowRestart x.deck
        else t).modDeck x.deck fun y => { y with
          remembered := f.used c ++ List.replicate (8 - c.cells.length) .good }) = q := by
      by_cases hu : (p.deck x.deck).remembered.take c.cells.length = f.used c
      · have hb : p.abandoned ((p.deck x.deck).restarts c f) = p := if_neg fun k => k.elim hgap fun k => k hu
        rw [hremembered, if_neg (not_not_intro hu.symm), ht, modDeck_modDeck]
        refine (modDeck_congr _ _ _ _ ?_).trans (congrArg (fun r : Part => r.modDeck x.deck fun y =>
          y.heardFrame c f p.clock.running) hb).symm
        unfold Deck.heardFrame Deck.heard
        rw [if_pos]
        rw [← hu, ← hremembered, ht, deck_modDeck_self]
      · have hb : p.abandoned ((p.deck x.deck).restarts c f) = p.completeStep none := if_pos (.inr hu)
        rw [hremembered, if_pos (Ne.symm hu), windowRestart_completes hflight, ht, completeStep_modDeck h, modDeck_modDeck,
          modDeck_modDeck]
        refine (modDeck_congr _ _ _ _ ?_).trans (congrArg (fun r : Part => r.modDeck x.deck fun y =>
          y.heardFrame c f p.clock.running) hb).symm
        unfold Deck.heardFrame Deck.heard
        rw [if_neg]
        rw [deck_completeStep h, ← deck_modDeck_self p x.deck fun y => y.sequenced c f.seq p.clock.running, ← ht, hremembered]
        exact hu
    unfold Part.abandoned
    rw [if_neg hgap]
    unfold Part.channelFrame
    rw [if_neg (show ¬ true = false by decide)]
    dsimp only
    rw [show (f.cells.take c.cells.length).map (·.2) = f.used c from rfl, hq]
    split
    case isTrue => rfl
    case isFalse => rfl

/-- The step in flight has completed, and at most the decks and the store have changed besides. -/
theorem completed_facts {q : Part} {r : Option Reading}
    (hq : q = { p.completeStep r with decks := q.decks, store := q.store }) (hs : p.settingsSettled) :
    q.audit.session = some { x with
        steps := x.steps.set (n - 1) { st with reading := r, result := some (resultOf r) }, inFlight := none } ∧
      q.audit.stepTimer = .stopped ∧
      q.audit.trail = p.handed (some x.deck) (.step n st.kind st.reference st.cell (resultOf r) r) ∧
      q.link = p.told [.stepDone x.deck n { st with reading := r, result := some (resultOf r) }] ∧
      (∀ l, sameButTrailFull (p.lane l) (q.lane l)) ∧ q.pairing = p.pairing ∧ q.tickets = p.tickets ∧
      q.tables = p.tables ∧ q.settingsSettled := by
  have hdone := completeStep_facts p x n st r h.session h.step h.record
  have hsettled := hdone.settled hs
  obtain ⟨hrest, haudit, hlink, hlanes⟩ := hdone
  generalize p.completeStep r = b at *
  refine ⟨?_, ?_, ?_, ?_, fun l => ?_, ?_, ?_, ?_, ?_⟩
  · rw [hq]
    exact congrArg AuditUnit.session haudit
  · rw [hq]
    exact congrArg AuditUnit.stepTimer haudit
  · rw [hq]
    exact congrArg AuditUnit.trail haudit
  · rw [hq]
    exact hlink
  · rw [hq]
    exact hlanes l
  · rw [hq, hrest]
  · rw [hq, hrest]
  · rw [hq, hrest]
  · rw [hq]
    exact settled_of hsettled rfl rfl rfl

/-- A bad frame on the session's deck (R8, R152). -/
theorem badFrame_flight (R : Prop) [Decidable R] (g : Deck → Deck) :
    ((p.abandoned R).modDeck x.deck g).badFrame x.deck =
      ((p.completeStep none).modDeck x.deck fun y => (g y).bad).raiseCause x.deck .cellFault := by
  have hq : (if (((p.abandoned R).modDeck x.deck g).modDeck x.deck Deck.bad).inFlightOn x.deck |>.isSome then
      (((p.abandoned R).modDeck x.deck g).modDeck x.deck Deck.bad).completeStep none
      else ((p.abandoned R).modDeck x.deck g).modDeck x.deck Deck.bad) =
      (p.completeStep none).modDeck x.deck fun y => (g y).bad := by
    rw [modDeck_modDeck, inFlightOn_modDeck]
    unfold Part.abandoned
    by_cases hR : R
    · rw [if_pos hR, completeStep_idle h none x.deck]
      rfl
    · rw [if_neg hR, inFlightOn_session h, completeStep_modDeck h]
      rfl
  exact congrArg (fun r : Part => r.raiseCause x.deck .cellFault) hq

theorem measureStep_flight {c : CalEntry} {w : Published} (hw : (p.deck x.deck).published = some w) :
    p.measureStep x.deck c = p.completeStep (some (measure c.e st.reference w.expanded)) := by
  unfold Part.measureStep
  rw [h.session, hw]
  dsimp only
  rw [h.step]
  simp only [Option.bind_some, h.record]
  exact if_pos trivial

end

/-! ## A good sample of a deck in AUDIT -/

theorem trackZero_notTrade {p : Part} {d : DeckId} (h : (p.deck d).service ≠ .trade) (c : CalEntry) : p.trackZero d c = p := by
  unfold Part.trackZero
  dsimp only
  split
  · exact if_neg fun k => h k.2.1
  · rfl

theorem goodSample_untracked {p : Part} {d : DeckId} {c : CalEntry} {f : Sample} (hserv : (p.deck d).service ≠ .trade)
    (hother : ∀ m, p.monitor.selection = some m → m.1 ≠ d) :
    let q := p.modDeck d fun x => x.weighed c f p.clock.running
    p.goodSample d c f = if (q.deck d).status = .stable then q.measureStep d c else q := by
  intro q
  have hq : (q.deck d).service ≠ .trade := by
    rw [deck_modDeck_self]
    exact hserv
  rw [goodSample_eq, relay_other (p := q) hother]
  unfold Part.tracked
  rw [trackZero_notTrade hq]

/-! ## A cause that joins a deck in AUDIT -/

theorem add_has {k : DeckCauses} {c : DeckCause} (h : k.has c = true) : k.add c = k := by
  cases c with
  | linkLoss => exact congrArg (fun b => { k with linkLoss := b }) h.symm
  | cellFault => exact congrArg (fun b => { k with cellFault := b }) h.symm
  | zeroRange => exact congrArg (fun b => { k with zeroRange := b }) h.symm
  | tableParity => exact congrArg (fun b => { k with tableParity := b }) h.symm
  | imageInvalid => exact congrArg (fun b => { k with imageInvalid := b }) h.symm

theorem raiseCause_notTrade {p : Part} {d : DeckId} (h : (p.deck d).service ≠ .trade) (c : DeckCause) :
    let q := p.raiseCause d c
    q = { p with decks := q.decks, store := q.store } ∧ (∀ e, e ≠ d → q.deck e = p.deck e) ∧
      q.deck d = { p.deck d with causes := (p.deck d).causes.add c, persisted := (q.deck d).persisted } := by
  unfold Part.raiseCause
  by_cases hc : (p.deck d).causes.has c = true
  · rw [if_pos hc, add_has hc]
    exact ⟨rfl, fun _ _ => rfl, rfl⟩
  · rw [if_neg hc]
    dsimp only
    rw [if_neg h]
    obtain ⟨hrest, hothers, hdeck⟩ := judgePersisted_facts (p.modDeck d fun x => { x with causes := x.causes.add c }) d
    generalize (p.modDeck d fun x => { x with causes := x.causes.add c }).judgePersisted d = q at *
    refine ⟨hrest, fun e he => ?_, ?_⟩
    · rw [hothers e he, deck_modDeck, if_neg he]
    · rw [hdeck, deck_modDeck_self]

/-! ## The frames of O46 -/

/-- A frame that is valid for the session's deck, with the step in flight there, the deck in AUDIT and its lane empty. -/
structure Part.hearsStep (p : Part) (x : Session) (n : Nat) (st : AuditStepRec) (wire : List Byte) (f : Sample)
    (c : CalEntry) : Prop where
  flight : p.StepInFlight x n st
  running : p.phase = .running
  service : (p.deck x.deck).service = .audit
  cal : (p.deck x.deck).cal = some ⟨c, true, false⟩
  parsed : parseSample wire = some f
  node : f.node = c.node
  deck : f.deck = x.deck.val
  cells : c.cells.length ≤ f.cells.length
  fresh : (p.deck x.deck).lastSeq ≠ some f.seq
  noVisit : p.visit (laneOf x.deck) = none

section
variable {s : State} {x : Session} {n : Nat} {st : AuditStepRec} {wire : List Byte} {f : Sample} {c : CalEntry}
  (h : s.toPart.hearsStep x n st wire f c)
include h

theorem sampleFrame_step {r : Part}
    (hr : ((s.toPart.trackSequence x.deck c f.seq).channelFrame x.deck ⟨c, true, false⟩ f).1 = r)
    (hv : r.visit (laneOf x.deck) = none) (hs : r.settingsSettled) : endsAs (.sampleFrame x.deck wire) s r := by
  refine endsAs_run (.sampleFrame x.deck wire) s (fun p => p.sampleFrame x.deck wire) r rfl ?_ hs
  have hacc : (s.toPart.deck x.deck).accepts x.deck c f = true := decide_eq_true ⟨h.node, h.deck, h.cells, h.fresh⟩
  unfold Part.sampleFrame
  rw [h.cal, h.parsed]
  dsimp only
  rw [if_pos ⟨h.running, rfl, hacc⟩, hr]
  exact laneReact_noVisit r x.deck _ _ hv

theorem heardFrame_audit : ((s.toPart.deck x.deck).heardFrame c f s.clock.running).service = .audit :=
  (heard_service _ c f).trans ((sequenced_keeps _ c f.seq s.clock.running).1.trans h.service)

/-- The frame ends with the step completed and the deck `y`, where its stages make that of the part. -/
theorem sampleFrame_completes (hs : s.toPart.settingsSettled) {q : Part} {r : Option Reading}
    (hq : q = { s.toPart.completeStep r with decks := q.decks, store := q.store })
    (hothers : ∀ e, e ≠ x.deck → q.deck e = s.toPart.deck e)
    (hr : ((s.toPart.trackSequence x.deck c f.seq).channelFrame x.deck ⟨c, true, false⟩ f).1 = q) :
    endsAs (.sampleFrame x.deck wire) s q ∧ (∀ e, e ≠ x.deck → q.deck e = s.toPart.deck e) ∧
      q.audit.session = some { x with
        steps := x.steps.set (n - 1) { st with reading := r, result := some (resultOf r) }, inFlight := none } ∧
      q.audit.stepTimer = .stopped ∧
      q.audit.trail = s.toPart.handed (some x.deck) (.step n st.kind st.reference st.cell (resultOf r) r) ∧
      q.link = s.toPart.told [.stepDone x.deck n { st with reading := r, result := some (resultOf r) }] ∧
      (∀ l, sameButTrailFull (s.toPart.lane l) (q.lane l)) ∧ q.pairing = s.pairing ∧ q.tickets = s.tickets := by
  obtain ⟨hsession, htimer, htrail, hlink, hlanes, hpairing, htickets, -, hsettled⟩ := completed_facts h.flight hq hs
  have hv : q.visit (laneOf x.deck) = none := (lane_of_sameButTrailFull (hlanes _)).2.2.1.trans h.noVisit
  exact ⟨sampleFrame_step h hr hv hsettled, hothers, hsession, htimer, htrail, hlink, hlanes, hpairing, htickets⟩

/-- A bad cell in use (R8, R152). -/
theorem sampleFrame_badStep (hbad : ∃ k ∈ f.used c, k ≠ .good) :
    let q := ((s.toPart.completeStep none).modDeck x.deck fun y => (y.heardFrame c f s.clock.running).bad).raiseCause x.deck
      .cellFault
    ((s.toPart.trackSequence x.deck c f.seq).channelFrame x.deck ⟨c, true, false⟩ f).1 = q ∧
      q = { s.toPart.completeStep none with decks := q.decks, store := q.store } ∧
      (∀ e, e ≠ x.deck → q.deck e = s.toPart.deck e) ∧
      q.deck x.deck = { ((s.toPart.deck x.deck).heardFrame c f s.clock.running).bad with
        causes := ((s.toPart.deck x.deck).heardFrame c f s.clock.running).causes.add .cellFault
        persisted := (q.deck x.deck).persisted } := by
  have hall : ¬ ((f.used c).all fun k => decide (k = .good)) = true := by
    obtain ⟨k, hk, hne⟩ := hbad
    rw [List.all_eq_true]
    exact fun hg => hne (of_decide_eq_true (hg k hk))
  intro q
  have hdeck : ((s.toPart.completeStep none).modDeck x.deck fun y => (y.heardFrame c f s.clock.running).bad).deck x.deck =
      ((s.toPart.deck x.deck).heardFrame c f s.clock.running).bad := by
    rw [deck_modDeck_self, deck_completeStep h.flight]
  obtain ⟨hrest, hothers, hq⟩ := raiseCause_notTrade (d := x.deck)
    (p := (s.toPart.completeStep none).modDeck x.deck fun y => (y.heardFrame c f s.clock.running).bad)
    (by rw [hdeck]; exact ne_of_eq_of_ne (heardFrame_audit h) (by decide)) .cellFault
  refine ⟨?_, hrest, fun e he => ?_, ?_⟩
  · rw [channelFrame_flight h.flight, if_neg hall]
    exact badFrame_flight h.flight _ _
  · rw [hothers e he, deck_modDeck, if_neg he, deck_completeStep h.flight]
  · rw [hdeck] at hq
    exact hq

/-- Every cell in use good (R9-R13, R152). -/
theorem sampleFrame_goodStep (hgood : ∀ k ∈ f.used c, k = .good) (hother : ∀ m, s.monitor.selection = some m → m.1 ≠ x.deck) :
    let q := (s.toPart.abandoned ((s.toPart.deck x.deck).restarts c f)).modDeck x.deck fun _ => s.toPart.sampled x.deck c f
    ((s.toPart.trackSequence x.deck c f.seq).channelFrame x.deck ⟨c, true, false⟩ f).1 =
      if (s.toPart.sampled x.deck c f).status = .stable then q.measureStep x.deck c else q := by
  have hall : ((f.used c).all fun k => decide (k = .good)) = true := by
    rw [List.all_eq_true]
    exact fun k hk => decide_eq_true (hgood k hk)
  dsimp only
  obtain ⟨hb, hdeck, hmonitor⟩ : (s.toPart.abandoned ((s.toPart.deck x.deck).restarts c f)).clock = s.clock ∧
      (s.toPart.abandoned ((s.toPart.deck x.deck).restarts c f)).deck x.deck = s.toPart.deck x.deck ∧
      (s.toPart.abandoned ((s.toPart.deck x.deck).restarts c f)).monitor = s.monitor := by
    unfold Part.abandoned
    split
    case isTrue =>
      refine ⟨(completeStep_decks h.flight none).2, deck_completeStep h.flight none x.deck, ?_⟩
      have hrest := (completeStep_facts s.toPart x n st none h.flight.session h.flight.step h.flight.record).rest
      rw [hrest]
    case isFalse => exact ⟨rfl, rfl, rfl⟩
  rw [channelFrame_flight h.flight, if_pos hall]
  generalize s.toPart.abandoned ((s.toPart.deck x.deck).restarts c f) = b at *
  set q := b.modDeck x.deck fun _ => s.toPart.sampled x.deck c f with hqdef
  have hq : ((b.modDeck x.deck fun y => y.heardFrame c f s.clock.running).modDeck x.deck fun y =>
      y.weighed c f b.clock.running) = q := by
    rw [modDeck_modDeck, hb, hqdef]
    refine modDeck_congr b x.deck (fun y => (y.heardFrame c f s.clock.running).weighed c f s.clock.running)
      (fun _ => s.toPart.sampled x.deck c f) ?_
    rw [hdeck]
    rfl
  have hgs := goodSample_untracked (p := b.modDeck x.deck fun y => y.heardFrame c f s.clock.running) (d := x.deck) (c := c)
    (f := f) (by
      rw [deck_modDeck_self, hdeck]
      exact ne_of_eq_of_ne (heardFrame_audit h) (by decide)) (by
      show ∀ m, b.monitor.selection = some m → m.1 ≠ x.deck
      rw [hmonitor]
      exact hother)
  rw [show (b.modDeck x.deck fun y => y.heardFrame c f s.clock.running).clock = b.clock from rfl, hq] at hgs
  refine hgs.trans ?_
  rw [show q.deck x.deck = s.toPart.sampled x.deck c f from deck_modDeck_self ..]

end

theorem heardFrame_eq (y : Deck) (c : CalEntry) (f : Sample) (now : Nat) : y.heardFrame c f now =
    { (if y.restarts c f then y.restart else y) with
      lastSeq := some f.seq, gapCount := min 65535 (y.gapCount + missing y.lastSeq f.seq)
      sampleTimer := .running (now + 10 * c.timeout)
      remembered := f.used c ++ List.replicate (8 - c.cells.length) .good
      clearance := if 3 < missing y.lastSeq f.seq then .stopped else y.clearance } := by
  unfold Deck.heardFrame Deck.heard Deck.sequenced
  by_cases hgap : 3 < missing y.lastSeq f.seq
  · rw [if_pos (show y.restarts c f from .inl hgap), if_pos hgap, if_pos hgap]
    split
    case isTrue => rfl
    case isFalse => rfl
  · rw [if_neg hgap, if_neg hgap]
    by_cases hu : y.remembered.take c.cells.length = f.used c
    · rw [if_neg (show ¬ y.restarts c f from fun k => k.elim hgap fun k => k hu)]
      dsimp only
      rw [if_pos hu]
    · rw [if_pos (show y.restarts c f from .inr hu)]
      dsimp only
      rw [if_neg hu]
      rfl

theorem measure_eq (c : CalEntry) (reference w : Int) :
    let limit : Nat := if reference ≤ 500 * (c.e : Int) then c.e else if reference ≤ 2000 * (c.e : Int) then 2 * c.e else 3 * c.e
    measure c.e reference w = ⟨w, w - 1000 * reference, limit⟩ ∧
      resultOf (some (measure c.e reference w)) = if |w - 1000 * reference| ≤ 1000 * (limit : Int) then .pass else .fail := by
  intro limit
  have hmpe : mpe c.e reference = limit := by
    unfold mpe
    push_cast
    rfl
  have hm : measure c.e reference w = ⟨w, w - 1000 * reference, limit⟩ := by
    unfold measure
    rw [hmpe]
  refine ⟨hm, ?_⟩
  rw [hm]
  unfold resultOf Reading.result
  dsimp only [Option.map_some, Option.getD_some]
  rw [Int.abs_eq_natAbs]
  exact if_congr (by omega) rfl rfl

/-- Settles O46: the rows of AUDIT_STEP in their order, and the completion of a step, which is apart from the decks
(`completeStep_modDeck`). -/
theorem auditStepRows : Obligations.AuditStepRows := by
  refine ⟨fun corr kind reference cell s hs ht => auditStep_rows corr kind reference cell s hs ht, ?_, ?_⟩
  · intro x n deadline st s hs ht hx hn hst
    have hflight : (s.toPart.reach deadline).StepInFlight x n st := ⟨hx, hn, hst⟩
    have hps : (s.toPart.reach deadline).settingsSettled := settled_elapse hs _
    obtain ⟨hsession, htimer, htrail, hlink, hlanes, hpairing, htickets, htables, hsettled⟩ :=
      completed_facts hflight (q := (s.toPart.reach deadline).completeStep none) rfl hps
    have hdecks := (completeStep_decks hflight none).1
    refine ⟨_, endsAs_run .stepTimerExpiry s (fun p => p.expire p.audit.stepTimer fun q => q.completeStep none) _ rfl
      (expire_running ht _) hsettled, hsession, htimer, htrail, hlink, hdecks, htickets, htables, hpairing, hlanes⟩
  · intro x n st wire f c s hs hrun hx hn hst hvisit deck hserv hcal hparse hnode hdeckId hcells hfresh used gap restarts completes
    have h : s.toPart.hearsStep x n st wire f c :=
      ⟨⟨hx, hn, hst⟩, hrun, hserv, hcal, hparse, hnode, hdeckId, hcells, hfresh, hvisit⟩
    refine ⟨fun hbad => ?_, fun hgood _ _ hother => ?_⟩
    · obtain ⟨hr, hq, hothers, hdeck⟩ := sampleFrame_badStep h hbad
      obtain ⟨hends, hrest⟩ := sampleFrame_completes h hs hq hothers hr
      refine ⟨_, hends, ?_, hrest⟩
      refine hdeck.trans ?_
      rw [heardFrame_eq]
      show _ = ({ (if deck.restarts c f then deck.restart else deck) with
        lastSeq := some f.seq, gapCount := min 65535 (deck.gapCount + gap)
        sampleTimer := .running (s.clock.running + 10 * c.timeout)
        remembered := used ++ List.replicate (8 - c.cells.length) .good, badCells := true, status := .noData
        published := none, clearance := .stopped, causes := { deck.causes with cellFault := true }
        persisted := _ } : Deck)
      split
      case isTrue => rfl
      case isFalse => rfl
    · have hframe := sampleFrame_goodStep h hgood hother
      intro y
      have hy' : s.toPart.sampled x.deck c f = y := rfl
      dsimp only at hframe
      rw [hy'] at hframe
      refine ⟨fun hres => ?_, fun hres hy => ?_, fun w hres hy hw => ?_⟩
      · have hothers : ∀ e, e ≠ x.deck → ((s.toPart.completeStep none).modDeck x.deck fun _ => y).deck e = s.toPart.deck e :=
          fun e he => by rw [deck_modDeck, if_neg he, deck_completeStep h.flight]
        have hb : s.toPart.abandoned (deck.restarts c f) = s.toPart.completeStep none := if_pos hres
        rw [hb] at hframe
        have hidle : ((s.toPart.completeStep none).modDeck x.deck fun _ => y).inFlightOn x.deck = none :=
          completeStep_idle h.flight none x.deck
        rw [measureStep_idle hidle, ite_self] at hframe
        obtain ⟨hends, hrest⟩ := sampleFrame_completes h hs (r := none) rfl hothers hframe
        exact ⟨_, hends, deck_modDeck_self .., hrest⟩
      · have hb : s.toPart.abandoned (deck.restarts c f) = s.toPart := if_neg hres
        rw [hb, if_neg hy] at hframe
        exact sampleFrame_step h hframe hvisit (settled_modDeck hs ..)
      · have hb : s.toPart.abandoned (deck.restarts c f) = s.toPart := if_neg hres
        have hflight : (s.toPart.modDeck x.deck fun _ => y).StepInFlight x n st := ⟨hx, hn, hst⟩
        rw [hb, if_pos hy, measureStep_flight hflight (w := w) (by rw [deck_modDeck_self]; exact hw),
          completeStep_modDeck h.flight] at hframe
        intro error limit
        obtain ⟨hm, hresult⟩ := measure_eq c st.reference w.expanded
        set r := measure c.e st.reference w.expanded with hr
        have hothers : ∀ e, e ≠ x.deck → ((s.toPart.completeStep (some r)).modDeck x.deck fun _ => y).deck e = s.toPart.deck e :=
          fun e he => by rw [deck_modDeck, if_neg he, deck_completeStep h.flight]
        obtain ⟨hends, hrest⟩ := sampleFrame_completes h hs (r := some r) rfl hothers hframe
        rw [hresult, hm] at hrest
        exact ⟨_, hends, deck_modDeck_self .., hrest⟩

end Sys2Proof.Machine
end


section
/-! PROOFS. The verdict of the counted steps, and the deck's state after a session (R157, R158). -/

namespace Sys2Proof.Machine

/-! ## The counted steps -/

/-- The step `n` is `x`, and it counts (R157). -/
abbrev stepCounts (first : Nat) (steps : List AuditStepRec) (n : Nat) (x : AuditStepRec) : Prop :=
  first ≤ n ∧ 1 ≤ n ∧ steps[n - 1]? = some x

theorem mem_countedSteps {first : Nat} {steps : List AuditStepRec} {n : Nat} {x : AuditStepRec} :
    (n, x) ∈ countedSteps first steps ↔ stepCounts first steps n x := by
  have hzip : (n, x) ∈ (steps.zipIdx 1).map (fun y => (y.2, y.1)) ↔ 1 ≤ n ∧ steps[n - 1]? = some x := by
    rw [← List.mk_mem_zipIdx_iff_le_and_getElem?_sub, List.mem_map]
    constructor
    · rintro ⟨⟨y, m⟩, hm, heq⟩
      obtain ⟨rfl, rfl⟩ := Prod.mk.inj heq
      exact hm
    · intro h
      exact ⟨(x, n), h, rfl⟩
  unfold countedSteps
  rw [List.mem_filter, hzip, decide_eq_true_iff]
  exact and_comm

theorem countP_range' (first k : Nat) : (List.range' 1 k).countP (fun n => decide (first ≤ n)) = k - (first - 1) := by
  induction k with
  | zero => simp
  | succ k ih =>
    rw [List.range'_1_concat, List.countP_append, ih, List.countP_singleton]
    by_cases h : first ≤ 1 + k
    · rw [if_pos (decide_eq_true h)]
      omega
    · rw [if_neg (by rw [decide_eq_true_iff]; exact h)]
      omega

theorem length_countedSteps (first : Nat) (steps : List AuditStepRec) :
    (countedSteps first steps).length = steps.length - (first - 1) := by
  unfold countedSteps
  rw [← List.countP_eq_length_filter, List.countP_map, ← countP_range', ← List.zipIdx_map_snd, List.countP_map]
  rfl

theorem any_countedSteps {first : Nat} {steps : List AuditStepRec} {P : Nat → AuditStepRec → Prop}
    [∀ n x, Decidable (P n x)] :
    ((countedSteps first steps).any fun x => decide (P x.1 x.2)) = true ↔ ∃ n x, stepCounts first steps n x ∧ P n x := by
  rw [List.any_eq_true]
  constructor
  · rintro ⟨⟨n, x⟩, hx, hP⟩
    exact ⟨n, x, mem_countedSteps.mp hx, of_decide_eq_true hP⟩
  · rintro ⟨n, x, hx, hP⟩
    exact ⟨(n, x), mem_countedSteps.mpr hx, decide_eq_true hP⟩

/-! ## The load steps -/

/-- The counted load steps, with their references. -/
def loadsOf (cs : List (Nat × AuditStepRec)) : List (Nat × Int) :=
  (cs.filter fun x => decide (x.2.kind = .load)).map fun x => (x.1, x.2.reference)

/-- The largest reference of the load steps, 0 without one. -/
def topLoad (cs : List (Nat × AuditStepRec)) : Int := (((loadsOf cs).map (·.2)).eraseDups).foldl max 0

/-- The last load step with the largest reference, 0 without one. -/
def lastTopLoad (cs : List (Nat × AuditStepRec)) : Nat :=
  (((loadsOf cs).filter fun x => decide (x.2 = topLoad cs)).map (·.1)).foldl max 0

theorem nodup_eraseDups {K : Type} [BEq K] [LawfulBEq K] (xs : List K) : xs.eraseDups.Nodup := by
  induction h : xs.length using Nat.strong_induction_on generalizing xs with
  | _ k ih =>
    cases xs with
    | nil => exact List.nodup_nil
    | cons y ys =>
      rw [List.eraseDups_cons, List.nodup_cons]
      refine ⟨fun hm => ?_, ih (ys.filter fun b => !b == y).length ?_ _ rfl⟩
      · rw [List.mem_eraseDups, List.mem_filter] at hm
        simp at hm
      · rw [← h]
        exact Nat.lt_succ_of_le (List.length_filter_le ..)

/-- A list has `k` different members, counted without its duplicates. -/
theorem le_length_eraseDups {K : Type} [BEq K] [LawfulBEq K] {xs : List K} {k : Nat} :
    k ≤ xs.eraseDups.length ↔ ∃ ys : List K, ys.Nodup ∧ k ≤ ys.length ∧ ∀ y ∈ ys, y ∈ xs := by
  constructor
  · intro h
    exact ⟨xs.eraseDups, nodup_eraseDups xs, h, fun y hy => List.mem_eraseDups.mp hy⟩
  · rintro ⟨ys, hys, hk, hsub⟩
    exact hk.trans (hys.subperm fun y hy => List.mem_eraseDups.mpr (hsub y hy)).length_le

section
variable {first : Nat} {steps : List AuditStepRec}

/-- A counted load step with this reference. -/
abbrev countsLoad (first : Nat) (steps : List AuditStepRec) (n : Nat) (w : Int) : Prop :=
  ∃ x, stepCounts first steps n x ∧ x.kind = .load ∧ x.reference = w

theorem mem_loadsOf {n : Nat} {w : Int} : (n, w) ∈ loadsOf (countedSteps first steps) ↔ countsLoad first steps n w := by
  unfold loadsOf
  rw [List.mem_map]
  constructor
  · rintro ⟨⟨m, x⟩, hx, heq⟩
    obtain ⟨rfl, rfl⟩ := Prod.mk.inj heq
    obtain ⟨hx, hk⟩ := List.mem_filter.mp hx
    exact ⟨x, mem_countedSteps.mp hx, of_decide_eq_true hk, rfl⟩
  · rintro ⟨x, hx, hk, rfl⟩
    exact ⟨(n, x), List.mem_filter.mpr ⟨mem_countedSteps.mpr hx, decide_eq_true hk⟩, rfl⟩

theorem mem_references {w : Int} :
    w ∈ (loadsOf (countedSteps first steps)).map (·.2) ↔ ∃ n, countsLoad first steps n w := by
  rw [List.mem_map]
  constructor
  · rintro ⟨⟨n, v⟩, hv, rfl⟩
    exact ⟨n, mem_loadsOf.mp hv⟩
  · rintro ⟨n, hw⟩
    exact ⟨(n, w), mem_loadsOf.mpr hw, rfl⟩

theorem le_topLoad {n : Nat} {w : Int} (h : countsLoad first steps n w) : w ≤ topLoad (countedSteps first steps) :=
  (foldl_max_ge _ 0).2 w (List.mem_eraseDups.mpr (mem_references.mpr ⟨n, h⟩))

variable (hpos : ∀ n w, countsLoad first steps n w → 1 ≤ w)
include hpos

theorem topLoad_counts {n : Nat} {w : Int} (h : countsLoad first steps n w) :
    ∃ m, countsLoad first steps m (topLoad (countedSteps first steps)) := by
  have hle := le_topLoad h
  have hw := hpos n w h
  rcases foldl_max_mem ((loadsOf (countedSteps first steps)).map (·.2)).eraseDups 0 with h0 | hm
  · exact absurd (hle.trans h0.le) (by omega)
  · exact mem_references.mp (List.mem_eraseDups.mp hm)

/-- The steps at the largest reference all come before the step `n`. -/
theorem lastTopLoad_lt {n : Nat} (hn : 1 ≤ n) : lastTopLoad (countedSteps first steps) < n ↔
    ∀ m w, countsLoad first steps m w → (∀ j v, countsLoad first steps j v → v ≤ w) → m < n := by
  constructor
  · intro h m w hm hmax
    obtain ⟨k, hk⟩ := topLoad_counts hpos hm
    have hw : w = topLoad (countedSteps first steps) := le_antisymm (le_topLoad hm) (hmax _ _ hk)
    refine lt_of_le_of_lt ((foldl_max_ge _ 0).2 m (List.mem_map.mpr ⟨(m, w), List.mem_filter.mpr
      ⟨mem_loadsOf.mpr hm, decide_eq_true hw⟩, rfl⟩)) h
  · intro h
    rcases foldl_max_mem (((loadsOf (countedSteps first steps)).filter fun x =>
      decide (x.2 = topLoad (countedSteps first steps))).map (·.1)) 0 with h0 | hm
    · exact lt_of_eq_of_lt h0 hn
    · obtain ⟨⟨k, v⟩, hv, hk⟩ := List.mem_map.mp hm
      obtain ⟨hv, htop⟩ := List.mem_filter.mp hv
      have hv' : v = topLoad (countedSteps first steps) := of_decide_eq_true htop
      refine lt_of_eq_of_lt hk.symm (h k v (mem_loadsOf.mp hv) fun j u hu => ?_)
      rw [hv']
      exact le_topLoad hu

end

/-! ## The verdict (R157) -/

theorem judgeSteps_eq (first : Nat) (steps : List AuditStepRec) (c : Option CalEntry) :
    judgeSteps first steps c =
      if (countedSteps first steps).any fun x => decide (x.2.result = some .fail ∨ x.2.result = some .noStable) then .fail
      else
        match c with
        | none => .incomplete
        | some c =>
          if (countedSteps first steps).any (fun x => decide (x.2.kind = .zero)) &&
              decide (3 ≤ (((loadsOf (countedSteps first steps)).map (·.2)).eraseDups).length) &&
              decide ((c.capacity : Int) ≤ 2 * topLoad (countedSteps first steps)) &&
              ((List.range c.cells.length).all fun i =>
                (countedSteps first steps).any fun x => decide (x.2.kind = .corner ∧ x.2.cell = some i)) &&
              (countedSteps first steps).any fun x =>
                decide (x.2.kind = .returnZero ∧ lastTopLoad (countedSteps first steps) < x.1) then .pass
          else .incomplete := by
  cases c with
  | none => rfl
  | some c => rfl

section
variable {first : Nat} {steps : List AuditStepRec} {c : Option CalEntry}

theorem judgeSteps_fail : judgeSteps first steps c = .fail ↔
    ∃ n x, stepCounts first steps n x ∧ (x.result = some .fail ∨ x.result = some .noStable) := by
  rw [judgeSteps_eq, ← any_countedSteps (P := fun _ x => x.result = some .fail ∨ x.result = some .noStable)]
  split
  case isTrue h => exact iff_of_true rfl h
  case isFalse h =>
    refine iff_of_false ?_ h
    cases c with
    | none =>
      show AuditVerdict.incomplete ≠ .fail
      decide
    | some c =>
      dsimp only
      split
      case isTrue => decide
      case isFalse => decide

/-- What the counted steps need for a PASS, besides that none fails. -/
def stepsComplete (first : Nat) (steps : List AuditStepRec) (k : CalEntry) : Prop :=
  (∃ n x, stepCounts first steps n x ∧ x.kind = .zero) ∧
    (∃ refs : List Int, refs.Nodup ∧ 3 ≤ refs.length ∧
      ∀ r ∈ refs, ∃ n x, stepCounts first steps n x ∧ x.kind = .load ∧ x.reference = r) ∧
    (∃ n x, stepCounts first steps n x ∧ x.kind = .load ∧ (k.capacity : Int) ≤ 2 * x.reference) ∧
    (∀ i, i < k.cells.length → ∃ n x, stepCounts first steps n x ∧ x.kind = .corner ∧ x.cell = some i) ∧
    ∃ n x, stepCounts first steps n x ∧ x.kind = .returnZero ∧ ∀ m y, stepCounts first steps m y → y.kind = .load →
      (∀ j z, stepCounts first steps j z → z.kind = .load → z.reference ≤ y.reference) → m < n

variable (hpos : ∀ n x, stepCounts first steps n x → x.kind = .load → 1 ≤ x.reference)
include hpos

theorem stepsComplete_iff (k : CalEntry) : stepsComplete first steps k ↔
    ((countedSteps first steps).any (fun x => decide (x.2.kind = .zero)) &&
      decide (3 ≤ (((loadsOf (countedSteps first steps)).map (·.2)).eraseDups).length) &&
      decide ((k.capacity : Int) ≤ 2 * topLoad (countedSteps first steps)) &&
      ((List.range k.cells.length).all fun i =>
        (countedSteps first steps).any fun x => decide (x.2.kind = .corner ∧ x.2.cell = some i)) &&
      (countedSteps first steps).any fun x =>
        decide (x.2.kind = .returnZero ∧ lastTopLoad (countedSteps first steps) < x.1)) = true := by
  have hload : ∀ n w, countsLoad first steps n w → 1 ≤ w := by
    rintro n w ⟨x, hx, hk, rfl⟩
    exact hpos n x hx hk
  rw [Bool.and_eq_true, Bool.and_eq_true, Bool.and_eq_true, Bool.and_eq_true, decide_eq_true_iff, decide_eq_true_iff,
    any_countedSteps (P := fun _ x => x.kind = .zero),
    any_countedSteps (P := fun n x => x.kind = .returnZero ∧ lastTopLoad (countedSteps first steps) < n),
    le_length_eraseDups, List.all_eq_true]
  have hcorners : (∀ i ∈ List.range k.cells.length,
      ((countedSteps first steps).any fun x => decide (x.2.kind = .corner ∧ x.2.cell = some i)) = true) ↔
      ∀ i, i < k.cells.length → ∃ n x, stepCounts first steps n x ∧ x.kind = .corner ∧ x.cell = some i :=
    forall_congr' fun i => imp_congr List.mem_range (any_countedSteps (P := fun _ x => x.kind = .corner ∧ x.cell = some i))
  have hrefs : (∃ ys : List Int, ys.Nodup ∧ 3 ≤ ys.length ∧ ∀ y ∈ ys, y ∈ (loadsOf (countedSteps first steps)).map (·.2)) ↔
      ∃ refs : List Int, refs.Nodup ∧ 3 ≤ refs.length ∧
        ∀ r ∈ refs, ∃ n x, stepCounts first steps n x ∧ x.kind = .load ∧ x.reference = r :=
    exists_congr fun ys => and_congr_right' (and_congr_right' (forall₂_congr fun y _ => mem_references))
  have hlast : (∃ n x, stepCounts first steps n x ∧ x.kind = .returnZero ∧ lastTopLoad (countedSteps first steps) < n) ↔
      ∃ n x, stepCounts first steps n x ∧ x.kind = .returnZero ∧ ∀ m y, stepCounts first steps m y → y.kind = .load →
        (∀ j z, stepCounts first steps j z → z.kind = .load → z.reference ≤ y.reference) → m < n := by
    refine exists₂_congr fun n x => and_congr_right fun hx => and_congr_right fun _ => (lastTopLoad_lt hload hx.2.1).trans ?_
    constructor
    · intro h m y hy hk hmax
      refine h m y.reference ⟨y, hy, hk, rfl⟩ ?_
      rintro j v ⟨z, hz, hkz, rfl⟩
      exact hmax j z hz hkz
    · rintro h m w ⟨y, hy, hk, rfl⟩ hmax
      exact h m y hy hk fun j z hz hkz => hmax j z.reference ⟨z, hz, hkz, rfl⟩
  rw [hcorners, hrefs, hlast]
  unfold stepsComplete
  constructor
  · rintro ⟨hzero, hr, ⟨n, x, hx, hk, hcap⟩, hc, hl⟩
    have htop := le_topLoad (first := first) (steps := steps) ⟨x, hx, hk, rfl⟩
    exact ⟨⟨⟨⟨hzero, hr⟩, by omega⟩, hc⟩, hl⟩
  · rintro ⟨⟨⟨⟨hzero, hr⟩, hcap⟩, hc⟩, hl⟩
    refine ⟨hzero, hr, ?_, hc, hl⟩
    obtain ⟨refs, -, hlen, hrefs⟩ := hr
    obtain ⟨r, hr⟩ := List.exists_mem_of_length_pos (Nat.lt_of_lt_of_le (by decide : 0 < 3) hlen)
    obtain ⟨n, x, hx, hk, -⟩ := hrefs r hr
    obtain ⟨m, y, hy, hky, htop⟩ := topLoad_counts hload ⟨x, hx, hk, rfl⟩
    exact ⟨m, y, hy, hky, htop ▸ hcap⟩

theorem judgeSteps_pass : judgeSteps first steps c = .pass ↔
    (¬ ∃ n x, stepCounts first steps n x ∧ (x.result = some .fail ∨ x.result = some .noStable)) ∧
      ∃ k, c = some k ∧ stepsComplete first steps k := by
  rw [← judgeSteps_fail (c := c), judgeSteps_eq]
  split
  case isTrue h => exact iff_of_false (by decide) fun k => k.1 rfl
  case isFalse h =>
    cases c with
    | none => simp
    | some k =>
      dsimp only
      simp only [Option.some.injEq, exists_eq_left', stepsComplete_iff hpos]
      split
      case isTrue hc => exact iff_of_true rfl ⟨by decide, hc⟩
      case isFalse hc => exact iff_of_false (by decide) fun k => hc k.2

end

/-! ## The deck's state after a session (R158) -/

theorem stateAfterSession_rows (writes : Nat) (o : ServiceState) (causes : DeckCauses) :
    stateAfterSession .fail writes o causes = .suspended ∧
    stateAfterSession .pass writes o causes = (if causes = .empty then .trade else .fault) ∧
    (1 ≤ writes → stateAfterSession .incomplete writes o causes = .suspended) ∧
    stateAfterSession .incomplete 0 .trade causes = (if causes = .empty then .trade else .fault) ∧
    stateAfterSession .incomplete 0 .fault causes = (if causes = .empty then .suspended else .fault) ∧
    stateAfterSession .incomplete 0 .suspended causes = .suspended :=
  ⟨rfl, rfl, fun h => if_pos (Nat.one_le_iff_ne_zero.mp h), rfl, rfl, rfl⟩

/-- No session leaves its deck in AUDIT. -/
theorem stateAfterSession_ne (v : AuditVerdict) (writes : Nat) (o : ServiceState) (causes : DeckCauses) :
    stateAfterSession v writes o causes ≠ .audit := by
  unfold stateAfterSession
  split
  · split
    case isTrue => decide
    case isFalse => decide
  · decide
  · split
    case isTrue => decide
    case isFalse =>
      split
      · split
        case isTrue => decide
        case isFalse => decide
      · split
        case isTrue => decide
        case isFalse => decide
      · decide

end Sys2Proof.Machine
end


section
/-! PROOFS. The end of a session: AUDIT_CLOSE and AUDIT_ABORT (R40, R144, R146, R157-R159). -/

namespace Sys2Proof.Machine

/-! ## Image write marks (R146) -/

/-- The store with the image write mark of deck `d` set. -/
def Store.marked (x : Store) (d : DeckId) : Store :=
  { x with tableQueue := insertMark x.marking d x.tableQueue, marking := d :: x.marking }

/-- From `p` to `q` at most the image write mark of deck `d`, which has an entry, has been set. -/
def Part.marks (p q : Part) (d : DeckId) : Prop :=
  q.store = p.store ∨
    (p.deck d).cal.isSome = true ∧ TableOp.image d ∉ p.store.tableQueue ∧ q.store = p.store.marked d

theorem mem_marked (x : Store) (d : DeckId) : TableOp.image d ∈ (x.marked d).tableQueue :=
  (mem_insertMark _ _ _ _).mpr (.inl rfl)

theorem Part.marks.trans {p q r : Part} {d : DeckId} (h : p.marks q d) (k : q.marks r d)
    (hc : (q.deck d).cal.isSome = (p.deck d).cal.isSome) : p.marks r d := by
  rcases h with h | ⟨hcal, hno, h⟩
  · rcases k with k | ⟨kcal, kno, k⟩
    · exact .inl (k.trans h)
    · exact .inr ⟨hc ▸ kcal, h ▸ kno, h ▸ k⟩
  · rcases k with k | ⟨-, kno, -⟩
    · exact .inr ⟨hcal, hno, k.trans h⟩
    · exact absurd (h ▸ mem_marked p.store d) kno

theorem markImage_marks (p : Part) (d : DeckId) :
    p.marks (p.markImage d) d ∧ ((p.deck d).cal.isSome = true → TableOp.image d ∈ (p.markImage d).store.tableQueue) := by
  refine ⟨?_, (markImage_facts p d).2.1⟩
  unfold Part.markImage
  by_cases h : (p.deck d).cal.isNone = true ∨ TableOp.image d ∈ p.store.tableQueue
  · rw [if_pos h]
    exact .inl rfl
  · rw [if_neg h]
    obtain ⟨hcal, hno⟩ := not_or.mp h
    refine .inr ⟨Option.isSome_iff_ne_none.mpr fun k => hcal ?_, hno, rfl⟩
    rw [k]
    rfl

theorem deck_markImage (p : Part) (d e : DeckId) : (p.markImage d).deck e = p.deck e := by
  rw [(markImage_facts p d).1]
  rfl

theorem judgePersisted_marks (p : Part) (d : DeckId) : p.marks (p.judgePersisted d) d := by
  unfold Part.judgePersisted
  dsimp only
  split
  case isTrue => exact .inl rfl
  case isFalse =>
    have hmarks := (markImage_marks (p.modDeck d fun x => { x with persisted := (p.deck d).persistedValue }) d).1
    unfold Part.marks at hmarks ⊢
    rwa [deck_modDeck_self] at hmarks

theorem marks_of_store {p q r : Part} {d : DeckId} (h : p.marks q d) (hr : r.store = q.store) : p.marks r d := by
  unfold Part.marks at h ⊢
  rwa [hr]

/-- What the marks say of the store and its queue, the last mark having been set. -/
theorem marks_rows {p q : Part} {d : DeckId} (h : p.marks q d)
    (hset : (p.deck d).cal.isSome = true → TableOp.image d ∈ q.store.tableQueue) :
    ((p.deck d).cal = none → q.store = p.store) ∧
      ((p.deck d).cal ≠ none → TableOp.image d ∈ q.store.tableQueue) ∧
      (TableOp.image d ∈ p.store.tableQueue → q.store = p.store) ∧
      ((p.deck d).cal ≠ none → TableOp.image d ∉ p.store.tableQueue → p.store.marking = [] →
        q.store.tableQueue = p.store.tableQueue ++ [.image d]) := by
  have hset' : (p.deck d).cal ≠ none → TableOp.image d ∈ q.store.tableQueue := fun hc =>
    hset (Option.isSome_iff_ne_none.mpr hc)
  rcases h with h | ⟨hcal, hno, h⟩
  · refine ⟨fun _ => h, hset', fun _ => h, fun hc hno _ => ?_⟩
    have := hset' hc
    rw [h] at this
    exact absurd this hno
  · refine ⟨fun hc => ?_, hset', fun hq => absurd hq hno, fun _ _ hm => ?_⟩
    · rw [hc] at hcal
      exact absurd hcal Bool.false_ne_true
    · rw [h]
      unfold Store.marked
      rw [hm]
      exact insertMark_first d _

/-! ## Notices one after the other -/

/-- One more notice is handed over, after those that made the link. -/
theorem told_next {p q : Part} {bs : List NoticeBody} (h : q.link = p.told bs) (hc : q.clock = p.clock) (b : NoticeBody) :
    (q.notify b).link = p.told (bs ++ [b]) := by
  rw [told_concat]
  exact link_notify (p := { p with link := p.told bs }) h hc b

theorem told_append {p q : Part} {as : List NoticeBody} (h : q.link = p.told as) (hc : q.clock = p.clock)
    (bs : List NoticeBody) : q.told bs = p.told (as ++ bs) := by
  induction bs generalizing q as with
  | nil =>
    rw [List.append_nil]
    exact h
  | cons b bs ih =>
    have := ih (q := q.notify b) (as := as ++ [b]) (told_next h hc b) hc
    rwa [List.append_assoc] at this

/-! ## Step 3 of R144 on a lane in AUDIT -/

theorem laneRaise_audit {p : Part} {l : LaneId} (h : (p.lane l).state = .audit) :
    p.laneRaise l .deckFault = p.modLane l fun x => { x with causes := { x.causes with deckFault := true } } := by
  unfold Part.laneRaise
  by_cases hc : (p.lane l).causes.has .deckFault = true
  · rw [if_pos hc]
    refine (modLane_id p l ?_).symm
    have hd : (p.lane l).causes.deckFault = true := hc
    rw [← hd]
  · rw [if_neg hc]
    dsimp only
    rw [h]
    dsimp only
    rw [ite_self]
    rfl

/-- The causes of a lane in AUDIT after the state of one of its decks has changed from AUDIT to `new`. -/
def LaneCauses.afterAudit (c : LaneCauses) (new : ServiceState) : LaneCauses :=
  { c with deckFault := c.deckFault || decide (new = .fault) }

theorem leavesAudit_lane {p : Part} {l : LaneId} (h : (p.lane l).state = .audit) (new : ServiceState) :
    (if new = .fault then p.laneRaise l .deckFault else p) =
      p.modLane l fun x => { x with causes := x.causes.afterAudit new } := by
  unfold LaneCauses.afterAudit
  by_cases hn : new = .fault
  · rw [if_pos hn, laneRaise_audit h, hn]
    simp
  · rw [if_neg hn, decide_eq_false hn]
    simp only [Bool.or_false]
    exact (modLane_id p l rfl).symm

/-- What a change of state from AUDIT leaves of the lane. -/
def Lane.afterAudit (x y : Lane) (new : ServiceState) : Prop :=
  sameButTrailFull { x with causes := x.causes.afterAudit new } y

section
variable {p : Part} {d : DeckId} {new : ServiceState}

/-- The change of a deck from AUDIT, on a lane in AUDIT, without a step in flight (R144). -/
theorem changeService_fromAudit (hs : (p.deck d).service = .audit) (hl : (p.lane (laneOf d)).state = .audit)
    (hi : p.inFlightOn d = none) (hn : new ≠ .audit) :
    let q := p.changeService d new
    q = { p with decks := q.decks, lanes := q.lanes, store := q.store, link := p.told [.deckService d .audit new (p.deck d).causes],
                 audit := { p.audit with trail := p.handed (some d) (.service .audit new (p.deck d).causes) } } ∧
      ((q.deck d).causes = (p.deck d).causes ∧ (q.deck d).service = new ∧ (q.deck d).cal = (p.deck d).cal ∧
        (q.deck d).counter = (p.deck d).counter) ∧
      (∀ e, e ≠ d → q.deck e = p.deck e) ∧ (p.lane (laneOf d)).afterAudit (q.lane (laneOf d)) new ∧
      (∀ l, l ≠ laneOf d → sameButTrailFull (p.lane l) (q.lane l)) ∧ p.marks q d := by
  have hq : p.changeService d new = ((if new = .fault then (p.serviceHead d new).laneRaise (laneOf d) .deckFault
      else p.serviceHead d new)).serviceTail d .audit new := by
    unfold Part.changeService
    rw [hs]
    dsimp only
    rw [if_neg (Ne.symm hn), if_neg (show ¬ ServiceState.audit = .fault by decide)]
  obtain ⟨hdeck, hothers, hlanes, hhead⟩ := serviceHead_facts p d new hi
  rw [hs] at hhead
  dsimp only
  rw [hq]
  generalize p.serviceHead d new = h at *
  have hstate : (h.lane (laneOf d)).state = .audit := by
    rw [(lane_of_sameButTrailFull (hlanes (laneOf d))).1]
    exact hl
  rw [leavesAudit_lane hstate]
  have hfields : (h.deck d).causes = (p.deck d).causes ∧ (h.deck d).service = new ∧ (h.deck d).cal = (p.deck d).cal ∧
      (h.deck d).counter = (p.deck d).counter := by
    rw [hdeck]
    split
    case isTrue => exact ⟨rfl, rfl, rfl, rfl⟩
    case isFalse => exact ⟨rfl, rfl, rfl, rfl⟩
  obtain ⟨hcauses, hservice, hcal, hcounter⟩ := hfields
  set c := h.modLane (laneOf d) fun x => { x with causes := x.causes.afterAudit new } with hc
  have hcdeck : ∀ e, c.deck e = h.deck e := fun _ => rfl
  obtain ⟨htail, htailDecks, htailDeck⟩ := serviceTail_facts c d .audit new
  have hjudged := judgePersisted_facts c d
  have hlink : (c.serviceTail d .audit new).link = p.told [.deckService d .audit new (p.deck d).causes] := by
    unfold Part.serviceTail
    dsimp only
    have hjlink : (c.judgePersisted d).link = p.link ∧ (c.judgePersisted d).clock = p.clock := by
      rw [hjudged.1, hc, hhead]
      exact ⟨rfl, rfl⟩
    rw [hjudged.2.2]
    dsimp only
    rw [hcdeck, hcauses]
    exact link_notify hjlink.1 hjlink.2 _
  have hmarks : p.marks (c.serviceTail d .audit new) d := by
    have hj := judgePersisted_marks c d
    unfold Part.marks at hj ⊢
    rw [hcdeck, hcal] at hj
    have hstore : c.store = p.store := by
      rw [hc, hhead]
      rfl
    rw [hstore] at hj
    exact hj
  have hclane : ∀ l, c.lane l = if l = laneOf d then { h.lane (laneOf d) with
      causes := (h.lane (laneOf d)).causes.afterAudit new } else h.lane l := fun l => lane_modLane h (laneOf d) l _
  generalize c.serviceTail d .audit new = q at *
  have hqlane : ∀ l, q.lane l = c.lane l := fun l => by
    rw [htail]
    rfl
  refine ⟨?_, ?_, fun e he => ?_, ?_, fun l hne => ?_, hmarks⟩
  · rw [htail, hlink, hc, hhead]
    rfl
  · rw [htailDeck]
    exact ⟨hcauses, hservice, hcal, hcounter⟩
  · rw [htailDecks e he, hcdeck, hothers e he]
  · unfold Lane.afterAudit sameButTrailFull
    rw [hqlane, hclane, if_pos rfl, hlanes (laneOf d)]
  · rw [hqlane, hclane, if_neg hne]
    exact hlanes l

end

/-! ## The lane leaves AUDIT (R40) -/

/-- The state in which a lane leaves AUDIT. -/
def Part.leavesFor (p : Part) (l : LaneId) (atOpen : LaneState) : LaneState :=
  if (p.lane l).causes ≠ .empty then .fault
  else if atOpen = .opened ∧ (l.decks.all fun d => decide ((p.deck d).service = .trade)) = true ∧
      (p.lane l).blocks.closeRequested = false then .opened
  else .closed

theorem leaveAudit_eq {p : Part} {l : LaneId} (h : (p.lane l).state = .audit) (atOpen : LaneState) :
    p.leaveAudit l atOpen = (p.modLane l fun x => { x with
      state := p.leavesFor l atOpen
      blocks := if p.leavesFor l atOpen = .closed then { x.blocks with closeRequested := false } else x.blocks }).notify
        (.laneState l (p.leavesFor l atOpen) (p.lane l).causes) := by
  have henter : p.leaveAudit l atOpen = p.enterLaneState l (p.leavesFor l atOpen) := by
    unfold Part.leaveAudit Part.leavesFor
    dsimp only
    split
    case isTrue => rfl
    case isFalse =>
      split
      case isTrue => rfl
      case isFalse => rfl
  have hne : p.leavesFor l atOpen ≠ .audit := by
    unfold Part.leavesFor
    split
    case isTrue => decide
    case isFalse =>
      split
      case isTrue => decide
      case isFalse => decide
  rw [henter, enterLaneState_ne p l _ (by rw [h]; exact hne.symm)]

/-! ## The end of a session (R158) -/

/-- The session `x` ends on deck `x.deck`: how the part stands, and with which verdict. -/
structure Part.Ends (p : Part) (x : Session) (v : AuditVerdict) (o : AtOpen) (causes : DeckCauses) (after : ServiceState) :
    Prop where
  service : (p.deck x.deck).service = .audit
  lane : (p.lane (laneOf x.deck)).state = .audit
  idle : p.inFlightOn x.deck = none
  kept : causes = if v = .pass then (p.deck x.deck).causes.autoOnly else (p.deck x.deck).causes
  becomes : after = stateAfterSession v x.writes o.deck causes
  sound : after = .trade → ∀ k, (p.deck x.deck).cal = some k → k.damaged = true ∨ k.parityOk = true

/-- The trail once the session has handed its two records to it. -/
def Part.endsTrail (p : Part) (x : Session) (v : AuditVerdict) (aborted : Bool) (o : AtOpen) (causes : DeckCauses)
    (after : ServiceState) : Trail :=
  ({ p with audit := { p.audit with trail := p.handed (some x.deck) (.auditClose v aborted x.steps.length
    (x.steps.length - (x.firstCounted - 1)) x.writes o.count (p.deck x.deck).counter after) } } : Part).handed (some x.deck)
      (.service .audit after causes)

/-- What the end of a session leaves of its lane (R40). -/
def Lane.leftAudit (y z : Lane) (atOpen : LaneState) (trades : Prop) (after : ServiceState) : Prop :=
  z.causes = y.causes.afterAudit after ∧
    (z.causes ≠ .empty → z.state = .fault) ∧
    (z.causes = .empty → (atOpen = .opened ∧ trades ∧ y.blocks.closeRequested = false → z.state = .opened) ∧
      (atOpen ≠ .opened ∨ ¬ trades ∨ y.blocks.closeRequested = true → z.state = .closed ∧ z.blocks.closeRequested = false)) ∧
    z.state ≠ .audit

/-- The decks of the lane all trade. -/
def Part.allTrade (p : Part) (l : LaneId) : Prop := ∀ e ∈ l.decks, (p.deck e).service = .trade

theorem allTrade_iff (p : Part) (l : LaneId) :
    (l.decks.all fun d => decide ((p.deck d).service = .trade)) = true ↔ p.allTrade l := by
  rw [List.all_eq_true]
  exact forall₂_congr fun _ _ => decide_eq_true_iff

section
variable {p : Part} {x : Session} {v : AuditVerdict} {o : AtOpen} {causes : DeckCauses} {after : ServiceState}

/-- The deck of the session that ends takes its causes and its state, with both records handed to the trail. -/
def Part.leavesService (p : Part) (x : Session) (v : AuditVerdict) (aborted : Bool) (o : AtOpen) (causes : DeckCauses)
    (after : ServiceState) : Part :=
  ((p.handTrail (some x.deck) (.auditClose v aborted x.steps.length (x.steps.length - (x.firstCounted - 1)) x.writes o.count
    (p.deck x.deck).counter after)).modDeck x.deck fun y => { y with causes := causes }).changeService x.deck after

theorem leavesService_facts (h : p.Ends x v o causes after) (aborted : Bool) :
    let q := p.leavesService x v aborted o causes after
    q = { p with decks := q.decks, lanes := q.lanes, store := q.store,
                 link := p.told [.deckService x.deck .audit after causes],
                 audit := { p.audit with trail := p.endsTrail x v aborted o causes after } } ∧
      ((q.deck x.deck).causes = causes ∧ (q.deck x.deck).service = after ∧ (q.deck x.deck).cal = (p.deck x.deck).cal ∧
        (q.deck x.deck).counter = (p.deck x.deck).counter) ∧
      (∀ e, e ≠ x.deck → q.deck e = p.deck e) ∧ (p.lane (laneOf x.deck)).afterAudit (q.lane (laneOf x.deck)) after ∧
      (∀ l, l ≠ laneOf x.deck → sameButTrailFull (p.lane l) (q.lane l)) ∧ p.marks q x.deck := by
  obtain ⟨hservice, hlane, hidle, -, hafter, -⟩ := h
  set b : TrailBody := .auditClose v aborted x.steps.length (x.steps.length - (x.firstCounted - 1)) x.writes o.count
    (p.deck x.deck).counter after with hb
  have hq : p.leavesService x v aborted o causes after =
      ((p.handTrail (some x.deck) b).modDeck x.deck fun y => { y with causes := causes }).changeService x.deck after := rfl
  obtain ⟨hrest, hlanes⟩ := handTrail_facts p (some x.deck) b
  have hflight := inFlightOn_handTrail p (some x.deck) b x.deck
  dsimp only
  rw [hq]
  generalize p.handTrail (some x.deck) b = t at *
  have htdeck : ∀ e, t.deck e = p.deck e := fun e => by
    rw [hrest]
    rfl
  set c := t.modDeck x.deck fun y => { y with causes := causes } with hc
  have hcdeck : c.deck x.deck = { p.deck x.deck with causes := causes } := by
    rw [hc, deck_modDeck_self, htdeck]
  have hcstate : (c.lane (laneOf x.deck)).state = .audit :=
    (lane_of_sameButTrailFull (hlanes (laneOf x.deck))).1.trans hlane
  obtain ⟨hch, ⟨hcauses, hnew, hcal, hcounter⟩, hothers, hleft, hlanes', hmarks⟩ := changeService_fromAudit (p := c)
    (d := x.deck) (new := after) (by rw [hcdeck]; exact hservice) hcstate (hflight.trans hidle)
    (by rw [hafter]; exact stateAfterSession_ne v x.writes o.deck causes)
  rw [hcdeck] at hch hcauses hcal hcounter
  have hlink : c.link = p.link ∧ c.clock = p.clock ∧ c.store = p.store := by
    rw [hc, hrest]
    exact ⟨rfl, rfl, rfl⟩
  have htold : c.told [.deckService x.deck .audit after causes] = p.told [.deckService x.deck .audit after causes] :=
    link_notify hlink.1 hlink.2.1 _
  have htrail : c.handed (some x.deck) (.service .audit after causes) = p.endsTrail x v aborted o causes after := by
    unfold Part.endsTrail
    refine handed_congr (p := { p with audit := { p.audit with trail := p.handed (some x.deck) b } }) ?_ hlink.2.1 _ _
    rw [hc, hrest]
    rfl
  have hmarks' : p.marks (c.changeService x.deck after) x.deck := by
    unfold Part.marks at hmarks ⊢
    rwa [hcdeck, hlink.2.2] at hmarks
  have hcrest : c = { p with decks := c.decks, lanes := c.lanes, audit := c.audit } ∧ c.audit = { p.audit with
      trail := p.handed (some x.deck) b } := by
    rw [hc, hrest]
    exact ⟨rfl, rfl⟩
  have hclane : ∀ l, sameButTrailFull (p.lane l) (c.lane l) := hlanes
  have hcothers : ∀ e, e ≠ x.deck → c.deck e = p.deck e := fun e he => by
    rw [hc, deck_modDeck, if_neg he, htdeck]
  rw [htold, htrail, hcrest.2] at hch
  generalize c.changeService x.deck after = q at *
  refine ⟨?_, ⟨hcauses, hnew, hcal, hcounter⟩, fun e he => (hothers e he).trans (hcothers e he), ?_, fun l hl => ?_, hmarks'⟩
  · rw [hch, hcrest.1]
  · have hbefore := hclane (laneOf x.deck)
    unfold Lane.afterAudit sameButTrailFull at *
    rw [hleft, hbefore]
  · exact sameButTrailFull_trans (hclane l) (hlanes' l hl)

/-- The rest of the end: the marker goes, the image is to be written, no session stands, and the lane leaves AUDIT. -/
def Part.closesSession (p : Part) (d : DeckId) (atOpen : LaneState) (b : NoticeBody) : Part :=
  ((((p.modDeck d fun y => { y with marker := none }).markImage d).modAudit fun a =>
    { a with session := none, waitTimer := .stopped, stepTimer := .stopped }).leaveAudit (laneOf d) atOpen).notify b

theorem closesSession_facts {d : DeckId} (h : (p.lane (laneOf d)).state = .audit) (atOpen : LaneState) (b : NoticeBody) :
    let q := p.closesSession d atOpen b
    let z := q.lane (laneOf d)
    q = { p with decks := q.decks, lanes := q.lanes, store := q.store,
                 link := p.told [.laneState (laneOf d) z.state z.causes, b],
                 audit := { p.audit with session := none, waitTimer := .stopped, stepTimer := .stopped } } ∧
      q.deck d = { p.deck d with marker := none } ∧ (∀ e, e ≠ d → q.deck e = p.deck e) ∧
      z = { p.lane (laneOf d) with
        state := p.leavesFor (laneOf d) atOpen
        blocks := if p.leavesFor (laneOf d) atOpen = .closed then { (p.lane (laneOf d)).blocks with closeRequested := false }
          else (p.lane (laneOf d)).blocks } ∧
      (∀ l, l ≠ laneOf d → q.lane l = p.lane l) ∧
      p.marks q d ∧ ((p.deck d).cal.isSome = true → TableOp.image d ∈ q.store.tableQueue) := by
  have hq : p.closesSession d atOpen b = ((((p.modDeck d fun y => { y with marker := none }).markImage d).modAudit fun a =>
    { a with session := none, waitTimer := .stopped, stepTimer := .stopped }).leaveAudit (laneOf d) atOpen).notify b := rfl
  have hmarks := markImage_marks (p.modDeck d fun y => { y with marker := none }) d
  obtain ⟨hrest, -, -⟩ := markImage_facts (p.modDeck d fun y => { y with marker := none }) d
  have hmdeck : ∀ e, ((p.modDeck d fun y => { y with marker := none }).markImage d).deck e =
      if e = d then { p.deck d with marker := none } else p.deck e := fun e => by
    rw [deck_markImage]
    exact deck_modDeck ..
  have hmarks' : p.marks ((p.modDeck d fun y => { y with marker := none }).markImage d) d := by
    have hmarks := hmarks.1
    unfold Part.marks at hmarks ⊢
    rwa [deck_modDeck_self] at hmarks
  rw [deck_modDeck_self] at hmarks
  dsimp only
  rw [hq]
  generalize (p.modDeck d fun y => { y with marker := none }).markImage d = m at *
  set c := m.modAudit fun a => { a with session := none, waitTimer := .stopped, stepTimer := .stopped } with hc
  have hclane : ∀ l, c.lane l = p.lane l := fun l => by
    rw [hc, hrest]
    rfl
  have hleaves : c.leavesFor (laneOf d) atOpen = p.leavesFor (laneOf d) atOpen := by
    have hserv : ∀ e, (c.deck e).service = (p.deck e).service := fun e => by
      rw [show c.deck e = m.deck e from rfl, hmdeck]
      by_cases he : e = d
      · rw [if_pos he, he]
      · rw [if_neg he]
    unfold Part.leavesFor
    simp only [hclane, hserv]
  rw [leaveAudit_eq (by rw [hclane]; exact h), hleaves, hclane]
  set st := p.leavesFor (laneOf d) atOpen with hst
  have hzlane : ∀ l, (((c.modLane (laneOf d) fun x => { x with
      state := st, blocks := if st = .closed then { x.blocks with closeRequested := false } else x.blocks }).notify
        (.laneState (laneOf d) st (p.lane (laneOf d)).causes)).notify b).lane l = if l = laneOf d then
          { p.lane (laneOf d) with
            state := st
            blocks := if st = .closed then { (p.lane (laneOf d)).blocks with closeRequested := false }
              else (p.lane (laneOf d)).blocks } else p.lane l := fun l => by
    rw [lane_notify, lane_notify, lane_modLane, hclane, hclane]
  have hz := (hzlane (laneOf d)).trans (if_pos rfl)
  refine ⟨?_, ?_, fun e he => ?_, hz, fun l hl => (hzlane l).trans (if_neg hl), ?_, hmarks.2⟩
  · have hlink := told_next (told_next (p := p) (bs := []) (q := c.modLane (laneOf d) fun x => { x with
        state := st, blocks := if st = .closed then { x.blocks with closeRequested := false } else x.blocks })
      (by rw [hc, hrest]; rfl) (by rw [hc, hrest]; rfl) (.laneState (laneOf d) st (p.lane (laneOf d)).causes))
      (by rw [hc, hrest]; rfl) b
    rw [List.nil_append, List.singleton_append] at hlink
    rw [hz, ← hlink]
    show _ = { p with decks := m.decks, lanes := _, store := m.store, link := _, audit := { p.audit with
      session := none, waitTimer := .stopped, stepTimer := .stopped } }
    rw [hc, hrest]
    rfl
  · exact (hmdeck d).trans (if_pos rfl)
  · exact (hmdeck e).trans (if_neg he)
  · exact marks_of_store hmarks' rfl

end

theorem leavesFor_rows {y z : Lane} {p : Part} {l : LaneId} {atOpen : LaneState} {after : ServiceState}
    (hbefore : y.afterAudit (p.lane l) after)
    (hz : z = { p.lane l with
      state := p.leavesFor l atOpen
      blocks := if p.leavesFor l atOpen = .closed then { (p.lane l).blocks with closeRequested := false }
        else (p.lane l).blocks }) : y.leftAudit z atOpen (p.allTrade l) after := by
  have hcauses : (p.lane l).causes = y.causes.afterAudit after := congrArg Lane.causes hbefore
  have hclose : (p.lane l).blocks.closeRequested = y.blocks.closeRequested :=
    (congrArg (fun x : Lane => x.blocks.closeRequested) hbefore).trans rfl
  have hzcauses : z.causes = (p.lane l).causes := (congrArg Lane.causes hz).trans rfl
  have hzstate : z.state = p.leavesFor l atOpen := congrArg Lane.state hz
  unfold Lane.leftAudit
  rw [hzcauses, hzstate, ← hcauses, ← hclose]
  unfold Part.leavesFor
  refine ⟨rfl, fun hc => if_pos hc, fun hc => ?_, ?_⟩
  · rw [if_neg (not_not.mpr hc)]
    refine ⟨fun h => if_pos ⟨h.1, (allTrade_iff p l).mpr h.2.1, h.2.2⟩, fun h => ?_⟩
    have hclosed : p.leavesFor l atOpen = .closed := by
      unfold Part.leavesFor
      rw [if_neg (not_not.mpr hc)]
      refine if_neg ?_
      rintro ⟨hopen, htrade, hreq⟩
      rcases h with h | h | h
      · exact h hopen
      · exact h ((allTrade_iff p l).mp htrade)
      · rw [hreq] at h
        exact absurd h Bool.false_ne_true
    have hstate := hclosed
    unfold Part.leavesFor at hstate
    rw [if_neg (not_not.mpr hc)] at hstate
    refine ⟨hstate, ?_⟩
    rw [hz, hclosed]
    rfl
  · split
    case isTrue => decide
    case isFalse =>
      split
      case isTrue => decide
      case isFalse => decide

theorem endSession_eq {p : Part} {x : Session} {v : AuditVerdict} {o : AtOpen} {causes : DeckCauses}
    {after : ServiceState} (h : p.Ends x v o causes after) (aborted : Bool) : p.endSession x o v aborted =
      ((p.leavesService x v aborted o causes after).closesSession x.deck o.lane (.auditEnded x.deck v after)).tradeRead
        x.deck after := by
  obtain ⟨-, -, -, hkept, hbecomes, -⟩ := h
  unfold Part.endSession
  dsimp only
  rw [← hkept, ← hbecomes, length_countedSteps]
  rfl

/-- Everything that the end of a session changes. -/
theorem endSession_facts {p : Part} {x : Session} {v : AuditVerdict} {o : AtOpen} {causes : DeckCauses}
    {after : ServiceState} (h : p.Ends x v o causes after) (aborted : Bool) :
    let q := p.endSession x o v aborted
    let z := q.lane (laneOf x.deck)
    q = { p with decks := q.decks, lanes := q.lanes, store := q.store, link := q.link, audit := { p.audit with
          session := none, waitTimer := .stopped, stepTimer := .stopped, trail := p.endsTrail x v aborted o causes after } } ∧
      q.link = p.told [.deckService x.deck .audit after causes, .laneState (laneOf x.deck) z.state z.causes,
        .auditEnded x.deck v after] ∧
      ((q.deck x.deck).marker = none ∧ (q.deck x.deck).causes = causes ∧ (q.deck x.deck).service = after ∧
        (q.deck x.deck).cal = (p.deck x.deck).cal ∧ (q.deck x.deck).counter = (p.deck x.deck).counter) ∧
      (∀ e, e ≠ x.deck → q.deck e = p.deck e) ∧
      (p.lane (laneOf x.deck)).leftAudit z o.lane (q.allTrade (laneOf x.deck)) after ∧
      (∀ l, (q.lane l).adoptedActive = (p.lane l).adoptedActive) ∧
      p.marks q x.deck ∧ ((p.deck x.deck).cal.isSome = true → TableOp.image x.deck ∈ q.store.tableQueue) := by
  obtain ⟨hserv, ⟨hcauses, hservice, hcal, hcounter⟩, hothers, hlane, hlanes, hmarks⟩ := leavesService_facts h aborted
  have heq := endSession_eq h aborted
  have hlane' : ((p.leavesService x v aborted o causes after).lane (laneOf x.deck)).state = .audit :=
    (congrArg Lane.state hlane).trans h.lane
  generalize p.leavesService x v aborted o causes after = m at *
  obtain ⟨hclosed, hqdeck, hqothers, hz, hqlanes, hqmarks, hset⟩ := closesSession_facts hlane' o.lane
    (.auditEnded x.deck v after)
  have hread : (m.closesSession x.deck o.lane (.auditEnded x.deck v after)).tradeRead x.deck after =
      m.closesSession x.deck o.lane (.auditEnded x.deck v after) := by
    unfold Part.tradeRead
    by_cases ha : after = .trade
    · rw [if_pos ha]
      refine readEntry_sound ?_
      rw [hqdeck]
      dsimp only
      rw [hcal]
      exact h.sound ha
    · exact if_neg ha
  rw [hread] at heq
  dsimp only
  rw [heq]
  generalize m.closesSession x.deck o.lane (.auditEnded x.deck v after) = q at *
  have hclock : m.clock = p.clock ∧ m.link = p.told [.deckService x.deck .audit after causes] := by
    rw [hserv]
    exact ⟨rfl, rfl⟩
  have hlink : q.link = p.told [.deckService x.deck .audit after causes, .laneState (laneOf x.deck)
      (q.lane (laneOf x.deck)).state (q.lane (laneOf x.deck)).causes, .auditEnded x.deck v after] := by
    refine (congrArg Part.link hclosed).trans ?_
    exact told_append hclock.2 hclock.1 _
  have htrades : q.allTrade (laneOf x.deck) ↔ m.allTrade (laneOf x.deck) := by
    refine forall₂_congr fun e _ => ?_
    by_cases he : e = x.deck
    · rw [he, hqdeck]
    · rw [hqothers e he]
  refine ⟨?_, hlink, ⟨?_, ?_, ?_, ?_, ?_⟩, fun e he => (hqothers e he).trans (hothers e he), ?_, fun l => ?_, ?_, fun hc => ?_⟩
  · obtain ⟨D, L, S, K, hq⟩ : ∃ D L S K, q = { m with decks := D, lanes := L, store := S, link := K, audit := { m.audit with
        session := none, waitTimer := .stopped, stepTimer := .stopped } } := ⟨_, _, _, _, hclosed⟩
    obtain ⟨D', L', S', hm⟩ : ∃ D L S, m = { p with decks := D, lanes := L, store := S
                                                    link := p.told [.deckService x.deck .audit after causes]
                                                    audit := { p.audit with
                                                      trail := p.endsTrail x v aborted o causes after } } := ⟨_, _, _, hserv⟩
    rw [hq, hm]
  · rw [hqdeck]
  · rw [hqdeck]
    exact hcauses
  · rw [hqdeck]
    exact hservice
  · rw [hqdeck]
    exact hcal
  · rw [hqdeck]
    exact hcounter
  · have hrows := leavesFor_rows hlane hz
    unfold Lane.leftAudit at hrows ⊢
    rwa [htrades]
  · by_cases hl : l = laneOf x.deck
    · rw [hl, hz]
      exact (congrArg Lane.adoptedActive hlane).trans rfl
    · rw [hqlanes l hl]
      exact (lane_of_sameButTrailFull (hlanes l hl)).2.2.2
  · exact hmarks.trans hqmarks (by rw [hcal])
  · exact hset (by rw [hcal]; exact hc)

end Sys2Proof.Machine
end


section
/-! PROOFS. The rows of AUDIT_CLOSE and AUDIT_ABORT, and what the session that ends leaves (R40, R157-R159). -/

namespace Sys2Proof.Machine

/-! ## The read of the entry that a close brings (R142) -/

theorem raiseCause_marks {p : Part} {d : DeckId} (h : (p.deck d).service ≠ .trade) (c : DeckCause) :
    p.marks (p.raiseCause d c) d := by
  unfold Part.raiseCause
  by_cases hc : (p.deck d).causes.has c = true
  · rw [if_pos hc]
    exact .inl rfl
  · rw [if_neg hc]
    dsimp only
    rw [if_neg h]
    have hmarks := judgePersisted_marks (p.modDeck d fun x => { x with causes := x.causes.add c }) d
    unfold Part.marks at hmarks ⊢
    rwa [deck_modDeck_self] at hmarks

/-- `b` is `p` as the end of the session on deck `d` finds it: a failing entry has been read, or a step abandoned. -/
structure Part.BeforeEnd (p b : Part) (d : DeckId) : Prop where
  rest : b = { p with decks := b.decks, store := b.store, link := b.link, audit := b.audit }
  trail : b.audit.trail = p.audit.trail
  others : ∀ e, e ≠ d → b.deck e = p.deck e
  service : (b.deck d).service = (p.deck d).service
  counter : (b.deck d).counter = (p.deck d).counter
  present : (b.deck d).cal.isSome = (p.deck d).cal.isSome
  marks : p.marks b d

theorem beforeEnd_audit (p : Part) (a : AuditUnit) (h : a.trail = p.audit.trail) (k : Link) (d : DeckId) :
    p.BeforeEnd { p with audit := a, link := k } d :=
  ⟨rfl, h, fun _ _ => rfl, rfl, rfl, rfl, .inl rfl⟩

/-- An entry that fails its check as the audit unit reads it. -/
theorem readEntry_fails {p : Part} {d : DeckId} {k : CalEntry} (hcal : (p.deck d).cal = some ⟨k, false, false⟩)
    (hs : (p.deck d).service = .audit) (hi : p.inFlightOn d = none) :
    let b := p.readEntry d
    p.BeforeEnd b d ∧ b.audit = p.audit ∧ b.link = p.told [.parity (.deck d)] ∧
      (b.deck d).causes = { (p.deck d).causes with tableParity := true } ∧ (b.deck d).cal = some ⟨k, false, true⟩ := by
  have hread : p.readEntry d = ((p.modDeck d Deck.entryFailed).raiseCause d .tableParity).notify (.parity (.deck d)) := by
    rw [← entryParityFailure_idle hi]
    unfold Part.readEntry
    rw [hcal]
    rfl
  have hdeck : (p.modDeck d Deck.entryFailed).deck d = (p.deck d).entryFailed := deck_modDeck_self ..
  have hfailed : (p.deck d).entryFailed.cal = some ⟨k, false, true⟩ := by
    unfold Deck.entryFailed
    rw [hcal]
    rfl
  have hnot : ((p.modDeck d Deck.entryFailed).deck d).service ≠ .trade := by
    rw [hdeck]
    exact ne_of_eq_of_ne (show (p.deck d).entryFailed.service = .audit from hs) (by decide)
  obtain ⟨hrest, hothers, hq⟩ := raiseCause_notTrade hnot .tableParity
  have hmarks := raiseCause_marks hnot .tableParity
  rw [hdeck] at hq
  dsimp only
  rw [hread]
  have hmarks' : p.marks ((p.modDeck d Deck.entryFailed).raiseCause d .tableParity) d := by
    unfold Part.marks at hmarks ⊢
    rw [hdeck, hfailed] at hmarks
    rw [hcal]
    exact hmarks
  generalize (p.modDeck d Deck.entryFailed).raiseCause d .tableParity = r at *
  have hrdeck : ∀ e, (r.notify (.parity (.deck d))).deck e = r.deck e := fun _ => rfl
  refine ⟨⟨?_, ?_, fun e he => ?_, ?_, ?_, ?_, marks_of_store hmarks' rfl⟩, ?_, ?_, ?_, ?_⟩
  · rw [hrest]
    rfl
  · rw [hrest]
    rfl
  · rw [hrdeck, hothers e he, deck_modDeck, if_neg he]
  · rw [hrdeck, hq]
    rfl
  · rw [hrdeck, hq]
    rfl
  · rw [hrdeck, hq, hcal]
    dsimp only
    rw [hfailed]
    rfl
  · rw [hrest]
    rfl
  · exact link_notify (p := p) (by rw [hrest]; rfl) (by rw [hrest]; rfl) _
  · rw [hrdeck, hq]
    rfl
  · rw [hrdeck, hq]
    exact hfailed

/-! ## What the session leaves -/

/-- What the end of the session `x` leaves in `q` (R40, R144, R146, R158). -/
def Part.leaves (p q : Part) (x : Session) (o : AtOpen) (v : AuditVerdict) (aborted : Bool) (causes : DeckCauses)
    (cal : Option CalSlot) : Prop :=
  let after := stateAfterSession v x.writes o.deck causes
  let closed := p.handed (some x.deck) (.auditClose v aborted x.steps.length (x.steps.length - (x.firstCounted - 1))
    x.writes o.count (p.deck x.deck).counter after)
  q.audit.trail = ({ p with audit := { p.audit with trail := closed } } : Part).handed (some x.deck)
    (.service .audit after causes) ∧
  (cal = none → q.store = p.store) ∧
  (cal ≠ none → TableOp.image x.deck ∈ q.store.tableQueue) ∧
  (TableOp.image x.deck ∈ p.store.tableQueue → q.store = p.store) ∧
  (cal ≠ none → TableOp.image x.deck ∉ p.store.tableQueue → p.store.marking = [] →
    q.store.tableQueue = p.store.tableQueue ++ [.image x.deck]) ∧
  q.audit.session = none ∧ q.audit.stepTimer = .stopped ∧ q.audit.waitTimer = .stopped ∧
  (q.deck x.deck).marker = none ∧ (q.deck x.deck).causes = causes ∧ (q.deck x.deck).service = after ∧
  (q.deck x.deck).cal = cal ∧ (q.deck x.deck).counter = (p.deck x.deck).counter ∧
  (let y := p.lane (laneOf x.deck)
   let z := q.lane (laneOf x.deck)
   z.causes = { y.causes with deckFault := y.causes.deckFault || decide (after = .fault) } ∧
   (z.causes ≠ .empty → z.state = .fault) ∧
   (z.causes = .empty → (o.lane = .opened ∧ (∀ e ∈ (laneOf x.deck).decks, (q.deck e).service = .trade) ∧
     y.blocks.closeRequested = false → z.state = .opened) ∧
     (o.lane ≠ .opened ∨ (∃ e ∈ (laneOf x.deck).decks, (q.deck e).service ≠ .trade) ∨
       y.blocks.closeRequested = true → z.state = .closed ∧ z.blocks.closeRequested = false))) ∧
  (q.lane (laneOf x.deck)).state ≠ .audit ∧ q.tickets = p.tickets ∧ q.tables = p.tables ∧ q.pairing = p.pairing ∧
  ∀ e, e ≠ x.deck → q.deck e = p.deck e

/-- The notices of the end of the session (R144, R41, R158). -/
def Part.endNotices (q : Part) (x : Session) (o : AtOpen) (v : AuditVerdict) (causes : DeckCauses) : List NoticeBody :=
  let after := stateAfterSession v x.writes o.deck causes
  let z := q.lane (laneOf x.deck)
  [.deckService x.deck .audit after causes, .laneState (laneOf x.deck) z.state z.causes, .auditEnded x.deck v after]

section
variable {p b : Part} {x : Session} {v : AuditVerdict} {o : AtOpen} {causes : DeckCauses} {after : ServiceState}
  {aborted : Bool}

theorem settled_endSession (hs : b.settingsSettled) (h : b.Ends x v o causes after) :
    (b.endSession x o v aborted).settingsSettled := by
  obtain ⟨hrest, -, -, -, -, hadopted, -, -⟩ := endSession_facts h aborted
  refine settled_lane hs ?_ hadopted
  rw [hrest]

/-- What a session leaves, however the part stood before its end. -/
theorem endSession_leaves (hb : p.BeforeEnd b x.deck) (h : b.Ends x v o causes after) :
    p.leaves (b.endSession x o v aborted) x o v aborted causes (b.deck x.deck).cal := by
  obtain ⟨hrest, -, ⟨hmarker, hcauses, hservice, hcal, hcounter⟩, hothers, hlane, -, hmarks, hset⟩ :=
    endSession_facts h aborted
  have hafter : after = stateAfterSession v x.writes o.deck causes := h.becomes
  obtain ⟨hbrest, htrail, hbothers, -, hbcounter, hpresent, hbmarks⟩ := hb
  have hclock : b.clock = p.clock := by rw [hbrest]
  have hends : b.endsTrail x v aborted o causes after = p.endsTrail x v aborted o causes after := by
    unfold Part.endsTrail
    rw [hbcounter, handed_congr htrail hclock]
    generalize p.handed (some x.deck) _ = t
    exact handed_congr (p := { p with audit := { p.audit with trail := t } })
      (q := { b with audit := { b.audit with trail := t } }) rfl hclock _ _
  rw [hends] at hrest
  have hall := hbmarks.trans hmarks hpresent
  rw [hpresent] at hset
  obtain ⟨hnone, hsome, hthere, hqueue⟩ := marks_rows hall hset
  have hiff : (b.deck x.deck).cal = none ↔ (p.deck x.deck).cal = none := by
    rw [← Option.isNone_iff_eq_none, ← Option.isNone_iff_eq_none, ← Option.not_isSome, ← Option.not_isSome, hpresent]
  have hblane : b.lane (laneOf x.deck) = p.lane (laneOf x.deck) := by
    rw [hbrest]
    rfl
  rw [hblane] at hlane
  obtain ⟨hlcauses, hfault, hempty, hstate⟩ := hlane
  generalize b.endSession x o v aborted = q at *
  subst hafter
  refine ⟨?_, fun hc => hnone (hiff.mp hc), fun hc => hsome (mt hiff.mpr hc), hthere, fun hc => hqueue (mt hiff.mpr hc), ?_, ?_,
    ?_, hmarker, hcauses, hservice, hcal, hcounter.trans hbcounter, ⟨hlcauses, hfault, fun hc => ⟨(hempty hc).1, fun hk => ?_⟩⟩,
    hstate, ?_, ?_, ?_, fun e he => (hothers e he).trans (hbothers e he)⟩
  · rw [hrest]
    rfl
  · rw [hrest]
  · rw [hrest]
  · rw [hrest]
  · refine (hempty hc).2 (hk.imp_right (Or.imp_left ?_))
    rintro ⟨e, he, hne⟩ hall
    exact hne (hall e he)
  · rw [hrest, hbrest]
  · rw [hrest, hbrest]
  · rw [hrest, hbrest]

/-- The notices of the end, after those that came before it. -/
theorem endSession_link (hclock : b.clock = p.clock) {found : List NoticeBody} (hlink : b.link = p.told found)
    (h : b.Ends x v o causes after) :
    (b.endSession x o v aborted).link = p.told (found ++ (b.endSession x o v aborted).endNotices x o v causes) := by
  obtain ⟨-, hq, -⟩ := endSession_facts h aborted
  have hafter : after = stateAfterSession v x.writes o.deck causes := h.becomes
  subst hafter
  exact hq.trans (told_append hlink hclock _)

/-! ## The rows of AUDIT_CLOSE (R157) -/

variable {corr : U16}

theorem auditClose_open (hx : p.audit.session = some x) (ho : x.atOpen = some o) : p.auditClose corr =
    if p.auditBusy x then p.refuse corr .auditClose .busy
    else
      let q := p.readEntry x.deck
      let v := judgeSteps x.firstCounted x.steps (q.deck x.deck).entry
      (q.endSession x o v false).done corr .auditClose (.verdict v) := by
  unfold Part.auditClose
  rw [hx]
  dsimp only
  rw [ho]

theorem auditAbort_idle (hx : p.audit.session = some x) (hw : p.audit.calWrite = none) (ho : x.atOpen = some o) :
    p.auditAbort corr = ((({ p with audit := { p.audit with
      session := some { x with inFlight := none }, stepTimer := .stopped } } : Part).endSession { x with inFlight := none } o
        .incomplete true).done corr .auditAbort) := by
  have hno : ¬ p.audit.calWrite.isSome = true := by
    rw [hw]
    exact Bool.false_ne_true
  unfold Part.auditAbort
  rw [hx]
  dsimp only
  rw [if_neg hno, ho]
  dsimp only [Part.modAudit]

end

section
variable {s : State} {corr : U16} {x : Session} {o : AtOpen}

theorem auditClose_endsAs (ht : s.toPart.takes corr) {q : Part}
    (hq : (s.toPart.admitted corr .auditClose).auditClose corr = q) (hs : q.settingsSettled) :
    endsAs (.auditClose corr) s q :=
  request_endsAs (.auditClose corr) s corr .auditClose (·.auditClose corr) q 0 rfl ht hq hs

theorem auditAbort_endsAs (ht : s.toPart.takes corr) {q : Part}
    (hq : (s.toPart.admitted corr .auditAbort).auditAbort corr = q) (hs : q.settingsSettled) :
    endsAs (.auditAbort corr) s q :=
  request_endsAs (.auditAbort corr) s corr .auditAbort (·.auditAbort corr) q 0 rfl ht hq hs

/-- AUDIT_CLOSE of a session without a step in flight, `b` being the part once the entry has been read. -/
theorem auditClose_closes (hs : s.toPart.settingsSettled) (ht : s.toPart.takes corr) (hx : s.audit.session = some x)
    (hw : s.audit.calWrite = none) (ho : x.atOpen = some o) (hi : x.inFlight = none)
    (hserv : (s.toPart.deck x.deck).service = .audit) (hlane : (s.toPart.lane (laneOf x.deck)).state = .audit) {b : Part}
    (hread : (s.toPart.admitted corr .auditClose).readEntry x.deck = b) (hb : s.toPart.BeforeEnd b x.deck)
    (haudit : b.audit = s.audit) {found : List NoticeBody}
    (hlink : b.link = (s.toPart.admitted corr .auditClose).told found)
    {entry : Option CalEntry} (hentry : (b.deck x.deck).entry = entry) {known : DeckCauses}
    (hfound : (b.deck x.deck).causes = known) {cal : Option CalSlot} (hcal : (b.deck x.deck).cal = cal)
    (hsound : ∀ k, cal = some k → k.damaged = true ∨ k.parityOk = true) :
    ∃ q, endsAs (.auditClose corr) s q ∧
      let p := s.toPart.admitted corr .auditClose
      let v := judgeSteps x.firstCounted x.steps entry
      let after := if v = .pass then known.autoOnly else known
      s.toPart.leaves q x o v false after cal ∧
      q.link = (({ p with link := p.told (found ++ q.endNotices x o v after) } : Part).done corr .auditClose (.verdict v)).link := by
  subst hentry hfound hcal
  set v := judgeSteps x.firstCounted x.steps (b.deck x.deck).entry with hv
  set causes := if v = .pass then (b.deck x.deck).causes.autoOnly else (b.deck x.deck).causes with hcauses
  have hflight : b.inFlightOn x.deck = none := by
    unfold Part.inFlightOn
    rw [haudit, hx]
    exact (if_pos rfl).trans hi
  have hblane : b.lane (laneOf x.deck) = s.toPart.lane (laneOf x.deck) := by
    rw [hb.rest]
    rfl
  have hclock : b.clock = s.clock := by rw [hb.rest]
  have hends : b.Ends x v o causes (stateAfterSession v x.writes o.deck causes) :=
    ⟨hb.service.trans hserv, by rw [hblane]; exact hlane, hflight, hcauses, rfl, fun _ => hsound⟩
  have hbs : b.settingsSettled := by
    have hrest := hb.rest
    refine settled_of hs ?_ ?_ ?_
    · rw [hrest]
    · rw [hrest]
      rfl
    · rw [hrest]
      rfl
  have hrow : (s.toPart.admitted corr .auditClose).auditClose corr =
      (b.endSession x o v false).done corr .auditClose (.verdict v) := by
    have hrow := auditClose_open (p := s.toPart.admitted corr .auditClose) (corr := corr) hx ho
    rw [if_neg (auditBusy_idle (p := s.toPart.admitted corr .auditClose) hi hw), hread] at hrow
    exact hrow
  refine ⟨_, auditClose_endsAs ht hrow (settled_done (settled_endSession hbs hends) ..), endSession_leaves hb hends, ?_⟩
  exact link_done (p := { s.toPart.admitted corr .auditClose with link := _ })
    (endSession_link (p := s.toPart.admitted corr .auditClose) hclock hlink hends) ..

end

/-- Settles O48: `judgeSteps_pass` for the verdict, and `endSession_leaves` for the session that ends. -/
theorem auditEnds : Obligations.AuditEnds := by
  refine ⟨?_, stateAfterSession_rows, ?_⟩
  · intro first steps c counted fails hpos
    exact ⟨judgeSteps_fail, judgeSteps_pass hpos⟩
  intro corr s hs ht p r
  have hps : p.settingsSettled := settled_admitted hs ..
  have hrs : r.settingsSettled := settled_admitted hs ..
  have closes {q : Part} (h : p.auditClose corr = q) (hq : q.settingsSettled) : endsAs (.auditClose corr) s q :=
    auditClose_endsAs ht h hq
  have aborts {q : Part} (h : r.auditAbort corr = q) (hq : q.settingsSettled) : endsAs (.auditAbort corr) s q :=
    auditAbort_endsAs ht h hq
  refine ⟨fun hnone => ⟨closes ?_ (settled_refuse hps ..), aborts ?_ (settled_refuse hrs ..)⟩, fun x hx hw => ⟨fun ho => ?_, ?_⟩,
    fun x hx hw => ⟨fun ho => ⟨closes ?_ (settled_refuse hps ..), aborts ?_ ?_⟩, fun o ho hserv hlane => ?_⟩⟩
  · unfold Part.auditClose
    rw [show p.audit.session = none from hnone]
  · unfold Part.auditAbort
    rw [show r.audit.session = none from hnone]
  · obtain ⟨o, ho⟩ := Option.ne_none_iff_exists'.mp ho
    exact closes ((auditClose_open (p := p) hx ho).trans (if_pos (auditBusy_of (p := p) (.inr hw)))) (settled_refuse hps ..)
  · refine aborts ?_ (settled_refuse hrs ..)
    unfold Part.auditAbort
    rw [show r.audit.session = some x from hx]
    exact if_pos (Option.isSome_iff_ne_none.mpr hw)
  · unfold Part.auditClose
    rw [show p.audit.session = some x from hx]
    dsimp only
    rw [ho]
  · unfold Part.auditAbort
    rw [show r.audit.session = some x from hx]
    dsimp only
    have hno : ¬ r.audit.calWrite.isSome = true := by
      rw [show r.audit.calWrite = none from hw]
      exact Bool.false_ne_true
    rw [if_neg hno, ho]
    rfl
  · exact settled_done (settled_waits hrs _ (laneOf x.deck) fun b => { b with auditPending := false }) ..
  · have hservice : ∀ q, s.toPart.BeforeEnd q x.deck → (q.deck x.deck).service = .audit := fun q hq => hq.service.trans hserv
    intro deck left ended closesWith
    refine ⟨fun hi => ?_, fun hi => ⟨fun hcal => ?_, fun k => ⟨fun b hcal => ?_, fun hcal => ?_, fun hcal => ?_⟩⟩, fun hsound => ?_⟩
    · exact closes ((auditClose_open (p := p) hx ho).trans (if_pos (auditBusy_of (p := p) (.inl hi)))) (settled_refuse hps ..)
    · have hread : p.readEntry x.deck = p := readEntry_sound fun k hk => absurd (hcal.symm.trans hk) (Option.some_ne_none k).symm
      have hentry : (p.deck x.deck).entry = none := by
        unfold Deck.entry
        rw [show (p.deck x.deck).cal = none from hcal]
        rfl
      exact auditClose_closes hs ht hx hw ho hi hserv hlane hread (beforeEnd_audit s.toPart s.audit rfl p.link x.deck) rfl
        (found := []) rfl hentry rfl hcal fun k hk => absurd hk.symm (Option.some_ne_none k)
    · have hsound : ∀ j, deck.cal = some j → j.damaged = true ∨ j.parityOk = true := by
        rintro j hj
        rw [hcal] at hj
        exact .inl (Option.some.inj hj ▸ rfl)
      have hentry : (p.deck x.deck).entry = none := by
        unfold Deck.entry
        rw [show (p.deck x.deck).cal = some ⟨k, b, true⟩ from hcal]
        rfl
      exact auditClose_closes hs ht hx hw ho hi hserv hlane (readEntry_sound (p := p) hsound)
        (beforeEnd_audit s.toPart s.audit rfl p.link x.deck) rfl (found := []) rfl hentry rfl rfl hsound
    · have hsound : ∀ j, deck.cal = some j → j.damaged = true ∨ j.parityOk = true := by
        rintro j hj
        rw [hcal] at hj
        exact .inr (Option.some.inj hj ▸ rfl)
      exact auditClose_closes hs ht hx hw ho hi hserv hlane (readEntry_sound (p := p) hsound)
        (beforeEnd_audit s.toPart s.audit rfl p.link x.deck) rfl (found := []) rfl (entry_some.mpr ⟨true, hcal⟩) rfl rfl hsound
    · have hflight : p.inFlightOn x.deck = none := by
        unfold Part.inFlightOn
        rw [show p.audit.session = some x from hx]
        exact (if_pos rfl).trans hi
      obtain ⟨hb, haudit, hlink, hcauses, hcal'⟩ := readEntry_fails (p := p) hcal hserv hflight
      have hentry : ((p.readEntry x.deck).deck x.deck).entry = none := by
        unfold Deck.entry
        rw [hcal']
        rfl
      exact auditClose_closes hs ht hx hw ho hi hserv hlane rfl
        ⟨hb.rest, hb.trail, hb.others, hb.service, hb.counter, hb.present, hb.marks⟩ haudit hlink hentry hcauses hcal'
        fun j hj => .inl (Option.some.inj hj ▸ rfl)
    · set y : Session := { x with inFlight := none } with hy
      set b : Part := { r with audit := { r.audit with session := some y, stepTimer := .stopped } } with hb
      have hflight : b.inFlightOn y.deck = none := if_pos rfl
      have hends : b.Ends y .incomplete o deck.causes (stateAfterSession .incomplete x.writes o.deck deck.causes) :=
        ⟨hserv, hlane, hflight, rfl, rfl, fun ht' k hk => (or_assoc.mpr (hsound k hk)).resolve_right (not_not.mpr ht')⟩
      have hbe : s.toPart.BeforeEnd b y.deck := beforeEnd_audit s.toPart b.audit rfl b.link y.deck
      have hbs : b.settingsSettled := settled_of hrs rfl rfl rfl
      have hlink := endSession_link (p := r) (b := b) (aborted := true) (found := []) rfl rfl hends
      refine ⟨_, aborts (auditAbort_idle (p := r) hx hw ho) (settled_done (settled_endSession hbs hends) ..),
        endSession_leaves hbe hends, ?_⟩
      exact link_done (p := { r with link := r.told ((b.endSession y o .incomplete true).endNotices y o .incomplete deck.causes) })
        hlink corr .auditAbort .none

end Sys2Proof.Machine
end


section
/-! PROOFS. The store hold and its reads (R171-R173), the fetches and the acknowledgements (R121-R123, R163, R164). -/

namespace Sys2Proof.Machine

section
variable {p : Part} {corr : U16}

/-! ## A hold is granted (R171) -/

/-- The part once the hold that `corr` requested has been granted. -/
def Part.holdGranted (p : Part) (corr : U16) : Part :=
  (({ p with store := { p.store with
    hold := .held, ending := .no, holdReadCount := 0
    holdTimer := .running (p.clock.running + 10000 * p.site.holdLimit) } } : Part).done corr .storeHold).notify
      (.holdGranted p.site.holdLimit)

theorem settled_holdGranted (h : p.settingsSettled) (corr : U16) : (p.holdGranted corr).settingsSettled :=
  settled_of h rfl rfl rfl

theorem grantHold_waits (h : p.store.op ≠ none) : p.grantHold = p := by
  unfold Part.grantHold
  obtain ⟨o, ho⟩ := Option.ne_none_iff_exists'.mp h
  rw [ho]
  cases p.store.hold with
  | none => rfl
  | requested _ => rfl
  | held => rfl

theorem grantHold_free (hs : p.settingsSettled) (h : p.store.hold = .requested corr) (ho : p.store.op = none) :
    p.grantHold = p.holdGranted corr := by
  unfold Part.grantHold
  rw [h, ho]
  dsimp only
  rw [checkSite_settled p hs]
  unfold Part.start Part.now Part.holdGranted
  rw [← Nat.mul_assoc]
  rfl

/-! ## The reads of a hold (R173) -/

theorem holdOpen_iff : p.holdOpen = true ↔ p.store.hold = .held ∧ p.store.ending = .no := decide_eq_true_iff

/-- The rows of HOLD_READ. -/
theorem holdRead_rows (corr : U16) (address : U32) (length : U16) :
    (memSize ≤ address.toNat → p.holdRead corr address length = p.refuse corr .holdRead .badTarget) ∧
    (address.toNat < memSize →
      (length.toNat = 0 ∨ 256 < length.toNat ∨ memSize < address.toNat + length.toNat →
        p.holdRead corr address length = p.refuse corr .holdRead .badValue) ∧
      (¬ (length.toNat = 0 ∨ 256 < length.toNat ∨ memSize < address.toNat + length.toNat) →
        (p.holdOpen = false → p.holdRead corr address length = p.refuse corr .holdRead .noHold) ∧
        (p.holdOpen = true → p.holdRead corr address length = (p.modStore fun x => { x with
          holdReads := x.holdReads ++ [⟨corr, address.toNat, length.toNat⟩] }).beginRead))) := by
  unfold Part.holdRead
  refine ⟨fun h => if_pos h, fun h => ⟨fun hv => (if_neg (Nat.not_le.mpr h)).trans (if_pos hv), fun hv => ?_⟩⟩
  refine ⟨fun ho => (if_neg (Nat.not_le.mpr h)).trans ((if_neg hv).trans (if_pos ho)), fun ho => ?_⟩
  refine (if_neg (Nat.not_le.mpr h)).trans ((if_neg hv).trans (if_neg ?_))
  rw [ho]
  decide

theorem beginRead_waits (h : p.store.op ≠ none) : p.beginRead = p := by
  unfold Part.beginRead
  split
  · rfl
  · refine if_neg fun k => ?_
    exact h (Option.isNone_iff_eq_none.mp k.1)

theorem beginRead_begins {r : PendingRead} {rs : List PendingRead} (hr : p.store.holdReads = r :: rs)
    (ho : p.store.op = none) (he : p.store.ending = .no) : p.beginRead = p.modStore fun x => { x with
      holdReads := rs, op := some ⟨.holdRead r.corr r.length, r.address, []⟩ } := by
  unfold Part.beginRead
  rw [hr]
  exact if_pos ⟨Option.isNone_iff_eq_none.mpr ho, he⟩

end

/-- Settles O51: the grant of a hold is `Part.holdGranted`, and a read begins where the port is free. -/
theorem holdAndReads : Obligations.HoldAndReads := by
  refine ⟨?_, ?_, ?_, ?_⟩
  · intro corr s hs ht p
    have hps : p.settingsSettled := settled_admitted hs ..
    have run {q : Part} (h : p.storeHold corr = q) (hq : q.settingsSettled) : endsAs (.storeHold corr) s q :=
      request_endsAs (.storeHold corr) s corr .storeHold (·.storeHold corr) q 0 rfl ht h hq
    refine ⟨fun hnone => ?_, fun hhold => run ?_ (settled_refuse hps ..)⟩
    · have hrow : p.storeHold corr = (p.modStore fun x => { x with hold := .requested corr }).grantHold := by
        unfold Part.storeHold
        rw [show p.store.hold = .none from hnone]
      have hws : (p.modStore fun x => { x with hold := .requested corr }).settingsSettled := settled_of hps rfl rfl rfl
      refine ⟨fun ho => run (hrow.trans (grantHold_waits ho)) hws, fun ho => ?_⟩
      exact run (hrow.trans (grantHold_free (p := p.modStore fun x => { x with hold := .requested corr }) hws rfl ho))
        (settled_holdGranted hws corr)
    · unfold Part.storeHold
      cases hh : p.store.hold with
      | none => exact absurd hh hhold
      | requested _ => rfl
      | held => rfl
  · intro corr s hs hhold
    have run {q : Part} (h : s.toPart.grantHold = q) (hq : q.settingsSettled) : endsAs .storeHoldGrant s q :=
      endsAs_run .storeHoldGrant s Part.grantHold q rfl h hq
    exact ⟨fun ho => run (grantHold_waits ho) hs, fun ho => run (grantHold_free hs hhold ho) (settled_holdGranted hs corr)⟩
  · intro corr address length s hs ht a n c p
    have hps : p.settingsSettled := settled_admitted hs ..
    have run {q : Part} (h : p.holdRead corr address length = q) (hq : q.settingsSettled) : endsAs c s q :=
      request_endsAs c s corr .holdRead (·.holdRead corr address length) q 0 rfl ht h hq
    obtain ⟨hbeyond, hwithin⟩ := holdRead_rows (p := p) corr address length
    refine ⟨fun h => run (hbeyond h) (settled_refuse hps ..), fun h hv => run ((hwithin h).1 hv) (settled_refuse hps ..),
      fun h1 h256 hend => ?_⟩
    have ha : address.toNat < memSize := by
      show a < 0x80000
      omega
    have hv : ¬ (length.toNat = 0 ∨ 256 < length.toNat ∨ memSize < address.toNat + length.toNat) := by
      show ¬ (n = 0 ∨ 256 < n ∨ 0x80000 < a + n)
      omega
    obtain ⟨hnot, hopen⟩ := (hwithin ha).2 hv
    refine ⟨fun h => run (hnot ?_) (settled_refuse hps ..), fun hheld he => ?_⟩
    · refine Bool.eq_false_of_not_eq_true fun k => ?_
      obtain ⟨hheld, he⟩ := holdOpen_iff.mp k
      exact h.elim (· hheld) (· he)
    · have hrow := hopen (holdOpen_iff.mpr ⟨hheld, he⟩)
      refine ⟨fun ho => run (hrow.trans (beginRead_waits ho)) (settled_of hps rfl rfl rfl), fun ho hr => ?_⟩
      have hone : (p.modStore fun x => { x with holdReads := x.holdReads ++ [⟨corr, a, n⟩] }).store.holdReads =
          ⟨corr, a, n⟩ :: [] := by
        show p.store.holdReads ++ [⟨corr, a, n⟩] = _
        rw [show p.store.holdReads = [] from hr]
        rfl
      refine run (hrow.trans ((beginRead_begins hone ho he).trans ?_)) (settled_of hps rfl rfl rfl)
      exact congrArg (fun rs : List PendingRead => ({ p with store := { p.store with
        holdReads := rs, op := some ⟨.holdRead corr n, a, []⟩ } } : Part)) (show [] = p.store.holdReads from hr.symm)
  · intro corr a n bytes s hs hop he hr
    have hends := holdReadDone_endsAs hs hop
    rw [answerRead_freePort] at hends
    have hsettle : (s.toPart.readAnswered corr ((List.range n).map fun i => memRead s.mem (a + i))).settleHold =
        s.toPart.readAnswered corr ((List.range n).map fun i => memRead s.mem (a + i)) := by
      unfold Part.settleHold
      rw [show (s.toPart.readAnswered corr _).store.ending = .no from he]
      unfold Part.beginRead
      rw [show (s.toPart.readAnswered corr _).store.holdReads = [] from hr]
    rw [hsettle] at hends
    exact hends

/-! ## Fetches and acknowledgements -/

section
variable {p : Part} {corr : U16}

theorem ticketAck_rows (n : U32) :
    (p.store.fault = true → p.ticketAck corr n = p.refuse corr .ticketAck .storeFault) ∧
    (p.store.fault = false →
      (p.tickets.ack ≠ none → p.ticketAck corr n = p.refuse corr .ticketAck .busy) ∧
      (p.tickets.ack = none →
        ((p.tickets.unread = 0 ∨ n.toNat ≠ p.tickets.oldestUnread) →
          p.ticketAck corr n = p.refuse corr .ticketAck .outOfOrder) ∧
        (¬ (p.tickets.unread = 0 ∨ n.toNat ≠ p.tickets.oldestUnread) →
          p.ticketAck corr n = { p with tickets := { p.tickets with ack := some corr, markWaiting := true } }))) := by
  unfold Part.ticketAck
  refine ⟨fun h => if_pos h, fun h => ?_⟩
  have hok : ¬ p.store.fault = true := by
    rw [h]
    exact Bool.false_ne_true
  refine ⟨fun ha => (if_neg hok).trans (if_pos (Option.isSome_iff_ne_none.mpr ha)), fun ha => ?_⟩
  have hnone : ¬ p.tickets.ack.isSome = true := fun k => Option.isSome_iff_ne_none.mp k ha
  exact ⟨fun ho => (if_neg hok).trans ((if_neg hnone).trans (if_pos ho)),
    fun ho => (if_neg hok).trans ((if_neg hnone).trans (if_neg ho))⟩

theorem trailAck_rows (n : U32) :
    (p.store.fault = true → p.trailAck corr n = p.refuse corr .trailAck .storeFault) ∧
    (p.store.fault = false →
      (p.audit.trail.ack ≠ none → p.trailAck corr n = p.refuse corr .trailAck .busy) ∧
      (p.audit.trail.ack = none →
        ((p.audit.trail.unacknowledged = 0 ∨ n.toNat ≠ p.audit.trail.oldest) →
          p.trailAck corr n = p.refuse corr .trailAck .outOfOrder) ∧
        (¬ (p.audit.trail.unacknowledged = 0 ∨ n.toNat ≠ p.audit.trail.oldest) →
          p.trailAck corr n = p.modTrail fun t => { t with ack := some corr, markWaiting := true }))) := by
  unfold Part.trailAck
  dsimp only
  refine ⟨fun h => if_pos h, fun h => ?_⟩
  have hok : ¬ p.store.fault = true := by
    rw [h]
    exact Bool.false_ne_true
  refine ⟨fun ha => (if_neg hok).trans (if_pos (Option.isSome_iff_ne_none.mpr ha)), fun ha => ?_⟩
  have hnone : ¬ p.audit.trail.ack.isSome = true := fun k => Option.isSome_iff_ne_none.mp k ha
  exact ⟨fun ho => (if_neg hok).trans ((if_neg hnone).trans (if_pos ho)),
    fun ho => (if_neg hok).trans ((if_neg hnone).trans (if_neg ho))⟩

end

/-- Settles O53, by the rows of each fetch and of each acknowledgement. -/
theorem fetchesAndAcks : Obligations.FetchesAndAcks := by
  refine ⟨?_, ?_⟩
  · intro corr n s hs ht tf rf ta ra t r
    have hts : ta.settingsSettled := settled_admitted hs ..
    have hrs : ra.settingsSettled := settled_admitted hs ..
    have fetches {q : Part} (h : tf.ticketFetch corr = q) (hq : q.settingsSettled) : endsAs (.ticketFetch corr) s q :=
      request_endsAs (.ticketFetch corr) s corr .ticketFetch (·.ticketFetch corr) q 0 rfl ht h hq
    have trails {q : Part} (h : rf.trailFetch corr = q) (hq : q.settingsSettled) : endsAs (.trailFetch corr) s q :=
      request_endsAs (.trailFetch corr) s corr .trailFetch (·.trailFetch corr) q 0 rfl ht h hq
    have acks {q : Part} (h : ta.ticketAck corr n = q) (hq : q.settingsSettled) : endsAs (.ticketAck corr n) s q :=
      request_endsAs (.ticketAck corr n) s corr .ticketAck (·.ticketAck corr n) q 0 rfl ht h hq
    have marks {q : Part} (h : ra.trailAck corr n = q) (hq : q.settingsSettled) : endsAs (.trailAck corr n) s q :=
      request_endsAs (.trailAck corr n) s corr .trailAck (·.trailAck corr n) q 0 rfl ht h hq
    obtain ⟨tfault, tgood⟩ := ticketAck_rows (p := ta) (corr := corr) n
    obtain ⟨rfault, rgood⟩ := trailAck_rows (p := ra) (corr := corr) n
    refine ⟨fun h => ?_, fun h => ?_, fun h => ?_, fun h => ?_,
      fun h => ⟨acks (tfault h) (settled_refuse hts ..), marks (rfault h) (settled_refuse hrs ..)⟩, fun h => ?_⟩
    · exact fetches (if_pos (Nat.sub_eq_zero_of_le h)) (settled_refuse (settled_admitted hs ..) ..)
    · exact fetches (if_neg (Nat.sub_ne_zero_of_lt h)) (settled_of hs rfl rfl rfl)
    · exact trails (if_pos (Nat.sub_eq_zero_of_le h)) (settled_refuse (settled_admitted hs ..) ..)
    · exact trails (if_neg (Nat.sub_ne_zero_of_lt h)) (settled_of hs rfl rfl rfl)
    · obtain ⟨tbusy, tfree⟩ := tgood h
      obtain ⟨rbusy, rfree⟩ := rgood h
      refine ⟨fun ha => acks (tbusy ha) (settled_refuse hts ..), fun ha ho => ?_, fun ha hl hn => ?_,
        fun ha => marks (rbusy ha) (settled_refuse hrs ..), fun ha ho => ?_, fun ha hl hn => ?_⟩
      · exact acks ((tfree ha).1 (ho.imp_left Nat.sub_eq_zero_of_le)) (settled_refuse hts ..)
      · refine acks ((tfree ha).2 ?_) (settled_of hs rfl rfl rfl)
        exact not_or.mpr ⟨Nat.sub_ne_zero_of_lt hl, not_not.mpr hn⟩
      · exact marks ((rfree ha).1 (ho.imp_left Nat.sub_eq_zero_of_le)) (settled_refuse hrs ..)
      · refine marks ((rfree ha).2 ?_) (settled_of hs rfl rfl rfl)
        exact not_or.mpr ⟨Nat.sub_ne_zero_of_lt hl, not_not.mpr hn⟩
  · intro o corr s hs ho p
    have hps : p.settingsSettled := settled_of hs rfl rfl rfl
    refine ⟨fun hk => ?_, fun hk => ?_⟩
    · refine endsAs_run .ticketFetchRead s (fun p => p.freePort.answerTicket corr s.mem) _ ?_ rfl (settled_done hps ..)
      show execTicketFetchRead s = _
      unfold execTicketFetchRead State.readDone
      rw [ho]
      dsimp only
      rw [hk]
    · refine endsAs_run .trailFetchRead s (fun p => p.freePort.answerTrail corr s.mem) _ ?_ rfl (settled_done hps ..)
      show execTrailFetchRead s = _
      unfold execTrailFetchRead State.readDone
      rw [ho]
      dsimp only
      rw [hk]

end Sys2Proof.Machine
end


section
/-! PROOFS. What the port arbiter grants, claimant by claimant (R168). -/

namespace Sys2Proof.Machine

section
variable {p : Part}

/-! ## The claims -/

theorem trailClaim_mark (h : p.audit.trail.markWaiting = true) : p.trailClaim = some .trailMark := if_pos h

theorem trailClaim_unmarked (h : p.audit.trail.markWaiting = false) : p.trailClaim =
    if p.audit.trail.staging ≠ [] ∧ p.audit.trail.nextSeq ≤ serialLimit then some .trailRecord else none := by
  unfold Part.trailClaim
  dsimp only
  rw [if_neg (by rw [h]; exact Bool.false_ne_true)]

theorem trailClaim_none (h : p.audit.trail.markWaiting = false) (hs : p.audit.trail.staging = []) : p.trailClaim = none := by
  rw [trailClaim_unmarked h]
  exact if_neg fun k => k.1 hs

theorem ticketClaim_mark (h : p.tickets.markWaiting = true) : p.ticketClaim = some .ticketMark := if_pos h

theorem ticketClaim_unmarked (h : p.tickets.markWaiting = false) : p.ticketClaim =
    if p.tickets.staging ≠ [] ∧ p.tickets.unread < 2048 ∧ p.tickets.nextSerial ≤ serialLimit then some .ticketRecord
    else none := by
  unfold Part.ticketClaim
  dsimp only
  rw [if_neg (by rw [h]; exact Bool.false_ne_true)]

theorem ticketClaim_none (h : p.tickets.markWaiting = false) (hs : p.tickets.staging = []) : p.ticketClaim = none := by
  rw [ticketClaim_unmarked h]
  exact if_neg fun k => k.1 hs

/-- The operation may be served: no calibration write is in progress on the deck of a mark (R146). -/
def Part.serves (p : Part) : TableOp → Prop
  | .image d => p.audit.calWrite.map (·.deck) ≠ some d
  | _ => True

theorem tableClaim_head {o : TableOp} {ops : List TableOp} (hq : p.store.tableQueue = o :: ops) (ho : p.serves o) :
    p.tableClaim = some (.table o) := by
  unfold Part.tableClaim
  rw [hq]
  cases o with
  | image d =>
    dsimp only
    refine congrArg (Option.map OpKind.table) (List.find?_cons_of_pos ?_)
    exact decide_eq_true (show p.audit.calWrite.map (·.deck) ≠ some d from ho)
  | classRecord i => rfl
  | settingsImage => rfl
  | registerRecord => rfl
  | calWrite d => rfl

/-! ## The highest claim (R168) -/

theorem topClaim_ready (h : p.store.fault = false) : p.topClaim =
    (p.trailClaim <|> p.ticketClaim <|> p.mirrorClaim <|> p.tableClaim <|> p.readoutClaim) := by
  unfold Part.topClaim
  exact if_neg (by rw [h]; exact Bool.false_ne_true)

theorem topClaim_fault (h : p.store.fault = true) : p.topClaim = p.readoutClaim := if_pos h

theorem topClaim_trail {k : OpKind} (h : p.store.fault = false) (ht : p.trailClaim = some k) : p.topClaim = some k := by
  rw [topClaim_ready h, ht]
  rfl

theorem topClaim_ticket {k : OpKind} (h : p.store.fault = false) (ht : p.trailClaim = none) (hk : p.ticketClaim = some k) :
    p.topClaim = some k := by
  rw [topClaim_ready h, ht, hk]
  rfl

theorem topClaim_mirror {k : OpKind} (h : p.store.fault = false) (ht : p.trailClaim = none) (hk : p.ticketClaim = none)
    (hm : p.mirrorClaim = some k) : p.topClaim = some k := by
  rw [topClaim_ready h, ht, hk, hm]
  rfl

theorem topClaim_table {k : OpKind} (h : p.store.fault = false) (ht : p.trailClaim = none) (hk : p.ticketClaim = none)
    (hm : p.mirrorClaim = none) (ho : p.tableClaim = some k) : p.topClaim = some k := by
  rw [topClaim_ready h, ht, hk, hm, ho]
  rfl

theorem topClaim_readout (h : p.store.fault = false) (ht : p.trailClaim = none) (hk : p.ticketClaim = none)
    (hm : p.mirrorClaim = none) (ho : p.tableClaim = none) : p.topClaim = p.readoutClaim := by
  rw [topClaim_ready h, ht, hk, hm, ho]
  rfl

/-! ## The grant -/

theorem grant_of_claim {k : OpKind} (hr : p.phase = .running) (ho : p.store.op = none) (hh : p.store.hold = .none)
    (h : p.topClaim = some k) : p.grant = p.grantClaim k := by
  have hopen : p.portOpen = true := by
    unfold Part.portOpen
    rw [hr, ho, hh]
    rfl
  unfold Part.grant
  rw [if_pos hopen, h]

theorem grant_shut (h : p.phase ≠ .running ∨ p.store.op ≠ none ∨ p.store.hold ≠ .none) : p.grant = p := by
  unfold Part.grant
  refine if_neg ?_
  unfold Part.portOpen
  rw [Bool.and_eq_true, Bool.and_eq_true, decide_eq_true_iff, decide_eq_true_iff, Option.isNone_iff_eq_none]
  rintro ⟨⟨hr, ho⟩, hh⟩
  rcases h with h | h | h
  · exact h hr
  · exact h ho
  · exact h hh

/-- The part with this record operation in progress. -/
def Part.performs (p : Part) (k : OpKind) (a : Nat) (bytes : List Byte) : Part :=
  { p with store := { p.store with op := some ⟨k, a, bytes⟩ } }

theorem beginOp_eq (p : Part) (k : OpKind) (bytes : List Byte) : p.beginOp k bytes = p.performs k (p.opAddress k) bytes := rfl

/-! ## What each claimant is granted -/

theorem grantMark_trail : p.grantClaim .trailMark = p.performs .trailMark 0x40 (markBytes .trailMark (p.audit.trail.oldest + 1)) := by
  have haddress : p.opAddress .trailMark = 0x40 := by
    simp [Part.opAddress, Part.place, SlotKind.address, SlotKind.base, SlotKind.slots]
  show p.beginOp .trailMark _ = _
  rw [beginOp_eq, haddress]

theorem grantMark_ticket :
    p.grantClaim .ticketMark = p.performs .ticketMark 0 (markBytes .ticketMark (p.tickets.oldestUnread + 1)) := by
  have haddress : p.opAddress .ticketMark = 0 := rfl
  show p.beginOp .ticketMark _ = _
  rw [beginOp_eq, haddress]

theorem grantTrail {x : TrailRecord} {xs : List TrailRecord} (h : p.audit.trail.staging = x :: xs) :
    p.grantClaim .trailRecord = p.performs .trailRecord (0x50400 + 64 * ((p.audit.trail.nextSeq - 1) % 1024))
      (trailBytes p.audit.trail.nextSeq x) := by
  have haddress : p.opAddress .trailRecord = 0x50400 + 64 * ((p.audit.trail.nextSeq - 1) % 1024) :=
    congrArg (fun n => 0x50400 + 64 * n) (Nat.mod_mod _ _)
  have hbytes : p.trailRecordBytes = trailBytes p.audit.trail.nextSeq x := by
    unfold Part.trailRecordBytes
    rw [h]
  show p.beginOp .trailRecord p.trailRecordBytes = _
  rw [beginOp_eq, haddress, hbytes]

theorem grantTicket {x : StagedTicket} {xs : List StagedTicket} (h : p.tickets.staging = x :: xs) :
    p.grantClaim .ticketRecord = p.performs .ticketRecord (0x400 + 160 * ((p.tickets.nextSerial - 1) % 2048))
      (ticketBytes p.tickets.nextSerial x.ticket) := by
  have haddress : p.opAddress .ticketRecord = 0x400 + 160 * ((p.tickets.nextSerial - 1) % 2048) :=
    congrArg (fun n => 0x400 + 160 * n) (Nat.mod_mod _ _)
  have hbytes : p.ticketRecordBytes = ticketBytes p.tickets.nextSerial x.ticket := by
    unfold Part.ticketRecordBytes
    rw [h]
  show p.beginOp .ticketRecord p.ticketRecordBytes = _
  rw [beginOp_eq, haddress, hbytes]

theorem grantMirror_head {i : Nat} {is : List Nat} (h : p.pairing.dirty = i :: is) (hi : i < 64) :
    p.grantClaim (.mirror i) = ({ p with pairing := { p.pairing with dirty := is } } : Part).performs (.mirror i)
      (0x60400 + 96 * i) (mirrorBytes i (p.slot i)) := by
  have haddress : (p.modPairing fun x => { x with dirty := x.dirty.erase i }).opAddress (.mirror i) = 0x60400 + 96 * i :=
    congrArg (fun n => 0x60400 + 96 * n) (Nat.mod_eq_of_lt hi)
  show (p.modPairing fun x => { x with dirty := x.dirty.erase i }).beginOp (.mirror i) (mirrorBytes i (p.slot i)) = _
  rw [beginOp_eq, haddress]
  unfold Part.modPairing
  dsimp only
  rw [h, List.erase_cons_head]

theorem grantFetch_some {k : OpKind} {corr : U16} {r : Req} {n : Nat} (h : n ≠ 0) {f : Readout} {rs : List Readout}
    (hr : p.store.readout = f :: rs) : p.grantFetch k corr r n =
      ({ p with store := { p.store with readout := rs } } : Part).performs k (p.opAddress k) [] := by
  unfold Part.grantFetch
  dsimp only
  rw [if_neg h]
  show ({ p with store := { p.store with readout := p.store.readout.tail } } : Part).beginOp k [] = _
  rw [hr]
  rfl

/-- What stays in the table image writer's queue once the operation has left it: the image of a calibration write takes the
deck's mark along (R146). -/
def TableOp.leaves (o : TableOp) (ops : List TableOp) : List TableOp :=
  match o with
  | .calWrite d => (ops.erase o).erase (.image d)
  | _ => ops.erase o

theorem grantTable_eq (o : TableOp) : p.grantClaim (.table o) =
    ({ p.readForRecord o with store := { (p.readForRecord o).store with
      tableQueue := o.leaves (p.readForRecord o).store.tableQueue } } : Part).beginOp (.table o) (p.tableBytes o) := by
  cases o with
  | calWrite d => rfl
  | image d => rfl
  | classRecord i => rfl
  | settingsImage => rfl
  | registerRecord => rfl

theorem leaves_head (o : TableOp) (ops : List TableOp) :
    o.leaves (o :: ops) = match o with
      | .calWrite d => ops.erase (.image d)
      | _ => ops := by
  cases o with
  | calWrite d => exact congrArg (fun xs : List TableOp => xs.erase (.image d)) (List.erase_cons_head (.calWrite d) ops)
  | image d => exact List.erase_cons_head (.image d) ops
  | classRecord i => exact List.erase_cons_head (.classRecord i) ops
  | settingsImage => exact List.erase_cons_head .settingsImage ops
  | registerRecord => exact List.erase_cons_head .registerRecord ops

end

/-! ## Where the table image operations go (R166) -/

theorem opAddress_image (p : Part) (d : DeckId) : p.opAddress (.table (.image d)) = 0x61C00 + 512 * d.val :=
  congrArg (fun n => 0x61C00 + 512 * n) (Nat.mod_eq_of_lt d.isLt)

theorem opAddress_calWrite (p : Part) (d : DeckId) : p.opAddress (.table (.calWrite d)) = 0x61C00 + 512 * d.val :=
  congrArg (fun n => 0x61C00 + 512 * n) (Nat.mod_eq_of_lt d.isLt)

theorem opAddress_class (p : Part) {i : Nat} (h : i < 48) : p.opAddress (.table (.classRecord i)) = 0x62800 + 64 * i :=
  congrArg (fun n => 0x62800 + 64 * n) (Nat.mod_eq_of_lt h)

theorem opAddress_settings (p : Part) : p.opAddress (.table .settingsImage) = 0x63400 := by
  simp [Part.opAddress, Part.place, Part.tablePlace, SlotKind.address, SlotKind.base, SlotKind.slots]

theorem opAddress_register {p : Part} {m : RegChange} (h : p.tables.regChange = some m) (hi : m.index < 1024) :
    p.opAddress (.table .registerRecord) = 0x63800 + 48 * m.index := by
  have hindex : (p.tables.regChange.map (·.index)).getD 0 = m.index := by
    rw [h]
    rfl
  show 0x63800 + 48 * ((p.tables.regChange.map (·.index)).getD 0 % 1024) = _
  rw [hindex, Nat.mod_eq_of_lt hi]

theorem classIndex_lt {p : Part} {i : Nat} {z : Slot (Option ClassEntry)} (h : p.tables.classStaged[i]? = some z) : i < 48 := by
  by_contra hn
  rw [Vector.getElem?_eq_none (Nat.le_of_not_lt hn)] at h
  exact absurd h.symm (Option.some_ne_none z)

/-! ## The rows of PORT_GRANT -/

/-- The port is free, startup has finished, and no hold is requested or in force. -/
structure State.portFree (s : State) : Prop where
  settled : s.toPart.settingsSettled
  running : s.phase = .running
  idle : s.store.op = none
  unheld : s.store.hold = .none

section
variable {s : State} (h : s.portFree)
include h

theorem portGrant_claims {k : OpKind} (hk : s.toPart.topClaim = some k) {q : Part} (hq : s.toPart.grantClaim k = q) :
    endsAs .portGrant s q := by
  rw [← hq, ← grant_of_claim h.running h.idle h.unheld hk]
  exact portGrant_endsAs h.settled

/-- Nothing waits but, at most, a fetch. -/
theorem portGrant_readout (ht : s.toPart.topClaim = s.toPart.readoutClaim) :
    (s.store.readout = [] → endsAs .portGrant s s.toPart) ∧
    (∀ corr rs, s.store.readout = .ticket corr :: rs → s.tickets.oldestUnread < s.tickets.nextSerial →
      endsAs .portGrant s (({ s.toPart with store := { s.store with readout := rs } } : Part).performs (.ticketFetch corr)
        (0x400 + 160 * ((s.tickets.oldestUnread - 1) % 2048)) [])) ∧
    ∀ corr rs, s.store.readout = .trail corr :: rs → s.audit.trail.oldest < s.audit.trail.nextSeq →
      endsAs .portGrant s (({ s.toPart with store := { s.store with readout := rs } } : Part).performs (.trailFetch corr)
        (0x50400 + 64 * ((s.audit.trail.oldest - 1) % 1024)) []) := by
  refine ⟨fun hr => ?_, fun corr rs hr hn => ?_, fun corr rs hr hn => ?_⟩
  · have hnone : s.toPart.topClaim = none := by
      rw [ht]
      unfold Part.readoutClaim
      rw [hr]
      rfl
    have hgrant := portGrant_endsAs (s := s) h.settled
    rwa [grant_of_no_claim _ hnone] at hgrant
  · have hclaim : s.toPart.topClaim = some (.ticketFetch corr) := by
      rw [ht]
      unfold Part.readoutClaim
      rw [hr]
      rfl
    have haddress : s.toPart.opAddress (.ticketFetch corr) = 0x400 + 160 * ((s.tickets.oldestUnread - 1) % 2048) :=
      congrArg (fun n => 0x400 + 160 * n) (Nat.mod_mod _ _)
    rw [← haddress]
    exact portGrant_claims h hclaim (grantFetch_some (Nat.sub_ne_zero_of_lt hn) hr)
  · have hclaim : s.toPart.topClaim = some (.trailFetch corr) := by
      rw [ht]
      unfold Part.readoutClaim
      rw [hr]
      rfl
    have haddress : s.toPart.opAddress (.trailFetch corr) = 0x50400 + 64 * ((s.audit.trail.oldest - 1) % 1024) :=
      congrArg (fun n => 0x50400 + 64 * n) (Nat.mod_mod _ _)
    rw [← haddress]
    exact portGrant_claims h hclaim (grantFetch_some (Nat.sub_ne_zero_of_lt hn) hr)

/-- A table image operation at the head of its queue, no other writer having a claim. -/
theorem portGrant_table {o : TableOp} {ops : List TableOp} (hf : s.store.fault = false) (hr : s.toPart.trailClaim = none)
    (ht : s.toPart.ticketClaim = none) (hm : s.toPart.mirrorClaim = none) (hq : s.store.tableQueue = o :: ops)
    (hserves : s.toPart.serves o) {t : TableStore} {k : Link}
    (hread : s.toPart.readForRecord o = { s.toPart with tables := t, link := k }) {a : Nat}
    (ha : ({ s.toPart with tables := t } : Part).opAddress (.table o) = a) {bytes : List Byte}
    (hb : s.toPart.tableBytes o = bytes) :
    endsAs .portGrant s (({ s.toPart with
      tables := t, link := k, store := { s.store with tableQueue := o.leaves (o :: ops) } } : Part).performs (.table o) a
        bytes) := by
  refine portGrant_claims h (topClaim_table hf hr ht hm (tableClaim_head hq hserves)) ?_
  rw [grantTable_eq, hread, hb]
  show ({ s.toPart with tables := t, link := k, store := { s.store with
    tableQueue := o.leaves s.store.tableQueue } } : Part).beginOp (.table o) bytes = _
  rw [hq, beginOp_eq]
  exact congrArg (fun a => Part.performs _ (.table o) a bytes) ha

end

/-- Settles O50, claimant by claimant. -/
theorem portGrantRows : Obligations.PortGrantRows := by
  intro s hs
  refine ⟨fun h => ?_, fun hrun hidle hhold => ?_⟩
  · have hgrant := portGrant_endsAs (s := s) hs
    rwa [grant_shut h] at hgrant
  · have h : s.portFree := ⟨hs, hrun, hidle, hhold⟩
    intro go r t fetches
    have claims {k : OpKind} (hk : s.toPart.topClaim = some k) {q : Part} (hq : s.toPart.grantClaim k = q) :
        endsAs .portGrant s q := portGrant_claims h hk hq
    refine ⟨fun hf => ⟨fun hm => ?_, fun hm => ⟨fun x xs hx hn => ?_, fun hx hm => ?_, fun hrs hm => ?_⟩⟩, fun hf => ?_⟩
    · exact claims (topClaim_trail hf (trailClaim_mark hm)) grantMark_trail
    · have hready : s.audit.trail.staging ≠ [] ∧ s.audit.trail.nextSeq ≤ serialLimit :=
        ⟨by rw [show s.audit.trail.staging = x :: xs from hx]; exact List.cons_ne_nil x xs, hn⟩
      exact claims (topClaim_trail hf ((trailClaim_unmarked hm).trans (if_pos hready))) (grantTrail hx)
    · rename_i hmark
      exact claims (topClaim_ticket hf (trailClaim_none hmark hx) (ticketClaim_mark hm)) grantMark_ticket
    · rename_i hmark
      have htrail : s.toPart.trailClaim = none := trailClaim_none hmark hrs
      refine ⟨fun x xs hx hu hn => ?_, fun hts => ⟨fun i is hd hi => ?_, fun hd => ⟨fun o ops hq => ?_, fun hq => ?_⟩⟩⟩
      · have hready : s.tickets.staging ≠ [] ∧ s.tickets.unread < 2048 ∧ s.tickets.nextSerial ≤ serialLimit :=
          ⟨by rw [show s.tickets.staging = x :: xs from hx]; exact List.cons_ne_nil x xs, hu, hn⟩
        exact claims (topClaim_ticket hf htrail ((ticketClaim_unmarked hm).trans (if_pos hready))) (grantTicket hx)
      · have hmirror : s.toPart.mirrorClaim = some (.mirror i) := by
          unfold Part.mirrorClaim
          rw [hd]
          rfl
        exact claims (topClaim_mirror hf htrail (ticketClaim_none hm hts) hmirror) (grantMirror_head hd hi)
      · have htickets : s.toPart.ticketClaim = none := ticketClaim_none hm hts
        have hmirror : s.toPart.mirrorClaim = none := by
          unfold Part.mirrorClaim
          rw [hd]
          rfl
        have table {t : TableStore} {k : Link} (hserves : s.toPart.serves o)
            (hread : s.toPart.readForRecord o = { s.toPart with tables := t, link := k }) {a : Nat}
            (ha : ({ s.toPart with tables := t } : Part).opAddress (.table o) = a) {bytes : List Byte}
            (hb : s.toPart.tableBytes o = bytes) := portGrant_table h hf htrail htickets hmirror hq hserves hread ha hb
        intro p
        refine ⟨fun d i ho hw hi => ?_, fun i z m ho hz hm => ?_, fun m ho hm => ?_, fun m ho hm hn => ?_,
          fun w k i ho hw hk hi => ?_⟩
        · subst ho
          have hserves : s.toPart.serves (.image d) := by
            show s.audit.calWrite.map (·.deck) ≠ some d
            rw [hw]
            exact (Option.some_ne_none d).symm
          have hends := table hserves rfl (opAddress_image _ d) (bytes := i.bytes) (by
            show ((s.toPart.image d).map CalImage.bytes).getD [] = i.bytes
            rw [hi]
            rfl)
          rw [leaves_head] at hends
          exact hends
        · subst ho
          have haddress : ∀ q : Part, q.opAddress (.table (.classRecord i)) = 0x62800 + 64 * i := fun q =>
            opAddress_class q (classIndex_lt hz)
          have hbytes : s.toPart.tableBytes (.classRecord i) = classRecordBytes i z.val m.crc := by
            show classRecordBytes i (s.tables.classStaged[i]?.bind (·.val)) ((s.tables.commit.map (·.crc)).getD 0) = _
            rw [hz, hm]
            rfl
          obtain ⟨hgood, hfails⟩ := readStagedClass_eq s.toPart i z hz
          intro bytes
          refine ⟨fun hset => ?_, fun hfail => ?_⟩
          · have hends := table trivial (hgood hset) (haddress _) hbytes
            rw [leaves_head] at hends
            exact hends
          · have hends := table trivial (hfails hfail) (haddress _) hbytes
            rw [leaves_head] at hends
            exact hends
        · subst ho
          have hbytes : s.toPart.tableBytes .settingsImage = settingsRecordBytes s.tables.settingsStaged m.crc := by
            show settingsRecordBytes s.tables.settingsStaged ((s.tables.commit.map (·.crc)).getD 0) = _
            rw [hm]
            rfl
          have hread := readStagedSettings s.toPart
          rw [checked_eq, checked_eq, checked_eq] at hread
          have hends := table trivial hread (opAddress_settings _) hbytes
          rw [leaves_head] at hends
          exact hends
        · subst ho
          have hbytes : s.toPart.tableBytes .registerRecord = regRecordBytes m.index m.entry := by
            show s.toPart.registerRecord = _
            unfold Part.registerRecord
            rw [hm]
          have hends := table trivial rfl (opAddress_register (p := s.toPart) hm hn) hbytes
          rw [leaves_head] at hends
          exact hends
        · subst ho
          have hbytes : s.toPart.tableBytes (.calWrite w.deck) = i.bytes := by
            show ((s.toPart.writeImage w.deck).map CalImage.bytes).getD [] = _
            unfold Part.writeImage
            rw [hw, Option.bind_some, hk, Option.getD_some, hi]
            rfl
          have hends := table trivial rfl (opAddress_calWrite _ w.deck) hbytes
          rw [leaves_head] at hends
          exact hends
      · have htable : s.toPart.tableClaim = none := by
          unfold Part.tableClaim
          rw [hq]
          rfl
        have hmirror : s.toPart.mirrorClaim = none := by
          unfold Part.mirrorClaim
          rw [hd]
          rfl
        exact portGrant_readout h (topClaim_readout hf htrail (ticketClaim_none hm hts) hmirror htable)
    · exact portGrant_readout h (topClaim_fault hf)

end Sys2Proof.Machine
end


section
/-! PROOFS. The ends of the table image writer's writes: commits, register changes and calibration images (R132-R134, R137,
R146, R154, R156). -/

namespace Sys2Proof.Machine

/-! ## A verified write (R169) -/

theorem written_writesAs {c : Instr} {s : State} {o : Op} {f : Part → Part} {q : Part}
    (owns : OpKind → Option (Part → Part)) (hs : q.settingsSettled) (ho : s.store.op = some o)
    (hc : exec c s = s.written owns) (hf : owns o.kind = some f) (hq : f s.toPart.freePort = q) :
    writesAs c s o.address o.bytes q := by
  have hexec : exec c s = .next { (s.act fun p => (f p.freePort).finish) with mem := memWrite s.mem o.address o.bytes } := by
    rw [hc]
    unfold State.written
    rw [ho]
    dsimp only
    rw [hf]
  refine ⟨_, hexec, rfl, ?_, fun x h1 h2 h3 => memRead_memWrite_inside _ _ _ _ h1 h2 h3, fun x h => memRead_memWrite_outside _ _ _ _ h⟩
  rw [← hq] at hs ⊢
  exact finish_closes _ hs

theorem settled_freePort {p : Part} (h : p.settingsSettled) : p.freePort.settingsSettled := settled_of h rfl rfl rfl

/-! ## A class commit completes (R132, R133) -/

section
variable {p : Part} {corr : U16} {crc : Nat}

/-- The commit ends and is recorded in the trail. -/
def Part.committed (p : Part) (t : TableId) (crc old : Nat) : Part :=
  ({ p with tables := { p.tables with commit := none } } : Part).handTrail none (.tableCommit t crc old)

theorem committed_facts (p : Part) (t : TableId) (crc old : Nat) :
    let q := p.committed t crc old
    q = { p with tables := { p.tables with commit := none }, lanes := q.lanes,
                 audit := { p.audit with trail := p.handed none (.tableCommit t crc old) } } ∧
      ∀ l, sameButTrailFull (p.lane l) (q.lane l) :=
  handTrail_facts { p with tables := { p.tables with commit := none } } none (.tableCommit t crc old)

theorem completeCommit_classes (h : p.tables.commit = some ⟨.classes, corr, crc⟩) : p.completeCommit =
    ((p.committed .classes crc p.tables.classCrc).swapClasses crc).done corr .tableCommit (.committed crc) := by
  unfold Part.completeCommit
  rw [h]
  rfl

theorem completeCommit_settings (h : p.tables.commit = some ⟨.settings, corr, crc⟩) : p.completeCommit =
    ((p.committed .settings crc p.tables.settingsActive.crc).swapSettings crc).done corr .tableCommit (.committed crc) := by
  unfold Part.completeCommit
  rw [h]
  rfl

theorem settled_committed (h : p.settingsSettled) (t : TableId) (old : Nat) : (p.committed t crc old).settingsSettled :=
  settled_handTrail (p := { p with tables := { p.tables with commit := none } }) h _ _

/-! ## A settings commit completes (R133, R134) -/

theorem enterLaneState_fields (p : Part) (l : LaneId) (st : LaneState) :
    ((p.enterLaneState l st).lane l).causes = (p.lane l).causes ∧
      ((p.enterLaneState l st).lane l).adoptedValid = (p.lane l).adoptedValid ∧
      (p.enterLaneState l st).link.responses = p.link.responses := by
  by_cases h : (p.lane l).state = st
  · unfold Part.enterLaneState
    rw [if_pos h]
    exact ⟨rfl, rfl, rfl⟩
  · rw [enterLaneState_ne p l st h, responses_notify, lane_notify, lane_modLane_self]
    exact ⟨rfl, rfl, rfl⟩

theorem laneClear_fields (p : Part) (l : LaneId) (c : LaneCause) :
    ((p.laneClear l c).lane l).causes = (p.lane l).causes.put false c ∧
      ((p.laneClear l c).lane l).adoptedValid = (p.lane l).adoptedValid ∧
      (p.laneClear l c).link.responses = p.link.responses := by
  unfold Part.laneClear
  by_cases hc : (p.lane l).causes.has c = true
  · rw [if_pos hc]
    have hlane : (p.modLane l fun x => { x with causes := x.causes.put false c }).lane l =
        { p.lane l with causes := (p.lane l).causes.put false c } := lane_modLane_self ..
    obtain ⟨hcauses, hvalid, hresponses⟩ :=
      enterLaneState_fields (p.modLane l fun x => { x with causes := x.causes.put false c }) l .closed
    dsimp only
    split
    case isTrue =>
      rw [hcauses, hvalid, hresponses, hlane]
      exact ⟨rfl, rfl, rfl⟩
    case isFalse =>
      rw [hlane]
      exact ⟨rfl, rfl, rfl⟩
  · rw [if_neg hc]
    refine ⟨?_, rfl, rfl⟩
    have hnot : (p.lane l).causes.has c = false := Bool.eq_false_of_not_eq_true hc
    cases c with
    | deckFault => exact congrArg (fun b => { (p.lane l).causes with deckFault := b }) hnot
    | barrier => exact congrArg (fun b => { (p.lane l).causes with barrier := b }) hnot
    | laneStop => exact congrArg (fun b => { (p.lane l).causes with laneStop := b }) hnot
    | settingsParity => exact congrArg (fun b => { (p.lane l).causes with settingsParity := b }) hnot

/-- A lane adopts an active settings image whose entry for it is not damaged. -/
theorem adopt_facts {l : LaneId} (hg : (p.tables.settingsActive.lanes.get l).damaged = false) :
    let q := p.adopt l
    q.tables = (if (p.lane l.other).adoptedActive = true then { p.tables with settingsPrevious := none } else p.tables) ∧
      ((q.lane l).adoptedActive = true ∧ (q.lane l).adoptedValid = true ∧ (q.lane l).causes.settingsParity = false) ∧
      q.lane l.other = p.lane l.other ∧ q.visit l = p.visit l ∧ q.audit = p.audit ∧ q.link.responses = p.link.responses := by
  set p1 := p.modLane l fun x => { x with adoptedActive := true, adoptedValid := true } with hp1
  have hlane : p1.lane l = { p.lane l with adoptedActive := true, adoptedValid := true } := lane_modLane_self ..
  obtain ⟨hcauses, hvalid, hresponses⟩ := laneClear_fields p1 l .settingsParity
  obtain ⟨hsame, hother, heach⟩ := laneClear_same p1 l .settingsParity
  have hadopt : p.adopt l = ((if ((p1.laneClear l .settingsParity).lane l.other).adoptedActive = true then
      (p1.laneClear l .settingsParity).modTables fun t => { t with settingsPrevious := none }
      else p1.laneClear l .settingsParity).notify (.tableAdopted l p.tables.settingsActive.crc
        (((p1.laneClear l .settingsParity).lane l.other).adoptedActive && p.tables.settingsPrevious.isSome))) := by
    have htables : (p1.laneClear l .settingsParity).tables = p.tables := by
      rw [hsame]
      rfl
    have hno : ¬ (p.tables.settingsActive.lanes.get l).damaged = true := by
      rw [hg]
      exact Bool.false_ne_true
    unfold Part.adopt
    dsimp only
    rw [← hp1, htables, if_neg hno, htables]
    by_cases hb : ((p1.laneClear l .settingsParity).lane l.other).adoptedActive = true
    · rw [if_pos hb]
      rw [show ((p1.laneClear l .settingsParity).modTables fun t => { t with settingsPrevious := none }).tables =
        { (p1.laneClear l .settingsParity).tables with settingsPrevious := none } from rfl, htables]
    · rw [if_neg hb, htables]
  dsimp only
  rw [hadopt]
  generalize p1.laneClear l .settingsParity = c at *
  have hclane : (c.lane l).adoptedActive = true ∧ (c.lane l).adoptedValid = true ∧
      (c.lane l).causes.settingsParity = false ∧ c.visit l = p.visit l := by
    refine ⟨?_, ?_, ?_, ?_⟩
    · rw [(heach l).1, hlane]
    · rw [hvalid, hlane]
    · rw [hcauses]
      rfl
    · rw [(heach l).2]
      unfold Part.visit
      rw [hlane]
  have hcother : c.lane l.other = p.lane l.other := hother.trans (lane_modLane_other ..)
  have hrest : c.tables = p.tables ∧ c.audit = p.audit ∧ c.link.responses = p.link.responses :=
    ⟨by rw [hsame]; rfl, by rw [hsame]; rfl, hresponses⟩
  obtain ⟨hactive, hvalid, hparity, hvisit⟩ := hclane
  obtain ⟨htables, haudit, hresponses⟩ := hrest
  rw [hcother]
  split
  case isTrue =>
    refine ⟨?_, ⟨hactive, hvalid, hparity⟩, hcother, hvisit, haudit, (responses_notify ..).trans hresponses⟩
    rw [← htables]
    rfl
  case isFalse =>
    exact ⟨htables, ⟨hactive, hvalid, hparity⟩, hcother, hvisit, haudit, (responses_notify ..).trans hresponses⟩

/-- The settings tables at the swap, no lane having adopted the new image. -/
def Part.swapped (p : Part) (crc : Nat) : Part :=
  (({ p with tables := { p.tables with
    settingsPrevious := some p.tables.settingsActive
    settingsActive := ⟨⟨.fresh p.tables.settingsStaged.lanes.l0.val, .fresh p.tables.settingsStaged.lanes.l1.val⟩,
      .fresh p.tables.settingsStaged.site.val, crc⟩ } } : Part).modLane .l0 fun x =>
        { x with adoptedActive := false }).modLane .l1 fun x => { x with adoptedActive := false }

theorem swapSettings_eq (p : Part) (crc : Nat) : p.swapSettings crc = ((p.swapped crc).adoptIdle .l0).adoptIdle .l1 := rfl

theorem lane_swapped (p : Part) (crc : Nat) (l : LaneId) : (p.swapped crc).lane l = { p.lane l with adoptedActive := false } := by
  cases l with
  | l0 => rfl
  | l1 => rfl

/-- The image that a swap has put in force is settled, and so is the one that both lanes still use. -/
theorem readsSettled_swapped (h : p.settingsSettled) (hnone : p.tables.settingsPrevious = none) (crc : Nat) :
    (p.swapped crc).readsSettled := by
  have hadopted : ∀ l, (p.swapped crc).adopted l = p.adopted l := fun l => by
    unfold Part.adopted
    rw [lane_swapped, hnone]
    exact (ite_self _).symm
  have hsite : (p.swapped crc).siteImage = p.siteImage := by
    unfold Part.siteImage
    rw [hnone]
    rfl
  obtain ⟨h0, h1, h2⟩ := h
  refine ⟨⟨?_, ?_, ?_⟩, .inr rfl, .inr rfl, .inr rfl⟩
  · rw [hadopted]
    exact h0
  · rw [hadopted]
    exact h1
  · rw [hsite]
    exact h2

theorem keepsSettled_adoptIdle {q : Part} (h : p.keepsSettled q) (l : LaneId) : p.keepsSettled (q.adoptIdle l) :=
  keepsSettled_ite _ (keepsSettled_adopt h l) h

theorem settled_swapSettings (h : p.settingsSettled) (hnone : p.tables.settingsPrevious = none) (crc : Nat) :
    (p.swapSettings crc).settingsSettled := by
  rw [swapSettings_eq]
  exact (keepsSettled_adoptIdle (keepsSettled_adoptIdle (fun k => k) .l0) .l1 (readsSettled_swapped h hnone crc)).1

theorem adoptIdle_visit {l : LaneId} (h : (p.visit l).isSome = true) : p.adoptIdle l = p := by
  refine if_neg ?_
  rw [Option.isNone_iff_eq_none]
  exact Option.isSome_iff_ne_none.mp h

theorem adoptIdle_empty {l : LaneId} (h : p.visit l = none) : p.adoptIdle l = p.adopt l :=
  if_pos (Option.isNone_iff_eq_none.mpr h)

/-- What a lane makes of the swap, whether it holds a visit or not. -/
theorem adoptIdle_keeps {l : LaneId} (hg : (p.tables.settingsActive.lanes.get l).damaged = false) :
    let q := p.adoptIdle l
    (∃ previous, q.tables = { p.tables with settingsPrevious := previous }) ∧ q.audit = p.audit ∧
      q.link.responses = p.link.responses := by
  unfold Part.adoptIdle
  split
  case isTrue =>
    obtain ⟨htables, -, -, -, haudit, hresponses⟩ := adopt_facts hg
    refine ⟨?_, haudit, hresponses⟩
    rw [htables]
    split
    case isTrue => exact ⟨_, rfl⟩
    case isFalse => exact ⟨_, rfl⟩
  case isFalse => exact ⟨⟨_, rfl⟩, rfl, rfl⟩

/-- What every swap leaves of the tables, the trail and the responses. -/
theorem swapSettings_facts (p : Part) (crc : Nat) :
    let q := p.swapSettings crc
    (∃ previous, q.tables = { (p.swapped crc).tables with settingsPrevious := previous }) ∧ q.audit = p.audit ∧
      q.link.responses = p.link.responses := by
  have hfresh : ∀ l, ((p.swapped crc).tables.settingsActive.lanes.get l).damaged = false := fun l => by
    cases l with
    | l0 => rfl
    | l1 => rfl
  obtain ⟨⟨previous, h0⟩, haudit0, hresponses0⟩ := adoptIdle_keeps (p := p.swapped crc) (hfresh .l0)
  dsimp only
  rw [swapSettings_eq]
  have hfresh1 : (((p.swapped crc).adoptIdle .l0).tables.settingsActive.lanes.get .l1).damaged = false := by
    rw [h0]
    rfl
  obtain ⟨⟨previous', h1⟩, haudit1, hresponses1⟩ := adoptIdle_keeps hfresh1
  refine ⟨⟨previous', ?_⟩, haudit1.trans haudit0, hresponses1.trans hresponses0⟩
  rw [h1, h0]

theorem visit_swapped (p : Part) (crc : Nat) (l : LaneId) : (p.swapped crc).visit l = p.visit l := by
  unfold Part.visit
  rw [lane_swapped]

/-- A swap with a visit on both lanes (R133). -/
theorem swapSettings_visits (h : ∀ l, (p.visit l).isSome = true) : p.swapSettings crc = p.swapped crc := by
  have h0 : ((p.swapped crc).visit .l0).isSome = true := by
    rw [visit_swapped]
    exact h .l0
  have h1 : ((p.swapped crc).visit .l1).isSome = true := by
    rw [visit_swapped]
    exact h .l1
  rw [swapSettings_eq, adoptIdle_visit h0, adoptIdle_visit h1]

/-- A swap with no visit: both lanes adopt, lane 0 first (R134). -/
theorem swapSettings_empty (h : ∀ l, p.visit l = none) :
    let q := p.swapSettings crc
    q.tables.settingsPrevious = none ∧ ∀ l, (q.lane l).adoptedActive = true ∧ (q.lane l).adoptedValid = true ∧
      (q.lane l).causes.settingsParity = false := by
  have hv0 : (p.swapped crc).visit .l0 = none := (visit_swapped ..).trans (h .l0)
  obtain ⟨htables0, hlane0, hother0, -, -, -⟩ := adopt_facts (p := p.swapped crc) (l := .l0) rfl
  have hv1 : ((p.swapped crc).adopt .l0).visit .l1 = none := by
    refine (congrArg Lane.visit hother0).trans ?_
    exact (visit_swapped p crc .l1).trans (h .l1)
  have hg1 : (((p.swapped crc).adopt .l0).tables.settingsActive.lanes.get .l1).damaged = false := by
    rw [htables0]
    split
    case isTrue => rfl
    case isFalse => rfl
  obtain ⟨htables1, hlane1, hother1, -, -, -⟩ := adopt_facts hg1
  have heq : p.swapSettings crc = ((p.swapped crc).adopt .l0).adopt .l1 := by
    rw [swapSettings_eq, adoptIdle_empty hv0, adoptIdle_empty hv1]
  dsimp only
  rw [heq]
  refine ⟨?_, fun l => ?_⟩
  · rw [htables1, if_pos (show (((p.swapped crc).adopt .l0).lane LaneId.l1.other).adoptedActive = true from hlane0.1)]
  · cases l with
    | l0 =>
      rw [show (((p.swapped crc).adopt .l0).adopt .l1).lane .l0 = ((p.swapped crc).adopt .l0).lane .l0 from hother1]
      exact hlane0
    | l1 => exact hlane1

end

/-! ## A calibration write completes (R154, R156) -/

section
variable {p : Part} {d : DeckId} {k e : CalEntry}

/-- The channel of a usable deck takes a new entry. -/
theorem takeEntry_facts (hcal : (p.deck d).cal = some ⟨k, true, false⟩) (hi : p.inFlightOn d = none) (e : CalEntry) :
    let q := p.takeEntry d e
    q = { p with decks := q.decks } ∧ (∀ x, x ≠ d → q.deck x = p.deck x) ∧
      ∃ timer, q.deck d = ({ p.deck d with cal := some ⟨e, true, false⟩, sampleTimer := timer } : Deck).restart := by
  have husable : (p.deck d).usable = true := by
    unfold Deck.usable
    rw [hcal]
    rfl
  unfold Part.takeEntry
  dsimp only
  rw [windowRestart_idle _ _ (by rw [inFlightOn_modDeck]; exact hi), modDeck_modDeck]
  refine ⟨rfl, fun x hx => ?_, ?_⟩
  · rw [deck_modDeck, if_neg hx]
  · rw [deck_modDeck_self, if_pos husable]
    exact ⟨_, rfl⟩

theorem takeZcal_good {x : Deck} (hcal : x.cal = some ⟨k, true, false⟩) (z : Int) : x.takeZcal z =
    { x with cal := some ⟨{ k with zcal := z }, true, false⟩, zd := some (1000 * z) } := by
  unfold Deck.takeZcal Deck.zeroFromCal Deck.usable
  rw [hcal]
  rfl

/-- The deck and the session as a verified image leaves them, with the request answered. -/
def Part.calibrated (q : Part) (corr : U16) (r : Req) (data : RespData) : Part :=
  (q.modAudit fun a => { a with calWrite := none, session := a.session.map Session.recount }).done corr r data

theorem completeCalWrite_entry {w : CalWrite} (hw : p.audit.calWrite = some w) (hc : w.change = .entry e) (crc : Nat) :
    p.completeCalWrite crc =
      (p.takeEntry w.deck e).calibrated w.corr .calWrite (.calibrated w.newCount crc) := by
  unfold Part.completeCalWrite
  rw [hw]
  dsimp only
  rw [hc]
  rfl

theorem completeCalWrite_zero {w : CalWrite} {z : Int} (hw : p.audit.calWrite = some w) (hc : w.change = .zero z)
    (hcal : (p.deck w.deck).cal = some ⟨k, true, false⟩) (crc : Nat) :
    p.completeCalWrite crc = (p.modDeck w.deck fun x => x.takeZcal z).calibrated w.corr .zeroSet .none := by
  unfold Part.completeCalWrite
  rw [hw]
  dsimp only
  rw [hc]
  dsimp only
  rw [readEntry_good hcal]
  rfl

end

/-- Settles O55: each verified write is the model's own continuation of its kind, taken apart by the lemmas above; a swap of
the settings is followed through both lanes, lane 0 first. -/
theorem tableImagesWritten : Obligations.TableImagesWritten := by
  intro o s hs ho p
  have hps : p.settingsSettled := settled_of hs rfl rfl rfl
  refine ⟨fun i hk hi => ?_, fun corr crc hk hc => ?_, fun corr crc hk hc hnone => ?_, fun c hk hc => ?_, fun d hk => ?_,
    fun w k x hk hw hx hi hcal => ?_⟩
  · refine written_writesAs (fun k => match k with
      | .table (.classRecord i) => some (Part.classWritten i)
      | _ => none) (settled_of hps rfl rfl rfl) ho rfl (f := Part.classWritten i) ?_ (if_pos hi)
    rw [hk]
  · have hrow : Part.classWritten 47 s.toPart.freePort =
        ((p.committed .classes crc p.tables.classCrc).swapClasses crc).done corr .tableCommit (.committed crc) :=
      completeCommit_classes (p := p) hc
    obtain ⟨hrest, hlanes⟩ := committed_facts p .classes crc p.tables.classCrc
    have hset := settled_committed (crc := crc) hps .classes p.tables.classCrc
    generalize p.committed .classes crc p.tables.classCrc = q at *
    refine ⟨_, written_writesAs (fun k => match k with
      | .table (.classRecord i) => some (Part.classWritten i)
      | _ => none) (settled_done (p := q.swapClasses crc) hset ..) ho rfl (f := Part.classWritten 47) ?_ hrow, ?_, ?_, ?_, ?_, ?_,
        hlanes⟩
    · rw [hk]
    · show (q.swapClasses crc).tables = _
      unfold Part.swapClasses Part.modTables
      rw [hrest]
    · show q.audit.trail = _
      rw [hrest]
      rfl
    · exact link_done (p := p) (by show q.link = p.link; rw [hrest]) ..
    · show q.store = _
      rw [hrest]
    · show q.decks = _
      rw [hrest]
  · have hrow : Part.completeCommit s.toPart.freePort =
        ((p.committed .settings crc p.tables.settingsActive.crc).swapSettings crc).done corr .tableCommit (.committed crc) :=
      completeCommit_settings (p := p) hc
    obtain ⟨hrest, hlanes⟩ := committed_facts p .settings crc p.tables.settingsActive.crc
    have hset := settled_committed (crc := crc) hps .settings p.tables.settingsActive.crc
    have hvisit : ∀ l, (p.committed .settings crc p.tables.settingsActive.crc).visit l = s.toPart.visit l :=
      fun l => (congrArg Lane.visit (hlanes l) :)
    generalize p.committed .settings crc p.tables.settingsActive.crc = q at *
    have hqnone : q.tables.settingsPrevious = none := by
      rw [hrest]
      exact hnone
    obtain ⟨⟨previous, htables⟩, haudit, hresponses⟩ := swapSettings_facts q crc
    refine ⟨_, written_writesAs (fun k => match k with
      | .table .settingsImage => some Part.completeCommit
      | _ => none) (settled_done (p := q.swapSettings crc) (settled_swapSettings hset hqnone crc) ..) ho rfl
        (f := Part.completeCommit) ?_ hrow, ?_, ?_, ?_, ?_, ?_, fun hv => ?_, fun hv => ?_⟩
    · rw [hk]
    · show (q.swapSettings crc).tables.settingsActive = _
      rw [htables, hrest]
      rfl
    · show (q.swapSettings crc).tables.commit = _
      rw [htables, hrest]
      rfl
    · show (q.swapSettings crc).tables.settingsStaged = _
      rw [htables, hrest]
      rfl
    · show (q.swapSettings crc).audit.trail = _
      rw [haudit, hrest]
      rfl
    · show (q.swapSettings crc).link.responses ++ _ = _
      rw [hresponses, hrest]
      rfl
    · show (q.swapSettings crc).tables.settingsPrevious = _ ∧ ∀ l, ((q.swapSettings crc).lane l).adoptedActive = _ ∧
        (q.swapSettings crc).visit l = _
      rw [swapSettings_visits fun l => (congrArg Option.isSome (hvisit l)).trans (hv l)]
      refine ⟨?_, fun l => ⟨?_, (visit_swapped ..).trans (hvisit l)⟩⟩
      · rw [hrest]
        rfl
      · rw [lane_swapped]
    · exact swapSettings_empty fun l => (hvisit l).trans (hv l)
  · refine written_writesAs (fun k => match k with
      | .table .registerRecord => some Part.completeRegChange
      | _ => none) hps ho rfl (f := Part.completeRegChange) ?_ ?_
    · rw [hk]
    · unfold Part.completeRegChange
      rw [show s.toPart.freePort.tables.regChange = some c from hc]
      rfl
  · refine written_writesAs (fun k => match k with
      | .table (.image d) => some (Part.imageWritten (.image d) o.bytes)
      | .table (.calWrite d) => some (Part.imageWritten (.calWrite d) o.bytes)
      | _ => none) hps ho ?_ (f := Part.imageWritten (.image d) o.bytes) ?_ rfl
    · show execCalibrationImageWritten s = _
      unfold execCalibrationImageWritten
      rw [ho]
      rfl
    · rw [hk]
  · have hidle : s.toPart.freePort.inFlightOn w.deck = none := by
      unfold Part.inFlightOn
      rw [show s.toPart.freePort.audit.session = some x from hx]
      show (if x.deck = w.deck then x.inFlight else none) = none
      rw [hi, ite_self]
    have hends : ∀ q : Part, s.toPart.freePort.completeCalWrite (field o.bytes 506 4) = q → q.settingsSettled →
        writesAs .calibrationImageWritten s o.address o.bytes q := fun q hrow hset => by
      refine written_writesAs (fun k => match k with
        | .table (.image d) => some (Part.imageWritten (.image d) o.bytes)
        | .table (.calWrite d) => some (Part.imageWritten (.calWrite d) o.bytes)
        | _ => none) hset ho ?_ (f := Part.imageWritten (.calWrite w.deck) o.bytes) ?_ hrow
      · show execCalibrationImageWritten s = _
        unfold execCalibrationImageWritten
        rw [ho]
        rfl
      · rw [hk]
    have haudit : ∀ a : AuditUnit, a = s.audit →
        ({ a with calWrite := none, session := a.session.map Session.recount } : AuditUnit) =
          { s.audit with calWrite := none, session := some { x with firstCounted := x.steps.length + 1 } } := fun a ha => by
      rw [ha, hx]
      rfl
    cases hchange : w.change with
    | entry e =>
      obtain ⟨hrest, hothers, timer, hdeck⟩ := takeEntry_facts (p := s.toPart.freePort) hcal hidle e
      have hrow := completeCalWrite_entry (p := s.toPart.freePort) hw hchange (field o.bytes 506 4)
      generalize s.toPart.freePort.takeEntry w.deck e = q at *
      refine ⟨_, hends _ hrow ?_, ?_, fun d hd => hothers d hd, ?_, ?_, ?_, ?_, (fun z hz => nomatch hz)⟩
      · rw [hrest]
        exact hps
      · exact haudit q.audit (by rw [hrest]; rfl)
      · exact (congrArg Deck.service hdeck :)
      · exact (congrArg Deck.counter hdeck :)
      · show q.lanes = _
        rw [hrest]
        rfl
      · intro e' he
        cases he
        refine ⟨congrArg Deck.cal hdeck, congrArg Deck.filter hdeck, congrArg Deck.stability hdeck,
          congrArg Deck.status hdeck, (congrArg Deck.zd hdeck :), ?_⟩
        exact link_done (p := p) (show q.link = p.link by rw [hrest]; rfl) ..
    | zero z =>
      have hrow := completeCalWrite_zero (p := s.toPart.freePort) hw hchange hcal (field o.bytes 506 4)
      have hdeck := (deck_modDeck_self s.toPart.freePort w.deck fun y => y.takeZcal z).trans (takeZcal_good hcal z)
      refine ⟨_, hends _ hrow hps, haudit s.audit rfl, fun d hd => ?_, (congrArg Deck.service hdeck :),
        (congrArg Deck.counter hdeck :), rfl, (fun e he => nomatch he), fun z' hz => ?_⟩
      · exact (deck_modDeck s.toPart.freePort w.deck d fun y => y.takeZcal z).trans (if_neg hd)
      · cases hz
        exact ⟨congrArg Deck.cal hdeck, congrArg Deck.zd hdeck, rfl⟩

end Sys2Proof.Machine
end


section
/-! PROOFS. The ends of the writes of trail records, tickets, read marks and mirror records (R64, R108, R117, R120, R123,
R147, R154, R162, R164). -/

namespace Sys2Proof.Machine

/-! ## A report to both lanes (R43) -/

section
variable {p : Part}

theorem lane_bothBlocks (p : Part) (f : Blocks → Blocks) (l : LaneId) :
    (p.bothBlocks f).lane l = { p.lane l with blocks := f (p.lane l).blocks } := by
  cases l with
  | l0 => rfl
  | l1 => rfl

theorem settled_bothBlocks (h : p.settingsSettled) (f : Blocks → Blocks) : (p.bothBlocks f).settingsSettled :=
  settled_lane h rfl fun l => by rw [lane_bothBlocks]

theorem bothBlocks_same {f : Blocks → Blocks} (h : ∀ b, f b = b) : p.bothBlocks f = p := by
  rw [funext h]
  rfl

/-- A report that goes out under a condition changes every block set under it. -/
theorem bothBlocks_if {c : Prop} [Decidable c] {f g : Blocks → Blocks} (ht : c → ∀ b, g b = f b) (hf : ¬ c → ∀ b, g b = b) :
    (if c then p.bothBlocks f else p) = p.bothBlocks g := by
  split
  case isTrue h => rw [funext (ht h)]
  case isFalse h => rw [bothBlocks_same (hf h)]

end

/-! ## Trail records (R154, R162) -/

/-- The record is the one that a calibration write waits for. -/
def TrailRecord.belongsTo (x : TrailRecord) (w : CalWrite) : Prop :=
  x.deck = some w.deck ∧ ((∃ a b, x.body = .calChange a b w.newCount) ∨ ∃ a b, x.body = .zeroSet a b w.newCount)

/-- The head of the trail's queue has been written. -/
def Part.trailNext (p : Part) (xs : List TrailRecord) : Part :=
  { p with audit := { p.audit with trail := { p.audit.trail with staging := xs, nextSeq := p.audit.trail.nextSeq + 1 } } }

/-- The calibration write goes on to its image (R154). -/
def Part.calWriteOn (p : Part) (w : CalWrite) (session : Option Session) : Part :=
  let writes := (session.map (·.writes)).getD 0 + 1
  { (p.modDeck w.deck fun z => { z with counter := w.newCount, marker := some writes }) with
    audit := { p.audit with
      calWrite := some { w with stage := .image }, session := session.map fun y => { y with writes := writes } }
    store := { p.store with tableQueue := p.store.tableQueue ++ [.calWrite w.deck] } }

section
variable {p : Part} {x : TrailRecord} {w : CalWrite}

theorem advanceCalWrite_none (h : p.audit.calWrite = none) : p.advanceCalWrite x = p := by
  unfold Part.advanceCalWrite
  rw [h]

theorem advanceCalWrite_other (hw : p.audit.calWrite = some w) (h : w.stage = .image ∨ ¬ x.belongsTo w) :
    p.advanceCalWrite x = p := by
  unfold Part.advanceCalWrite
  rw [hw]
  dsimp only
  refine if_neg ?_
  rintro ⟨hstage, hits⟩
  rcases h with h | h
  · exact absurd (hstage.symm.trans h) (by decide)
  · refine h ?_
    unfold TrailRecord.belongsTo
    cases hbody : x.body with
    | calChange a b n =>
      rw [hbody] at hits
      obtain ⟨hdeck, hcount⟩ := of_decide_eq_true hits
      exact ⟨hdeck, .inl ⟨a, b, by rw [hcount]⟩⟩
    | zeroSet a b n =>
      rw [hbody] at hits
      obtain ⟨hdeck, hcount⟩ := of_decide_eq_true hits
      exact ⟨hdeck, .inr ⟨a, b, by rw [hcount]⟩⟩
    | _ =>
      rw [hbody] at hits
      exact absurd hits Bool.false_ne_true

theorem advanceCalWrite_its (hw : p.audit.calWrite = some w) (hst : w.stage = .trail) (hits : x.belongsTo w) :
    p.advanceCalWrite x = p.calWriteOn w p.audit.session := by
  obtain ⟨hdeck, hbody⟩ := hits
  unfold Part.advanceCalWrite
  rw [hw]
  dsimp only
  rcases hbody with ⟨a, b, hbody⟩ | ⟨a, b, hbody⟩
  · rw [hbody]
    exact (if_pos ⟨hst, decide_eq_true ⟨hdeck, rfl⟩⟩).trans rfl
  · rw [hbody]
    exact (if_pos ⟨hst, decide_eq_true ⟨hdeck, rfl⟩⟩).trans rfl

theorem trailWritten_eq {xs : List TrailRecord} (h : p.audit.trail.staging = x :: xs) :
    p.trailWritten = (p.trailNext xs).advanceCalWrite x := by
  unfold Part.trailWritten
  rw [h]
  rfl

end

/-! ## Read marks (R123, R164) -/

section
variable {p : Part} {corr : U16}

theorem trailMarkWritten_eq (h : p.audit.trail.ack = some corr) :
    let r := p.audit.trail
    let r' : Trail := { r with oldest := r.oldest + 1, ack := none, markWaiting := false }
    p.trailMarkWritten = ((({ p with audit := { p.audit with trail := r' } } : Part).bothBlocks fun b =>
      { b with trailFull := b.trailFull && decide (r.free ≠ 0 ∨ r'.free = 0) }).done corr .trailAck
        (.trailAck (r.oldest + 1) (r.nextSeq - (r.oldest + 1)))) := by
  intro r r'
  have hblocks := bothBlocks_if (p := ({ p with audit := { p.audit with trail := r' } } : Part)) (c := r.free = 0 ∧ r'.free ≠ 0)
    (f := fun b => { b with trailFull := false }) (g := fun b => { b with trailFull := b.trailFull && decide (r.free ≠ 0 ∨ r'.free = 0) })
    (fun hc b => by rw [decide_eq_false (by omega), Bool.and_false]) (fun hc b => by rw [decide_eq_true (by omega), Bool.and_true])
  rw [← hblocks]
  unfold Part.trailMarkWritten
  dsimp only
  rw [h]
  rfl

theorem ticketMarkWritten_eq (h : p.tickets.ack = some corr) :
    let t := p.tickets
    let unread := t.nextSerial - (t.oldestUnread + 1)
    p.ticketMarkWritten = ((({ p with tickets := { t with
      oldestUnread := t.oldestUnread + 1, ack := none, markWaiting := false } } : Part).bothBlocks fun b =>
        { b with storeNearFull := b.storeNearFull && decide (unread + 1 ≠ 2032) }).done corr .ticketAck
          (.ticketAck (t.oldestUnread + 1) unread)) := by
  intro t unread
  have hblocks := bothBlocks_if (p := ({ p with tickets := { t with
      oldestUnread := t.oldestUnread + 1, ack := none, markWaiting := false } } : Part)) (c := unread + 1 = 2032)
    (f := fun b => { b with storeNearFull := false }) (g := fun b => { b with storeNearFull := b.storeNearFull && decide (unread + 1 ≠ 2032) })
    (fun hc b => by rw [decide_eq_false (not_not.mpr hc), Bool.and_false]) (fun hc b => by rw [decide_eq_true hc, Bool.and_true])
  rw [← hblocks]
  unfold Part.ticketMarkWritten
  dsimp only
  rw [h]
  rfl

end

/-! ## Ticket records (R64, R117, R120) -/

/-- The head of the staging queue has been written, and STORE_BUSY goes with a full queue. -/
def Part.ticketGone (p : Part) (xs : List StagedTicket) : Part :=
  ({ p with tickets := { p.tickets with staging := xs, nextSerial := p.tickets.nextSerial + 1 } } : Part).bothBlocks fun b =>
    { b with storeBusy := b.storeBusy && decide (p.tickets.staging.length < 8) }

/-- What follows the report of the freed place: STORE_NEAR_FULL and the notice (R117, R120). -/
def Part.ticketTold (p : Part) (serial unread : Nat) (t : Ticket) : Part :=
  (p.bothBlocks fun b => { b with storeNearFull := b.storeNearFull || decide (unread = 2032) }).notify
    (.ticketStored serial t.kind t.vehicle unread)

section
variable {p : Part} {x : StagedTicket} {xs : List StagedTicket}

theorem ticketWritten_eq (h : p.tickets.staging = x :: xs) : p.ticketWritten =
    (p.ticketGone xs).placeFreed.ticketTold p.tickets.nextSerial (p.tickets.nextSerial + 1 - p.tickets.oldestUnread) x.ticket := by
  have hgone := bothBlocks_if
    (p := ({ p with tickets := { p.tickets with staging := xs, nextSerial := p.tickets.nextSerial + 1 } } : Part))
    (c := 8 ≤ p.tickets.staging.length) (f := fun b => { b with storeBusy := false })
    (g := fun b => { b with storeBusy := b.storeBusy && decide (p.tickets.staging.length < 8) })
    (fun hc b => by rw [decide_eq_false (by omega), Bool.and_false]) (fun hc b => by rw [decide_eq_true (by omega), Bool.and_true])
  have hnear := bothBlocks_if (p := (p.ticketGone xs).placeFreed)
    (c := p.tickets.nextSerial + 1 - p.tickets.oldestUnread = 2032) (f := fun b => { b with storeNearFull := true })
    (g := fun b => { b with storeNearFull := b.storeNearFull || decide (p.tickets.nextSerial + 1 - p.tickets.oldestUnread = 2032) })
    (fun hc b => by rw [decide_eq_true hc, Bool.or_true]) (fun hc b => by rw [decide_eq_false hc, Bool.or_false])
  unfold Part.ticketTold
  rw [← hnear]
  unfold Part.ticketGone
  rw [← hgone]
  unfold Part.ticketWritten
  rw [h]
  rfl

theorem storeWaits_of {l : LaneId} (h : ∀ v, p.visit l = some v → v.storeWait = false) : p.storeWaits l = false := by
  unfold Part.storeWaits
  cases hv : p.visit l with
  | none => rfl
  | some v => exact h v hv

theorem storeRetry_idle {l : LaneId} (h : ∀ v, p.visit l = some v → v.storeWait = false) : p.storeRetry l = p := by
  unfold Part.storeRetry
  cases hv : p.visit l with
  | none => rfl
  | some v =>
    refine if_neg ?_
    rintro ⟨-, hw⟩
    exact absurd (hw.symm.trans (h v hv)) (by decide)

theorem placeFreed_idle (h : ∀ l v, p.visit l = some v → v.storeWait = false) : p.placeFreed = p := by
  unfold Part.placeFreed
  rw [storeWaits_of (h .l0), Bool.false_and, if_neg Bool.false_ne_true, storeRetry_idle (h .l0), storeRetry_idle (h .l1)]

/-- One waiting visit is taken, and leaves the visit of the other lane (R64). -/
theorem placeFreed_one {l : LaneId} {v : Visit} (hv : p.visit l = some v) (hst : v.state = .settling) (hw : v.storeWait = true)
    (hother : ∀ u, p.visit l.other = some u → u.storeWait = false)
    (hleft : (p.settleComplete l).visit l.other = p.visit l.other) : p.placeFreed = p.settleComplete l := by
  have htakes : p.storeRetry l = p.settleComplete l := by
    unfold Part.storeRetry
    rw [hv]
    exact if_pos ⟨hst, hw⟩
  have hidle := storeRetry_idle hother
  have hafter := storeRetry_idle (p := p.settleComplete l) (l := l.other) fun u hu => hother u (hleft.symm.trans hu)
  unfold Part.placeFreed
  cases l with
  | l0 =>
    rw [show p.storeWaits .l1 = false from storeWaits_of hother, Bool.and_false, if_neg Bool.false_ne_true, htakes]
    exact hafter
  | l1 =>
    rw [show p.storeWaits .l0 = false from storeWaits_of hother, Bool.false_and, if_neg Bool.false_ne_true]
    exact (congrArg (fun q : Part => q.storeRetry .l1) hidle).trans htakes

end

/-- The verdict is formed whatever the axles, where no class entry is damaged (R86-R92). -/
theorem formVerdict_forms {p : Part} (hgood : ∀ z ∈ p.tables.classActive.toList, z.good = true) (l : LaneId)
    (permits : List Nat) (gross captured : Int) :
    ∃ axles r, p.formVerdict l permits gross captured = (p.withAxles l axles, r) := by
  cases hfind : findSteps (p.lane l).axleInvalid (p.lane l).axles captured with
  | none => exact ⟨_, _, formVerdict_unfound permits gross hfind⟩
  | some steps =>
    cases hpass : stepsPass steps with
    | false => exact ⟨_, _, formVerdict_failing permits gross hfind hpass⟩
    | true => exact ⟨_, _, formVerdict_passing permits gross hfind hpass hgood⟩

section
variable {p : Part} {l : LaneId} {v : Visit}

theorem settleComplete_room (hs : p.settingsSettled) (hv : p.visit l = some v) (hst : v.state = .settling)
    (hmin : ((p.settings l).minGross : Int) ≤ (p.displayedWeights l).sum) (hroom : p.tickets.staging.length < 8) :
    p.settleComplete l = p.capture l v := by
  rw [settleComplete_weighed hs hv hst hmin]
  exact if_neg fun h => absurd (of_decide_eq_true h.2) (Nat.not_le.mpr hroom)

/-- A TARE visit is captured and leaves, where there is room for its ticket. -/
theorem capture_tare (hgood : ∀ z ∈ p.tables.classActive.toList, z.good = true) (hroom : p.tickets.staging.length < 8)
    (hk : v.kind = some .tare) {i : Nat} {e : PendingEntry} {g : GrossSide} {m : LaneId} (hi : v.pendingIndex = some i)
    (he : p.slot i = some e) (hclaimed : e.state = .claimed g m) :
    ∃ axles r, let q := p.capture l v
      let c := p.captureOf l r
      (p.captured l v axles r).exitsTo q l (v.capturing c) ∧
      (p.captured l v axles r).stagesTicket q l (v.capturing c)
        (pairTicket .net e.vehicle e.regIndex g (.weighed c.gross c.time l c.counts) c.gross v.exitOverrun) ∧
      q.slot i = none ∧ (∀ j, j ≠ i → q.slot j = p.slot j) ∧ i ∈ q.pairing.dirty := by
  obtain ⟨axles, r, hform⟩ := formVerdict_forms hgood l v.permits (p.displayedWeights l).sum (p.rawTotal l)
  have hq : p.capture l v = (p.captured l v axles r).enterExiting l := by
    rw [capture_eq hform]
    exact if_neg fun h => h.1 hk
  obtain ⟨hexits, hslot, hslots, hdirty, hstages⟩ := enterExiting_tare
    (visit_captured (p := p) (l := l) (v := v) (axles := axles) (r := r)) rfl hk hi
    (show (p.captured l v axles r).slot i = some e from he) hclaimed hroom
  refine ⟨axles, r, ?_⟩
  dsimp only
  rw [hq]
  exact ⟨hexits, hstages, hslot, hslots, hdirty⟩

/-- A GROSS_PRESET visit that is not screened is captured and leaves, where there is room for its ticket. -/
theorem capture_preset (hinv : (p.lane l).axleInvalid = true) (hroom : p.tickets.staging.length < 8)
    (hk : v.kind = some .grossPreset) {a : PresetTare} {id : VehicleId} (ha : v.preset = some a) (hid : v.vehicle = some id) :
    let q := p.capture l v
    let r := notScreened (p.lane l).overflow
    let c := p.captureOf l r
    (p.captured l v (p.lane l).axles r).exitsTo q l (v.capturing c) ∧
      (p.captured l v (p.lane l).axles r).stagesTicket q l (v.capturing c)
        (pairTicket .presetNet id v.regIndex ((v.capturing c).grossSide l c) (.preset a.mass a.date) a.mass v.exitOverrun) ∧
      q.pairing = p.pairing := by
  have hform := formVerdict_unfound v.permits (p.displayedWeights l).sum (findSteps_invalid hinv (p.rawTotal l))
  have hq : p.capture l v = (p.captured l v (p.lane l).axles (notScreened (p.lane l).overflow)).enterExiting l := by
    rw [capture_eq hform]
    exact if_neg fun h => absurd h.2.1 (show VerdictKind.notScreened ≠ .over by decide)
  obtain ⟨hexits, hpairing, hstages⟩ := enterExiting_preset
    (visit_captured (p := p) (l := l) (v := v) (axles := (p.lane l).axles) (r := notScreened (p.lane l).overflow))
    rfl hk ha hid hroom
  dsimp only
  rw [hq]
  exact ⟨hexits, hstages, hpairing⟩

end

/-- A part whose lanes differ from those of `p` in the blocks alone. -/
theorem clearsFrom_blocks {p q : Part} {l : LaneId} (hc : q.clock = p.clock)
    (h : q.lane l = { p.lane l with blocks := (q.lane l).blocks }) : q.clearsFrom l = p.clearsFrom l := by
  unfold Part.clearsFrom Part.laneEnd
  rw [h, hc]

/-- STORE_BUSY goes with a full queue, and comes back with the ticket that fills it again. -/
theorem busy_refilled {b : Bool} {n : Nat} (h : n < 8) :
    (b && decide (n + 1 < 8) || decide (n = 7)) = (b || decide (7 ≤ n)) := by
  by_cases hn : n = 7
  · rw [decide_eq_true hn, decide_eq_true (show 7 ≤ n by omega), Bool.or_true, Bool.or_true]
  · rw [decide_eq_true (show n + 1 < 8 by omega), decide_eq_false hn, decide_eq_false (show ¬ 7 ≤ n by omega), Bool.and_true]

/-! ## A visit that waits for the place (R64) -/

theorem Part.exitsTo.clock {p q : Part} {l : LaneId} {v : Visit} (h : p.exitsTo q l v) : q.clock = p.clock := by
  rw [h.1]

section
variable {p : Part} {l : LaneId} {v : Visit} {axles : List Axle} {r : Verdict}

theorem clock_captured : (p.captured l v axles r).clock = p.clock := rfl

theorem tickets_captured : (p.captured l v axles r).tickets = p.tickets := rfl

end

/-- A ticket is verified, and the visit of lane `l` alone waits for a place. -/
structure State.retries (s : State) (o : Op) (x : StagedTicket) (xs : List StagedTicket) (l : LaneId) (v : Visit) : Prop where
  settled : s.toPart.settingsSettled
  op : s.store.op = some o
  kind : o.kind = .ticketRecord
  staged : s.tickets.staging = x :: xs
  visit : s.toPart.visit l = some v
  settling : v.state = .settling
  waits : v.storeWait = true
  other : ∀ u, s.toPart.visit l.other = some u → u.storeWait = false

/-- The part in which the visit is weighed again. -/
def State.retryPart (s : State) (xs : List StagedTicket) : Part := s.toPart.freePort.ticketGone xs

/-- The write ends as `q`, which stages `ts` and tells `told` before the stored ticket `x`. -/
def State.retryEnds (s : State) (o : Op) (x : StagedTicket) (xs : List StagedTicket) (q : Part) (ts : List StagedTicket)
    (told : NoticeBody) : Prop :=
  writesAs .ticketWritten s o.address o.bytes q ∧
    q.tickets = { s.tickets with staging := xs ++ ts, nextSerial := s.tickets.nextSerial + 1 } ∧
    q.link = s.toPart.told [told, .ticketStored s.tickets.nextSerial x.ticket.kind x.ticket.vehicle
      (s.tickets.nextSerial + 1 - s.tickets.oldestUnread)] ∧
    q.decks = s.decks ∧ q.audit = s.audit ∧ q.tables = s.tables

/-- The write ends as `q`, in which the visit has been captured and has left with the ticket `k`. -/
def State.retryExits (s : State) (o : Op) (x : StagedTicket) (xs : List StagedTicket) (l : LaneId) (v : Visit) (q : Part)
    (k : Ticket) (r : Verdict) : Prop :=
  s.retryEnds o x xs q [⟨k, some (l, v.count)⟩] (.visitCaptured l v.count v.kind (s.toPart.displayedWeights l).sum r.kind) ∧
    q.visit l = some { v with state := .exiting, storeWait := false, capture := some (s.toPart.captureOf l r) } ∧
    (q.lane l).clearTimer = s.toPart.clearsFrom l ∧
    ∀ m, (q.lane m).blocks.storeBusy = ((s.toPart.lane m).blocks.storeBusy || decide (7 ≤ xs.length))

section
variable {s : State} {o : Op} {x : StagedTicket} {xs : List StagedTicket} {l : LaneId} {v : Visit}

theorem ticketWritten_writes {q : Part} (ho : s.store.op = some o) (hk : o.kind = .ticketRecord)
    (hq : s.toPart.freePort.ticketWritten = q) (hqs : q.settingsSettled) : writesAs .ticketWritten s o.address o.bytes q :=
  written_writesAs (fun k => match k with
    | .ticketRecord => some Part.ticketWritten
    | _ => none) hqs ho rfl (f := Part.ticketWritten) (by rw [hk]) hq

theorem lane_ticketTold (q : Part) (n unread : Nat) (k : Ticket) (m : LaneId) : (q.ticketTold n unread k).lane m =
    { q.lane m with blocks := { (q.lane m).blocks with
      storeNearFull := (q.lane m).blocks.storeNearFull || decide (unread = 2032) } } := lane_bothBlocks ..

theorem lane_retryPart (s : State) (xs : List StagedTicket) (m : LaneId) :
    (s.retryPart xs).lane m = { s.toPart.lane m with blocks := ((s.retryPart xs).lane m).blocks } := by
  unfold State.retryPart Part.ticketGone
  rw [lane_bothBlocks]
  rfl

theorem clock_retryPart : (s.retryPart xs).clock = s.clock := rfl

theorem visit_retryPart (m : LaneId) : (s.retryPart xs).visit m = s.toPart.visit m :=
  (congrArg Lane.visit (lane_retryPart s xs m) :)

theorem settings_retryPart : (s.retryPart xs).settings l = s.toPart.settings l :=
  settings_same rfl (congrArg Lane.adoptedActive (lane_retryPart s xs l) :)

theorem settled_retryPart (h : s.toPart.settingsSettled) : (s.retryPart xs).settingsSettled :=
  settled_lane h rfl fun m => (congrArg Lane.adoptedActive (lane_retryPart s xs m) :)

theorem busy_retryPart (hx : s.tickets.staging = x :: xs) (m : LaneId) : ((s.retryPart xs).lane m).blocks.storeBusy =
    ((s.toPart.lane m).blocks.storeBusy && decide (xs.length + 1 < 8)) := by
  unfold State.retryPart Part.ticketGone
  rw [lane_bothBlocks, show s.toPart.freePort.tickets.staging = x :: xs from hx]
  rfl

variable (h : s.retries o x xs l v)
include h

theorem State.retries.seen : (s.retryPart xs).visit l = some v := (visit_retryPart l).trans h.visit

/-- What the settle completion makes of the waiting visit is told with the ticket that made room. -/
theorem State.retries.ends {q : Part} {ts : List StagedTicket} {told : NoticeBody} (hq : (s.retryPart xs).settleComplete l = q)
    (hqs : q.settingsSettled) (hleft : q.visit l.other = (s.retryPart xs).visit l.other) (hclock : q.clock = s.clock)
    (hrest : q.decks = s.decks ∧ q.audit = s.audit ∧ q.tables = s.tables)
    (htickets : q.tickets = { s.tickets with staging := xs ++ ts, nextSerial := s.tickets.nextSerial + 1 })
    (hlink : q.link = s.toPart.told [told]) :
    s.retryEnds o x xs (q.ticketTold s.tickets.nextSerial (s.tickets.nextSerial + 1 - s.tickets.oldestUnread) x.ticket) ts told := by
  have hfreed : (s.retryPart xs).placeFreed = q :=
    (placeFreed_one h.seen h.settling h.waits (fun u hu => h.other u ((visit_retryPart _).symm.trans hu))
      ((congrArg (fun r : Part => r.visit l.other) hq).trans hleft)).trans hq
  refine ⟨ticketWritten_writes h.op h.kind ((ticketWritten_eq (p := s.toPart.freePort) h.staged).trans
    (congrArg (fun r : Part => r.ticketTold _ _ _) hfreed)) (settled_notify (settled_bothBlocks hqs _) _), htickets, ?_, hrest⟩
  exact told_next (q := q.bothBlocks _) hlink hclock _

/-- A visit that is below the minimum gross by then is aborted. -/
theorem State.retries.below (hbelow : (s.toPart.displayedWeights l).sum < (s.toPart.settings l).minGross) :
    ∃ q, s.retryEnds o x xs q [] (.visitAborted l v.count v.vehicle v.kind .belowMinimum) ∧ s.toPart.releases q v ∧
      q.visit l = some { v with state := .clearing, abort := some .belowMinimum, storeWait := false } := by
  obtain ⟨hrest, haborts, hreleases, hlink, hoth⟩ := abortVisit_facts (s.retryPart xs) l v .belowMinimum h.seen (.inr (.inl h.settling))
  have hq := settleComplete_below (settled_retryPart h.settled) h.seen h.settling (by rw [settings_retryPart]; exact hbelow)
  generalize (s.retryPart xs).abortVisit l .belowMinimum = q at *
  refine ⟨_, h.ends hq (settled_oneLane (settled_retryPart (xs := xs) h.settled) l (by rw [hrest]) (by rw [haborts]; rfl) hoth)
    (congrArg Lane.visit hoth) ?_ ?_ ?_ hlink, hreleases, ?_⟩
  · rw [hrest]
    rfl
  · rw [hrest]
    exact ⟨rfl, rfl, rfl⟩
  · rw [hrest, List.append_nil]
    rfl
  · unfold Part.visit
    rw [lane_ticketTold, haborts]
    rfl

/-- A visit that is captured leaves with the ticket that it stages. -/
theorem State.retries.exits {axles : List Axle} {r : Verdict} {k : Ticket} {q : Part}
    (hq : (s.retryPart xs).settleComplete l = q) (hroom : xs.length < 8)
    (hexits : ((s.retryPart xs).captured l v axles r).exitsTo q l (v.capturing ((s.retryPart xs).captureOf l r)))
    (hstages : ((s.retryPart xs).captured l v axles r).stagesTicket q l (v.capturing ((s.retryPart xs).captureOf l r)) k) :
    s.retryExits o x xs l v
      (q.ticketTold s.tickets.nextSerial (s.tickets.nextSerial + 1 - s.tickets.oldestUnread) x.ticket) k r := by
  obtain ⟨hvisit, -, hclear, hlink, hoth, hdecks, haudit, htables, -⟩ := captured_exits hexits
  obtain ⟨hstaged, hfilled⟩ := hstages
  have hclock : q.clock = s.clock := hexits.clock.trans (clock_captured.trans clock_retryPart)
  have htold : q.link = s.toPart.told [.visitCaptured l v.count v.kind (s.toPart.displayedWeights l).sum r.kind] :=
    hlink.trans (link_notify rfl rfl _)
  have htickets : q.tickets = { s.tickets with
    staging := xs ++ [⟨k, some (l, v.count)⟩], nextSerial := s.tickets.nextSerial + 1 } :=
    hstaged.trans (by rw [tickets_captured]; rfl)
  have hleft : q.visit l.other = (s.retryPart xs).visit l.other := (congrArg Lane.visit hoth :)
  have hends := h.ends hq (hexits.settled (settled_captured (settled_retryPart h.settled))) hleft hclock ⟨hdecks, haudit, htables⟩
    htickets htold
  refine ⟨hends, ?_, ?_, fun m => ?_⟩
  · unfold Part.visit
    rw [lane_ticketTold]
    exact hvisit
  · rw [lane_ticketTold]
    exact hclear.trans (clearsFrom_blocks (p := s.toPart) clock_retryPart (lane_retryPart s xs l))
  · rw [lane_ticketTold]
    dsimp only
    rw [hfilled, blocks_captured, busy_retryPart h.staged, tickets_captured]
    exact busy_refilled hroom

theorem State.retries.captures (hmin : ((s.toPart.settings l).minGross : Int) ≤ (s.toPart.displayedWeights l).sum)
    (hroom : xs.length < 8) : (s.retryPart xs).settleComplete l = (s.retryPart xs).capture l v :=
  settleComplete_room (settled_retryPart h.settled) h.seen h.settling (by rw [settings_retryPart]; exact hmin) hroom

theorem State.retries.tare (hmin : ((s.toPart.settings l).minGross : Int) ≤ (s.toPart.displayedWeights l).sum)
    (hroom : xs.length < 8) (hkind : v.kind = some .tare) (hgood : ∀ z ∈ s.tables.classActive.toList, z.good = true) {i : Nat}
    {e : PendingEntry} {g : GrossSide} {m : LaneId} (hi : v.pendingIndex = some i) (he : s.toPart.slot i = some e)
    (hclaimed : e.state = .claimed g m) :
    ∃ q r, s.retryExits o x xs l v q (pairTicket .net e.vehicle e.regIndex g
        (.weighed (s.toPart.displayedWeights l).sum s.toPart.siteTime l (s.toPart.captureOf l r).counts)
        (s.toPart.displayedWeights l).sum v.exitOverrun) r ∧
      q.slot i = none ∧ (∀ j, j ≠ i → q.slot j = s.toPart.slot j) ∧ i ∈ q.pairing.dirty := by
  have hslots : ∀ j, (s.retryPart xs).slot j = s.toPart.slot j := fun _ => rfl
  obtain ⟨axles, r, hexits, hstages, hrows⟩ :=
    capture_tare (p := s.retryPart xs) (l := l) hgood hroom hkind hi ((hslots i).trans he) hclaimed
  exact ⟨_, r, h.exits (h.captures hmin hroom) hroom hexits hstages, hrows⟩

theorem State.retries.preset (hmin : ((s.toPart.settings l).minGross : Int) ≤ (s.toPart.displayedWeights l).sum)
    (hroom : xs.length < 8) (hkind : v.kind = some .grossPreset) (hinv : (s.toPart.lane l).axleInvalid = true) {a : PresetTare}
    {id : VehicleId} (ha : v.preset = some a) (hid : v.vehicle = some id) :
    let r := notScreened (s.toPart.lane l).overflow
    let c := s.toPart.captureOf l r
    ∃ q, s.retryExits o x xs l v q (pairTicket .presetNet id v.regIndex ((v.capturing c).grossSide l c)
      (.preset a.mass a.date) a.mass v.exitOverrun) r ∧ q.pairing = s.pairing := by
  have hlane := lane_retryPart s xs l
  have hoverflow : ((s.retryPart xs).lane l).overflow = (s.toPart.lane l).overflow := (congrArg Lane.overflow hlane :)
  obtain ⟨hexits, hstages, hpairing⟩ := capture_preset (p := s.retryPart xs) (l := l) (by rw [hlane]; exact hinv) hroom hkind ha hid
  have hall := h.exits (h.captures hmin hroom) hroom hexits hstages
  rw [hoverflow] at hall
  exact ⟨_, hall, hpairing⟩

end

/-- Settles O54: every record by the equation of its end; a visit that waits for the place is settled in `State.retries`, by
the rows of the settle completion. -/
theorem recordsWritten : Obligations.RecordsWritten := by
  intro o s hs ho p r t
  have hps : p.settingsSettled := settled_of hs rfl rfl rfl
  have runTrail {q : Part} (hk : o.kind = .trailRecord) (hq : s.toPart.freePort.trailWritten = q) (hqs : q.settingsSettled) :
      writesAs .trailRecordWritten s o.address o.bytes q :=
    written_writesAs (fun k => match k with
      | .trailRecord => some Part.trailWritten
      | _ => none) hqs ho rfl (f := Part.trailWritten) (by rw [hk]) hq
  refine ⟨fun x xs hk hx hw => ?_, fun x xs w hk hx hw => ?_, fun corr hk hack => ?_, fun x xs hk hx hnone => ?_,
    fun x xs l v hk hx hv hst hw hother => ?_, fun corr hk hack => ?_, fun i hk => ?_⟩
  · exact runTrail hk ((trailWritten_eq (p := p) hx).trans (advanceCalWrite_none (p := p.trailNext xs) hw)) hps
  · intro written isIts
    refine ⟨fun h => ?_, fun hst hits y hy => ?_⟩
    · exact runTrail hk ((trailWritten_eq (p := p) hx).trans (advanceCalWrite_other (p := p.trailNext xs) hw h)) hps
    · exact runTrail hk ((trailWritten_eq (p := p) hx).trans ((advanceCalWrite_its (p := p.trailNext xs) hw hst hits).trans
        (congrArg (Part.calWriteOn (p.trailNext xs) w) hy))) hps
  · exact written_writesAs (fun k => match k with
      | .trailMark => some Part.trailMarkWritten
      | _ => none) (settled_done (settled_bothBlocks (p := { p with audit := { s.audit with trail := { r with
        oldest := r.oldest + 1, ack := none, markWaiting := false } } }) hps _) ..) ho rfl (f := Part.trailMarkWritten)
        (by rw [hk]) (trailMarkWritten_eq (p := p) hack)
  · have hfreed : (p.ticketGone xs).placeFreed = p.ticketGone xs := placeFreed_idle fun l v hv => by
      refine hnone l v (Eq.trans ?_ hv)
      unfold Part.visit Part.ticketGone
      rw [lane_bothBlocks]
      rfl
    refine ticketWritten_writes ho hk ((ticketWritten_eq (p := p) hx).trans ((congrArg (fun q : Part => q.ticketTold _ _ _) hfreed).trans ?_)) ?_
    · rfl
    · exact settled_notify (settled_bothBlocks (p := { p with tickets := { t with
        staging := xs, nextSerial := t.nextSerial + 1 } }) hps _) _
  · have hretries : s.retries o x xs l v := ⟨hs, ho, hk, hx, hv, hst, hw, hother⟩
    refine ⟨hretries.below, fun hmin hroom => ⟨fun hkind hgood i e g m hi he hclaimed => ?_,
      fun hkind hinv a g id hpre hg hid => ?_⟩⟩
    · obtain ⟨q, r, hexits, hrows⟩ := hretries.tare hmin hroom hkind hgood hi he hclaimed
      rw [pairTicket_eq] at hexits
      exact ⟨q, r, hexits, hrows⟩
    · obtain ⟨q, hexits, hpairing⟩ := hretries.preset hmin hroom hkind hinv hpre hid
      rw [pairTicket_eq, grossSide_eq (v := v.capturing (s.toPart.captureOf l (notScreened (s.toPart.lane l).overflow))) hg] at hexits
      exact ⟨q, hexits, hpairing⟩
  · exact written_writesAs (fun k => match k with
      | .ticketMark => some Part.ticketMarkWritten
      | _ => none) (settled_done (settled_bothBlocks (p := { p with tickets := { t with
        oldestUnread := t.oldestUnread + 1, ack := none, markWaiting := false } }) hps _) ..) ho rfl
        (f := Part.ticketMarkWritten) (by rw [hk]) (ticketMarkWritten_eq (p := p) hack)
  · exact written_writesAs (fun k => match k with
      | .mirror _ => some id
      | _ => none) hps ho rfl (f := id) (by rw [hk]) rfl

end Sys2Proof.Machine
end


section
/-! PROOFS. A write that fails its retry, and the store fault that it brings (R109, R123, R135, R137, R155, R164, R170). -/

namespace Sys2Proof.Machine

/-! ## Requests that end REFUSED STORE_FAULT -/

/-- These requests are refused STORE_FAULT, in this order. -/
def Part.refuseAll (p : Part) (rs : List (U16 × Req)) : Part := rs.foldl (fun x r => x.refuse r.1 r.2 .storeFault) p

section
variable {p : Part}

theorem refuseAll_rest (p : Part) (rs : List (U16 × Req)) : p.refuseAll rs = { p with link := (p.refuseAll rs).link } := by
  induction rs generalizing p with
  | nil => rfl
  | cons r rs ih => exact (ih (p.refuse r.1 r.2 .storeFault)).trans rfl

theorem refuseAll_link {q : Part} (h : q.link = p.link) (rs : List (U16 × Req)) : (q.refuseAll rs).link = (p.refuseAll rs).link := by
  induction rs generalizing p q with
  | nil => exact h
  | cons r rs ih =>
    refine ih (p := p.refuse r.1 r.2 .storeFault) (q := q.refuse r.1 r.2 .storeFault) ?_
    unfold Part.refuse Part.respond Part.modLink
    rw [h]

theorem refuseAll_then {q : Part} {rs : List (U16 × Req)} (h : q.link = (p.refuseAll rs).link) (ts : List (U16 × Req)) :
    (q.refuseAll ts).link = (p.refuseAll (rs ++ ts)).link := by
  rw [show p.refuseAll (rs ++ ts) = (p.refuseAll rs).refuseAll ts from List.foldl_append]
  exact refuseAll_link h ts

/-! ## The acknowledgements (R123, R164) -/

/-- The acknowledgement of the ticket writer ends. -/
def Part.failTicketAck (p : Part) : Part :=
  match p.tickets.ack with
  | none => p
  | some corr => (p.modTickets fun t => { t with ack := none, markWaiting := false }).refuse corr .ticketAck .storeFault

/-- The acknowledgement of the trail writer ends. -/
def Part.failTrailAck (p : Part) : Part :=
  match p.audit.trail.ack with
  | none => p
  | some corr => (p.modTrail fun t => { t with ack := none, markWaiting := false }).refuse corr .trailAck .storeFault

theorem failAcks_eq (p : Part) : p.failAcks = p.failTicketAck.failTrailAck := rfl

def TicketUnit.ackFailed (t : TicketUnit) : TicketUnit := { t with ack := none, markWaiting := t.markWaiting && t.ack.isNone }

def Trail.ackFailed (t : Trail) : Trail := { t with ack := none, markWaiting := t.markWaiting && t.ack.isNone }

theorem ticketAckFailed_none {t : TicketUnit} (h : t.ack = none) : t.ackFailed = t := by
  unfold TicketUnit.ackFailed
  rw [h, Option.isNone_none, Bool.and_true, ← h]

theorem ticketAckFailed_some {t : TicketUnit} {corr : U16} (h : t.ack = some corr) :
    t.ackFailed = { t with ack := none, markWaiting := false } := by
  unfold TicketUnit.ackFailed
  rw [h, Option.isNone_some, Bool.and_false]

theorem trailAckFailed_none {t : Trail} (h : t.ack = none) : t.ackFailed = t := by
  unfold Trail.ackFailed
  rw [h, Option.isNone_none, Bool.and_true, ← h]

theorem trailAckFailed_some {t : Trail} {corr : U16} (h : t.ack = some corr) :
    t.ackFailed = { t with ack := none, markWaiting := false } := by
  unfold Trail.ackFailed
  rw [h, Option.isNone_some, Bool.and_false]

theorem failTicketAck_eq (p : Part) : p.failTicketAck = { p with
    tickets := p.tickets.ackFailed, link := (p.refuseAll (p.tickets.ack.toList.map (·, .ticketAck))).link } := by
  unfold Part.failTicketAck
  cases h : p.tickets.ack with
  | none =>
    rw [ticketAckFailed_none h]
    rfl
  | some corr =>
    rw [ticketAckFailed_some h]
    rfl

theorem failTrailAck_eq (p : Part) : p.failTrailAck = { p with
    audit := { p.audit with trail := p.audit.trail.ackFailed }
    link := (p.refuseAll (p.audit.trail.ack.toList.map (·, .trailAck))).link } := by
  unfold Part.failTrailAck
  cases h : p.audit.trail.ack with
  | none =>
    rw [trailAckFailed_none h]
    rfl
  | some corr =>
    rw [trailAckFailed_some h]
    rfl

/-! ## The store and its queue of table images -/

/-- From `p` to `q` the flags of the store stay, and no image write mark goes. -/
def Part.keepsMarks (p q : Part) : Prop :=
  q.store.fault = p.store.fault ∧ q.store.op = p.store.op ∧
    ∀ d, TableOp.image d ∈ p.store.tableQueue → TableOp.image d ∈ q.store.tableQueue

theorem Part.keepsMarks.trans {q r : Part} (h : p.keepsMarks q) (k : q.keepsMarks r) : p.keepsMarks r := by
  obtain ⟨hfault, hop, hmarks⟩ := h
  obtain ⟨kfault, kop, kmarks⟩ := k
  exact ⟨kfault.trans hfault, kop.trans hop, fun d hd => kmarks d (hmarks d hd)⟩

theorem keepsMarks_of {q : Part} (h : q.store = p.store) : p.keepsMarks q := by
  unfold Part.keepsMarks
  rw [h]
  exact ⟨rfl, rfl, fun _ hd => hd⟩

theorem Part.marks.keeps {q : Part} {d : DeckId} (h : p.marks q d) : p.keepsMarks q := by
  rcases h with h | ⟨-, -, h⟩
  · exact keepsMarks_of h
  · unfold Part.keepsMarks
    rw [h]
    exact ⟨rfl, rfl, fun e he => (mem_insertMark _ _ _ _).mpr (.inr he)⟩

/-- The work of the failed write itself (R109, log 50). -/
theorem keepFailed_facts (p : Part) (k : OpKind) :
    let q := p.keepFailed k
    q = { p with store := q.store, pairing := q.pairing } ∧ p.keepsMarks q ∧ q.pairing.slots = p.pairing.slots ∧
      (∀ i, k = .mirror i → q.pairing.dirty = if i ∈ p.pairing.dirty then p.pairing.dirty else i :: p.pairing.dirty) ∧
      ((∀ i, k ≠ .mirror i) → q.pairing.dirty = p.pairing.dirty) ∧
      ∀ d, k = .table (.image d) → (p.deck d).cal ≠ none → TableOp.image d ∈ q.store.tableQueue := by
  cases k with
  | mirror i =>
    unfold Part.keepFailed
    dsimp only
    split
    case isTrue h =>
      refine ⟨rfl, keepsMarks_of rfl, rfl, fun j hj => ?_, fun hno => absurd rfl (hno i), fun d hd => nomatch hd⟩
      cases hj
      rw [if_pos h]
    case isFalse h =>
      refine ⟨rfl, keepsMarks_of rfl, rfl, fun j hj => ?_, fun hno => absurd rfl (hno i), fun d hd => nomatch hd⟩
      cases hj
      rw [if_neg h]
      rfl
  | table o =>
    cases o with
    | image d =>
      obtain ⟨hmarks, hmem⟩ := markImage_marks p d
      have hrest : p.markImage d = { p with store := (p.markImage d).store } := by
        rw [(markImage_facts p d).1]
      have hpairing : (p.markImage d).pairing = p.pairing := by rw [hrest]
      refine ⟨hrest.trans ?_, hmarks.keeps, congrArg (fun x => x.slots) hpairing, (fun i hi => nomatch hi),
        fun _ => congrArg (fun x => x.dirty) hpairing, fun e he hcal => ?_⟩
      · show _ = ({ p with store := (p.markImage d).store, pairing := (p.markImage d).pairing } : Part)
        rw [hpairing]
      · cases he
        exact hmem (Option.isSome_iff_ne_none.mpr hcal)
    | _ => exact ⟨rfl, keepsMarks_of rfl, rfl, (fun _ hi => nomatch hi), fun _ => rfl, fun _ hd => nomatch hd⟩
  | _ => exact ⟨rfl, keepsMarks_of rfl, rfl, (fun _ hi => nomatch hi), fun _ => rfl, fun _ hd => nomatch hd⟩

/-! ## The commit and the register change (R135, R137) -/

/-- The commit ends. -/
def Part.failCommit (p : Part) : Part :=
  match p.tables.commit with
  | none => p
  | some c => (p.modTables fun t => { t with commit := none }).refuse c.corr .tableCommit .storeFault

/-- The register change ends. -/
def Part.failRegChange (p : Part) : Part :=
  match p.tables.regChange with
  | none => p
  | some c =>
    (p.modTables fun t => { t with regChange := none }).refuse c.corr
      (if c.put then .registerPut else .registerRemove) .storeFault

/-- The operations of the table image writer that a store fault leaves. -/
def TableOp.stays : TableOp → Bool
  | .image _ => true
  | .calWrite _ => true
  | _ => false

theorem failTables_eq (p : Part) : p.failTables =
    (p.modStore fun x => { x with tableQueue := x.tableQueue.filter TableOp.stays }).failCommit.failRegChange := rfl

theorem commit_cleared {t : TableStore} (h : t.commit = none) : { t with commit := none } = t := by
  rw [← h]

theorem regChange_cleared {t : TableStore} (h : t.regChange = none) : { t with regChange := none } = t := by
  rw [← h]

theorem failCommit_eq (p : Part) : p.failCommit = { p with
    tables := { p.tables with commit := none }
    link := (p.refuseAll (p.tables.commit.toList.map fun x => (x.corr, .tableCommit))).link } := by
  unfold Part.failCommit
  cases h : p.tables.commit with
  | none =>
    rw [commit_cleared h]
    rfl
  | some c => rfl

theorem failRegChange_eq (p : Part) : p.failRegChange = { p with
    tables := { p.tables with regChange := none }
    link := (p.refuseAll (p.tables.regChange.toList.map fun x =>
      (x.corr, if x.put then .registerPut else .registerRemove))).link } := by
  unfold Part.failRegChange
  cases h : p.tables.regChange with
  | none =>
    rw [regChange_cleared h]
    rfl
  | some c => rfl

/-! ## The calibration write (R155) -/

/-- What a store fault makes of the audit unit, of the decks and of the store, with the calibration write there. -/
theorem failCalWrite_facts (h : ∀ w, p.audit.calWrite = some w → (p.deck w.deck).service = .audit) :
    let q := p.failCalWrite
    q = { p with decks := q.decks, store := q.store
                 audit := { p.audit with calWrite := none, session := q.audit.session }
                 link := (p.refuseAll (p.audit.calWrite.toList.map fun x => (x.corr, x.req))).link } ∧
      p.keepsMarks q ∧ (∀ d, (q.deck d).counter = (p.deck d).counter ∧ (q.deck d).cal = (p.deck d).cal) ∧
      (∀ w, p.audit.calWrite = some w → w.stage = .image →
        (q.deck w.deck).causes.imageInvalid = true ∧ q.audit.session = p.audit.session.map Session.recount) ∧
      ((∀ w, p.audit.calWrite = some w → w.stage = .trail) → q.audit.session = p.audit.session ∧ q.decks = p.decks) := by
  unfold Part.failCalWrite
  cases hw : p.audit.calWrite with
  | none =>
    dsimp only
    have hcleared : { p.audit with calWrite := none } = p.audit := by
      rw [← hw]
    refine ⟨?_, keepsMarks_of rfl, fun _ => ⟨rfl, rfl⟩, (fun _ hno => nomatch hno), fun _ => ⟨rfl, rfl⟩⟩
    show p = { p with audit := { p.audit with calWrite := none } }
    rw [hcleared]
  | some w =>
    dsimp only
    cases hst : w.stage with
    | trail =>
      refine ⟨rfl, keepsMarks_of rfl, fun _ => ⟨rfl, rfl⟩, fun x hx himage => ?_, fun _ => ⟨rfl, rfl⟩⟩
      cases hx
      exact absurd (hst.symm.trans himage) (by decide)
    | image =>
      dsimp only
      set b := ((((p.modAudit fun a => { a with calWrite := none }).refuse w.corr w.req .storeFault).modAudit fun a =>
        { a with session := a.session.map Session.recount }).modStore fun x =>
          { x with tableQueue := x.tableQueue.erase (.calWrite w.deck) })
      have hkeeps : p.keepsMarks b := ⟨rfl, rfl, fun d hd => (List.mem_erase_of_ne (show TableOp.image d ≠ .calWrite w.deck from
        TableOp.noConfusion)).mpr hd⟩
      have hbdeck : ∀ d, b.deck d = p.deck d := fun _ => rfl
      have hb : b = { p with
          store := b.store, audit := { p.audit with calWrite := none, session := p.audit.session.map Session.recount }
          link := (p.refuseAll [(w.corr, w.req)]).link } := rfl
      clear_value b
      have hnot : (b.deck w.deck).service ≠ .trade := by
        rw [hbdeck, h w hw]
        decide
      have hmarks := (raiseCause_marks hnot .imageInvalid).keeps
      obtain ⟨hrest, hothers, hdeck⟩ := raiseCause_notTrade hnot .imageInvalid
      have haudit : (b.raiseCause w.deck .imageInvalid).audit = b.audit := by
        rw [hrest]
      refine ⟨?_, hkeeps.trans hmarks, fun d => ?_, fun x hx _ => ?_, fun hall => ?_⟩
      · rw [haudit]
        refine hrest.trans ?_
        rw [hb]
        rfl
      · by_cases hd : d = w.deck
        · rw [hd, hdeck, hbdeck]
          exact ⟨rfl, rfl⟩
        · rw [hothers d hd, hbdeck]
          exact ⟨rfl, rfl⟩
      · cases hx
        rw [hdeck, haudit, hb]
        exact ⟨rfl, rfl⟩
      · exact absurd (hst.symm.trans (hall w rfl)) (by decide)

/-! ## The store fault (R170) -/

/-- The requests in progress that a store fault ends, but for the calibration write. -/
def Part.inProgress (p : Part) : List (U16 × Req) :=
  p.tickets.ack.toList.map (·, .ticketAck) ++ p.audit.trail.ack.toList.map (·, .trailAck) ++
    p.tables.commit.toList.map (fun x => (x.corr, .tableCommit)) ++
    p.tables.regChange.toList.map fun x => (x.corr, if x.put then .registerPut else .registerRemove)

theorem failRequests_eq (p : Part) : p.failAcks.failTables = { p with
    tickets := p.tickets.ackFailed
    audit := { p.audit with trail := p.audit.trail.ackFailed }
    store := { p.store with tableQueue := p.store.tableQueue.filter TableOp.stays }
    tables := { p.tables with commit := none, regChange := none }
    link := (p.refuseAll p.inProgress).link } := by
  rw [failTables_eq, failAcks_eq]
  have r1 : p.failTicketAck = { p with tickets := p.tickets.ackFailed, link := p.failTicketAck.link } := by
    rw [failTicketAck_eq]
  have l1 : p.failTicketAck.link = (p.refuseAll (p.tickets.ack.toList.map (·, .ticketAck))).link := by
    rw [failTicketAck_eq]
  generalize p.failTicketAck = a at *
  have r2 : a.failTrailAck = { a with
      audit := { a.audit with trail := a.audit.trail.ackFailed }, link := a.failTrailAck.link } := by
    rw [failTrailAck_eq]
  have l2 : a.failTrailAck.link = (a.refuseAll (a.audit.trail.ack.toList.map (·, .trailAck))).link := by
    rw [failTrailAck_eq]
  rw [show a.audit = p.audit by rw [r1], refuseAll_then l1] at l2
  generalize a.failTrailAck = b at *
  set m := b.modStore fun x => { x with tableQueue := x.tableQueue.filter TableOp.stays } with hm
  have r3 : m.failCommit = { m with tables := { m.tables with commit := none }, link := m.failCommit.link } := by
    rw [failCommit_eq]
  have l3 : m.failCommit.link = (m.refuseAll (m.tables.commit.toList.map fun x => (x.corr, .tableCommit))).link := by
    rw [failCommit_eq]
  rw [show m.tables = p.tables by rw [hm, r2, r1]; rfl, refuseAll_then (q := m) l2] at l3
  generalize m.failCommit = c at *
  have r4 : c.failRegChange = { c with tables := { c.tables with regChange := none }, link := c.failRegChange.link } := by
    rw [failRegChange_eq]
  have l4 : c.failRegChange.link = (c.refuseAll (c.tables.regChange.toList.map fun x =>
      (x.corr, if x.put then .registerPut else .registerRemove))).link := by
    rw [failRegChange_eq]
  rw [show c.tables = { p.tables with commit := none } by rw [r3, hm, r2, r1]; rfl, refuseAll_then l3] at l4
  refine r4.trans ?_
  rw [l4, r3, hm, r2, r1]
  rfl

theorem failRequests_keeps (p : Part) : p.keepsMarks p.failAcks.failTables := by
  rw [failRequests_eq]
  exact ⟨rfl, rfl, fun d hd => List.mem_filter.mpr ⟨hd, rfl⟩⟩

/-- All that a store fault ends, with the calibration write. -/
def Part.allInProgress (p : Part) : List (U16 × Req) :=
  p.inProgress ++ p.audit.calWrite.toList.map fun x => (x.corr, x.req)

/-- What a store fault at an operation of kind `k` makes of the store, the pairing unit, the decks and the session. -/
structure Part.storeFaults (p q : Part) (k : OpKind) : Prop where
  fault : q.store.fault = true
  op : q.store.op = p.store.op
  slots : q.pairing.slots = p.pairing.slots
  mirror : ∀ i, k = .mirror i → q.pairing.dirty = if i ∈ p.pairing.dirty then p.pairing.dirty else i :: p.pairing.dirty
  dirty : (∀ i, k ≠ .mirror i) → q.pairing.dirty = p.pairing.dirty
  marks : ∀ d, TableOp.image d ∈ p.store.tableQueue → TableOp.image d ∈ q.store.tableQueue
  image : ∀ d, k = .table (.image d) → (p.deck d).cal ≠ none → TableOp.image d ∈ q.store.tableQueue
  counts : ∀ d, (q.deck d).counter = (p.deck d).counter ∧ (q.deck d).cal = (p.deck d).cal
  imageLost : ∀ w, p.audit.calWrite = some w → w.stage = .image →
    (q.deck w.deck).causes.imageInvalid = true ∧ q.audit.session = p.audit.session.map Session.recount
  recordLost : (∀ w, p.audit.calWrite = some w → w.stage = .trail) → q.audit.session = p.audit.session ∧ q.decks = p.decks

/-- The part once the work in progress has ended, before the reports. -/
def Part.faultEnds (p : Part) (k : OpKind) : Part :=
  ((p.modStore fun x => { x with fault := true }).keepFailed k).failAcks.failTables.failCalWrite

theorem enterStoreFault_eq (p : Part) (k : OpKind) (c : Claimant) : p.enterStoreFault k c =
    ((p.faultEnds k).bothBlocks fun x => { x with storeFault := true }).notify
      (.storeState (p.place k).1 (p.place k).2.2 c) := rfl

/-- The work of the failed write, the acknowledgements, the commit and the register change have ended. -/
theorem faultRequests_facts (p : Part) (k : OpKind) :
    let b := (p.modStore fun x => { x with fault := true }).keepFailed k
    let t := b.failAcks.failTables
    t = { p with
      store := t.store, pairing := b.pairing, tickets := p.tickets.ackFailed
      audit := { p.audit with trail := p.audit.trail.ackFailed }
      tables := { p.tables with commit := none, regChange := none }, link := (p.refuseAll p.inProgress).link } ∧
    b.keepsMarks t := by
  obtain ⟨hkept, -⟩ := keepFailed_facts (p.modStore fun x => { x with fault := true }) k
  dsimp only
  generalize (p.modStore fun x => { x with fault := true }).keepFailed k = b at *
  refine ⟨?_, failRequests_keeps b⟩
  have hinProgress : b.inProgress = p.inProgress := by
    rw [hkept]
    rfl
  have hlink : (b.refuseAll b.inProgress).link = (p.refuseAll p.inProgress).link := by
    rw [hinProgress]
    refine refuseAll_link ?_ _
    rw [hkept]
    rfl
  rw [failRequests_eq, hlink, hkept]
  rfl

theorem faultEnds_facts (k : OpKind) (h : ∀ w, p.audit.calWrite = some w → (p.deck w.deck).service = .audit) :
    let q := p.faultEnds k
    p.storeFaults q k ∧ q = { p with
      store := q.store, pairing := q.pairing, decks := q.decks, tickets := p.tickets.ackFailed
      audit := { p.audit with trail := p.audit.trail.ackFailed, calWrite := none, session := q.audit.session }
      tables := { p.tables with commit := none, regChange := none }, link := (p.refuseAll p.allInProgress).link } := by
  obtain ⟨hended, rkeeps⟩ := faultRequests_facts p k
  obtain ⟨-, kkeeps, kslots, kmirror, kother, kimage⟩ := keepFailed_facts (p.modStore fun x => { x with fault := true }) k
  unfold Part.faultEnds
  dsimp only
  generalize (p.modStore fun x => { x with fault := true }).keepFailed k = b at *
  dsimp only at hended rkeeps
  generalize b.failAcks.failTables = t at *
  have hdecks : t.decks = p.decks := by
    rw [hended]
  have hdeck : ∀ d, t.deck d = p.deck d := fun d => by
    unfold Part.deck
    rw [hdecks]
  have haudit : t.audit = { p.audit with trail := p.audit.trail.ackFailed } := by
    rw [hended]
  have hcalWrite : t.audit.calWrite = p.audit.calWrite := (congrArg AuditUnit.calWrite haudit :)
  have hsession : t.audit.session = p.audit.session := (congrArg AuditUnit.session haudit :)
  obtain ⟨hend, ckeeps, ccounts, cimage, ctrail⟩ := failCalWrite_facts (p := t) fun w hw => by
    rw [hdeck]
    exact h w (hcalWrite.symm.trans hw)
  have hlink : (t.refuseAll (t.audit.calWrite.toList.map fun x => (x.corr, x.req))).link = (p.refuseAll p.allInProgress).link := by
    rw [hcalWrite]
    refine refuseAll_then ?_ _
    rw [hended]
  rw [hlink] at hend
  generalize t.failCalWrite = q at *
  have hpairing : q.pairing = b.pairing := by
    rw [hend]
    dsimp only
    rw [hended]
  obtain ⟨hfault, hop, hmarks⟩ := kkeeps.trans (rkeeps.trans ckeeps)
  refine ⟨⟨hfault, hop, ?_, fun i hi => ?_, fun hno => ?_, hmarks, fun d hd hcal => ckeeps.2.2 d (rkeeps.2.2 d (kimage d hd hcal)),
    fun d => ?_, fun w hw hst => ?_, fun hall => ?_⟩, ?_⟩
  · rw [hpairing]
    exact kslots
  · rw [hpairing]
    exact kmirror i hi
  · rw [hpairing]
    exact kother hno
  · rw [← hdeck]
    exact ccounts d
  · rw [← hsession]
    exact cimage w (hcalWrite.trans hw) hst
  · rw [← hsession, ← hdecks]
    exact ctrail fun w hw => hall w (hcalWrite.symm.trans hw)
  · refine hend.trans ?_
    rw [hpairing, haudit]
    rw [hended]

/-- Settles O56: the work in progress ends in `faultEnds_facts`, and the reports follow. -/
theorem failedWriteBringsStoreFault : Obligations.FailedWriteBringsStoreFault := by
  intro o c s hs ho hc haudit
  set p : Part := ({ s.toPart with fresh := s.fresh + 1 } : Part).freePort with hp
  obtain ⟨hfaults, hrest⟩ := faultEnds_facts (p := p) o.kind haudit
  have heq := enterStoreFault_eq p o.kind c
  have hexec : exec .recordWriteFailed s = .next { s.act fun p =>
      (({ p with fresh := p.fresh + 1 } : Part).freePort.enterStoreFault o.kind c).finish with
        mem := memWrite s.mem o.address (slotBytes s.fresh o.bytes.length) } := by
    show execRecordWriteFailed s = _
    unfold execRecordWriteFailed
    rw [ho]
    dsimp only
    rw [hc]
  have hlength : (slotBytes s.fresh o.bytes.length).length = o.bytes.length := by
    unfold slotBytes
    rw [List.length_map, List.length_range]
  have hlink (q : Part) (hq : q.link = (p.refuseAll p.allInProgress).link) (hclock : q.clock = p.clock) (b : NoticeBody) :
      (q.notify b).link = ((s.toPart.refuseAll p.allInProgress).notify b).link := by
    refine link_notify (p := s.toPart.refuseAll p.allInProgress) (hq.trans (refuseAll_link (p := s.toPart) (q := p) rfl _)) ?_ b
    rw [hclock, refuseAll_rest]
    rfl
  generalize p.faultEnds o.kind = q at *
  have hlane : ∀ l, q.lane l = s.toPart.lane l := fun l => by
    rw [hrest]
    rfl
  have hqs : q.settingsSettled := settled_lane
    (p := { s.toPart with tables := { s.tables with commit := none, regChange := none } }) hs (by rw [hrest]; rfl) fun l => by
      rw [hlane]
      rfl
  refine ⟨_, (q.bothBlocks fun x => { x with storeFault := true }).notify (.storeState (p.place o.kind).1 (p.place o.kind).2.2 c),
    hexec, rfl, ?_, hfaults.fault, hfaults.op, fun l => ?_, ?_, ?_, ?_, ?_, ?_, ?_, hfaults.slots, hfaults.mirror, hfaults.dirty,
    hfaults.marks, hfaults.image, hfaults.counts, hfaults.imageLost,
    hfaults.recordLost, ⟨(p.place o.kind).1, (p.place o.kind).2.2, fun hk => ?_, fun hk => ?_, fun hk => ?_, fun hk => ?_,
      fun i hk => ?_, fun i hk => ?_, fun hk => ?_, fun r hk hr => ?_, fun d hk => ?_, ?_⟩, fun a ha => ?_⟩
  · rw [← heq]
    refine finish_closes _ ?_
    rw [heq]
    exact settled_notify (settled_bothBlocks hqs _) _
  · have hboth : (q.bothBlocks fun x => { x with storeFault := true }).lane l =
        { s.toPart.lane l with blocks := { (s.toPart.lane l).blocks with storeFault := true } } := by
      rw [lane_bothBlocks, hlane]
    exact ⟨(congrArg (fun x : Lane => x.blocks.storeFault) hboth :), (congrArg Lane.visit hboth :)⟩
  · show q.tickets = _
    rw [hrest]
    rfl
  · show q.audit.trail.staging = _
    rw [hrest]
    rfl
  · show q.audit.trail.ack = _
    rw [hrest]
    rfl
  · show q.audit.calWrite = _
    rw [hrest]
  · show q.tables.commit = _
    rw [hrest]
  · show q.tables.regChange = _
    rw [hrest]
  · rw [hk]
    rfl
  · rw [hk]
    rfl
  · rw [hk]
    rfl
  · rw [hk]
    rfl
  · rw [hk]
    rfl
  · rw [hk]
    rfl
  · rw [hk]
    rfl
  · rw [hk]
    show (Region.register, (s.tables.regChange.map (·.index)).getD 0) = _
    rw [hr]
    rfl
  · rcases hk with hk | hk
    · rw [hk]
      rfl
    · rw [hk]
      rfl
  · refine hlink (q.bothBlocks fun x => { x with storeFault := true }) ?_ ?_ _
    · show q.link = _
      rw [hrest]
    · show q.clock = _
      rw [hrest]
  · refine memRead_memWrite_outside _ _ _ _ ?_
    rw [hlength]
    exact ha

end

end Sys2Proof.Machine
end


section
/-! PROOFS. The minute boundary with its scans, and the wrap of the site clock (R58, R96, R104, R189). -/

namespace Sys2Proof.Machine

/-! ## The order of the pending-tare list (R96) -/

/-- The list's order of two entries with their slots: by creation number, and then by slot (log 44). -/
def listedBefore (a b : Nat × PendingEntry) : Prop :=
  a.2.creation < b.2.creation ∨ a.2.creation = b.2.creation ∧ a.1 < b.1

/-- The comparison that the model sorts the entries by. -/
def notLater (a b : Nat × PendingEntry) : Prop := a.2.creation ≤ b.2.creation

theorem mem_entries (x : Pairing) (a : Nat × PendingEntry) : a ∈ x.entries ↔ x.slots[a.1]? = some (some a.2) := by
  rw [show x.entries = _ from entries_eq ({ Part.reset with pairing := x } : Part), List.mem_filterMap]
  constructor
  · rintro ⟨j, -, hj⟩
    obtain ⟨e, he, rfl⟩ := Option.map_eq_some_iff.mp hj
    exact Option.join_eq_some_iff.mp he
  · intro ha
    have hslot : ({ Part.reset with pairing := x } : Part).slot a.1 = some a.2 := Option.join_eq_some_iff.mpr ha
    refine ⟨a.1, List.mem_range.mpr (slot_lt hslot), ?_⟩
    rw [hslot]
    rfl

theorem entries_ascending (x : Pairing) : x.entries.Pairwise fun a b => a.1 < b.1 := by
  rw [show x.entries = _ from entries_eq ({ Part.reset with pairing := x } : Part), List.pairwise_filterMap]
  refine List.pairwise_lt_range.imp fun {i j} hij a ha b hb => ?_
  obtain ⟨e, -, rfl⟩ := Option.map_eq_some_iff.mp ha
  obtain ⟨f, -, rfl⟩ := Option.map_eq_some_iff.mp hb
  exact hij

section
variable [DecidableRel notLater]

/-- An entry of the lowest slot goes before the entries of its creation number. -/
theorem orderedInsert_listed (a : Nat × PendingEntry) : ∀ xs : List (Nat × PendingEntry), xs.Pairwise listedBefore →
    (∀ b ∈ xs, a.1 < b.1) → (xs.orderedInsert notLater a).Pairwise listedBefore
  | [], _, _ => List.pairwise_singleton ..
  | b :: xs, hxs, hlow => by
    obtain ⟨hb, hrest⟩ := List.pairwise_cons.mp hxs
    by_cases h : notLater a b
    · rw [List.orderedInsert_cons_of_le _ _ h]
      refine List.pairwise_cons.mpr ⟨fun x hx => ?_, hxs⟩
      have hle : a.2.creation ≤ x.2.creation := by
        rcases List.mem_cons.mp hx with rfl | hx
        · exact h
        · rcases hb x hx with hlt | ⟨heq, -⟩
          · exact h.trans hlt.le
          · exact heq ▸ h
      rcases hle.lt_or_eq with hlt | heq
      · exact .inl hlt
      · exact .inr ⟨heq, hlow x hx⟩
    · rw [List.orderedInsert_of_not_le _ _ h]
      refine List.pairwise_cons.mpr ⟨fun x hx => ?_,
        orderedInsert_listed a xs hrest fun x hx => hlow x (List.mem_cons_of_mem b hx)⟩
      rcases (List.mem_orderedInsert notLater).mp hx with rfl | hx
      · exact .inl (not_le.mp h)
      · exact hb x hx

theorem insertionSort_listed : ∀ xs : List (Nat × PendingEntry), (xs.Pairwise fun a b => a.1 < b.1) →
    (xs.insertionSort notLater).Pairwise listedBefore
  | [], _ => List.Pairwise.nil
  | a :: xs, h => by
    obtain ⟨ha, hrest⟩ := List.pairwise_cons.mp h
    exact orderedInsert_listed a _ (insertionSort_listed xs hrest) fun b hb => ha b ((List.mem_insertionSort notLater).mp hb)

end

/-- The sorted entries, whose slots are the list's order. -/
def Pairing.sorted (x : Pairing) : List (Nat × PendingEntry) :=
  x.entries.insertionSort fun a b => a.2.creation ≤ b.2.creation

theorem sorted_listed (x : Pairing) : x.sorted.Pairwise listedBefore :=
  @insertionSort_listed (fun a b => inferInstanceAs (Decidable (a.2.creation ≤ b.2.creation))) x.entries (entries_ascending x)

theorem mem_sorted (x : Pairing) (a : Nat × PendingEntry) : a ∈ x.sorted ↔ x.slots[a.1]? = some (some a.2) := by
  unfold Pairing.sorted
  rw [List.mem_insertionSort (fun a b : Nat × PendingEntry => a.2.creation ≤ b.2.creation), mem_entries]

theorem order_eq (x : Pairing) : x.order = x.sorted.map (·.1) := rfl

theorem mem_order (x : Pairing) (i : Nat) : i ∈ x.order ↔ ∃ e, x.slots[i]? = some (some e) := by
  rw [order_eq, List.mem_map]
  constructor
  · rintro ⟨a, ha, rfl⟩
    exact ⟨a.2, (mem_sorted x a).mp ha⟩
  · rintro ⟨e, he⟩
    exact ⟨(i, e), (mem_sorted x (i, e)).mpr he, rfl⟩

theorem order_pairwise (x : Pairing) : x.order.Pairwise fun i j =>
    ∀ e f, x.slots[i]? = some (some e) → x.slots[j]? = some (some f) →
      e.creation < f.creation ∨ e.creation = f.creation ∧ i < j := by
  rw [order_eq, List.pairwise_map]
  refine (sorted_listed x).imp_of_mem fun {a b} ha hb hab e f he hf => ?_
  have hae := Option.some.inj (Option.some.inj (((mem_sorted x a).mp ha).symm.trans he))
  have hbf := Option.some.inj (Option.some.inj (((mem_sorted x b).mp hb).symm.trans hf))
  rw [← hae, ← hbf]
  exact hab

theorem order_nodup (x : Pairing) : x.order.Nodup := by
  have hentries : (x.entries.map (·.1)).Nodup := List.pairwise_map.mpr ((entries_ascending x).imp fun h => Nat.ne_of_lt h)
  exact ((List.perm_insertionSort (fun a b : Nat × PendingEntry => a.2.creation ≤ b.2.creation) x.entries).map (·.1)).nodup_iff.mpr hentries

/-! ## The clock (R189) -/

section
variable {c : Clock} {sec : Nat}

/-- The clock at the moment when its site-second count rises to `sec`. -/
theorem elapse_until (hms : c.ms ≤ 999) (hsec : c.sec < sec) :
    c.elapse (c.until sec) =
      let running := 10 * (c.running / 10 + (1000 * (sec - c.sec) - c.ms))
      if secLimit ≤ sec then { running := running, sec := sec % secLimit, ms := 0, valid := false, boundaryDue := false }
      else { running := running, sec := sec, ms := 0, valid := c.valid
             boundaryDue := c.boundaryDue || (c.valid && decide (c.sec / 60 < sec / 60)) } := by
  have hrunning : c.running + c.until sec = 10 * (c.running / 10 + (1000 * (sec - c.sec) - c.ms)) := by
    unfold Clock.until
    omega
  have hmillis : c.ms + (10 * (c.running / 10 + (1000 * (sec - c.sec) - c.ms)) / 10 - c.running / 10) = 1000 * (sec - c.sec) := by
    omega
  unfold Clock.elapse
  dsimp only
  rw [hrunning, hmillis, Nat.mul_div_cancel_left _ (show 0 < 1000 by decide), Nat.mul_mod_right,
    Nat.add_sub_cancel' hsec.le]

/-- The moment of the minute boundary, the one that is due or the next one. -/
theorem toBoundary_eq (hms : c.ms ≤ 999) (hvalid : c.valid = true)
    (hcomes : c.boundaryDue = true ∨ 60 * (c.sec / 60) + 60 < secLimit) :
    c.toBoundary = if c.boundaryDue then { c with boundaryDue := false }
      else { running := 10 * (c.running / 10 + (1000 * (60 * (c.sec / 60) + 60 - c.sec) - c.ms))
             sec := 60 * (c.sec / 60) + 60, ms := 0, valid := true, boundaryDue := false } := by
  unfold Clock.toBoundary Clock.nextMinute
  by_cases hdue : c.boundaryDue = true
  · rw [if_pos hdue, if_pos hdue]
  · rw [if_neg hdue, if_neg hdue, elapse_until hms (show c.sec < 60 * (c.sec / 60) + 60 by omega)]
    dsimp only
    rw [if_neg (Nat.not_le.mpr (hcomes.resolve_left hdue)), hvalid]

end

/-! ## The expiry scan of the pending-tare list (R104) -/

/-- The OPEN entry in slot `i` of the list, if it is overdue by `limit` hours. -/
def Part.overdueAt (p : Part) (limit : Nat) (i : Nat) : Option (Nat × PendingEntry × GrossSide) :=
  (p.slot i).bind fun e =>
    match e.state with
    | .opened g => if g.time.toMs + limit * 3600000 < p.siteTime.toMs then some (i, e, g) else none
    | _ => none

theorem overdueEntries_eq (p : Part) : p.overdueEntries = p.pairing.order.filterMap (p.overdueAt p.site.pendingAge) := rfl

theorem overdueAt_some {p : Part} {limit i : Nat} {x : Nat × PendingEntry × GrossSide} (h : p.overdueAt limit i = some x) :
    x.1 = i ∧ p.slot i = some x.2.1 ∧ x.2.1.state = .opened x.2.2 ∧ overdue p.siteTime x.2.2.time limit = true := by
  obtain ⟨e, he, hstate⟩ := Option.bind_eq_some_iff.mp h
  cases hst : e.state with
  | opened g =>
    rw [hst] at hstate
    dsimp only at hstate
    split at hstate
    case isTrue hlate =>
      cases hstate
      exact ⟨rfl, he, hst, decide_eq_true hlate⟩
    case isFalse => cases hstate
  | reserved =>
    rw [hst] at hstate
    cases hstate
  | claimed g l =>
    rw [hst] at hstate
    cases hstate

/-- The scan passes over a slot without an overdue OPEN entry. -/
theorem expireSlots_passes {p : Part} {limit i : Nat} (h : p.overdueAt limit i = none) (is : List Nat) :
    Part.expireSlots limit (i :: is) p = Part.expireSlots limit is p := by
  unfold Part.overdueAt at h
  rw [Part.expireSlots]
  cases he : p.slot i with
  | none => rfl
  | some e =>
    rw [he] at h
    dsimp only [Option.bind_some] at h ⊢
    cases hst : e.state with
    | opened g =>
      rw [hst] at h
      dsimp only at h ⊢
      refine if_neg fun hlate => ?_
      rw [if_pos (of_decide_eq_true hlate)] at h
      cases h
    | reserved => rfl
    | claimed g l => rfl

/-- The notice of an entry that expires. -/
def expiryNotice (x : Nat × PendingEntry × GrossSide) : NoticeBody := .pendingExpired x.2.1.vehicle x.1 x.2.2.gross x.2.2.time

/-- An overdue entry leaves its slot with its ticket and its notice. -/
def Part.expired (p : Part) (x : Nat × PendingEntry × GrossSide) : Part :=
  ((p.setSlot x.1 none).issueTicket (x.2.1.soloTicket .unpaired x.2.2) none).notify (expiryNotice x)

theorem expireSlots_takes {p : Part} {limit i : Nat} {x : Nat × PendingEntry × GrossSide} (h : p.overdueAt limit i = some x)
    (is : List Nat) : Part.expireSlots limit (i :: is) p =
      if p.stagingFull then p else Part.expireSlots limit is (p.expired x) := by
  obtain ⟨hi, hslot, hst, hlate⟩ := overdueAt_some h
  rw [Part.expireSlots, hslot]
  dsimp only
  rw [hst]
  dsimp only
  rw [if_pos hlate, ← hi]
  rfl

/-- `q` is `p` once these entries have expired, in this order. -/
structure Part.expires (p q : Part) (out : List (Nat × PendingEntry × GrossSide)) : Prop where
  rest : q = { p with lanes := q.lanes, pairing := q.pairing, tickets := q.tickets, link := q.link }
  tickets : q.tickets = { p.tickets with
    staging := p.tickets.staging ++ out.map fun x => ⟨x.2.1.soloTicket .unpaired x.2.2, none⟩ }
  slots : ∀ i, q.slot i = if i ∈ out.map (·.1) then none else p.slot i
  pairing : q.pairing = { p.pairing with
    slots := q.pairing.slots
    dirty := p.pairing.dirty ++ (out.map (·.1)).filter fun i => decide (i ∉ p.pairing.dirty) }
  link : q.link = p.told (out.map expiryNotice)
  lanes : ∀ l, q.lane l = { p.lane l with blocks := { (p.lane l).blocks with
    storeBusy := (p.lane l).blocks.storeBusy || decide (out ≠ [] ∧ 8 ≤ p.tickets.staging.length + out.length) } }

theorem expires_nil (p : Part) : p.expires p [] where
  rest := rfl
  tickets := by
    rw [List.map_nil, List.append_nil]
  slots _ := (if_neg List.not_mem_nil).symm
  pairing := by
    rw [List.map_nil, List.filter_nil, List.append_nil]
  link := rfl
  lanes l := by
    rw [decide_eq_false (fun h => h.1 rfl), Bool.or_false]

theorem setSlot_pairing (p : Part) (i : Nat) (e : Option PendingEntry) : (p.setSlot i e).pairing =
    { p.pairing with
      slots := (p.setSlot i e).pairing.slots
      dirty := p.pairing.dirty ++ [i].filter fun j => decide (j ∉ p.pairing.dirty) } := by
  by_cases h : i ∈ p.pairing.dirty
  · rw [List.filter_cons_of_neg (by rw [decide_eq_true_iff]; exact not_not.mpr h), List.filter_nil, List.append_nil]
    unfold Part.setSlot Part.markDirty
    rw [if_pos (show i ∈ (p.modPairing fun x => { x with slots := x.slots.setIfInBounds i e }).pairing.dirty from h)]
    rfl
  · rw [List.filter_cons_of_pos (by rw [decide_eq_true_iff]; exact h), List.filter_nil]
    unfold Part.setSlot Part.markDirty
    rw [if_neg (show i ∉ (p.modPairing fun x => { x with slots := x.slots.setIfInBounds i e }).pairing.dirty from h)]
    rfl

theorem expired_expires {p : Part} {x : Nat × PendingEntry × GrossSide} (hslot : p.slot x.1 = some x.2.1)
    (hroom : p.tickets.staging.length < 8) : p.expires (p.expired x) [x] := by
  have hset := setSlot_rest p x.1 none
  have hpairing := setSlot_pairing p x.1 none
  have hslots := slot_setSlot p x.1 none (slot_lt hslot)
  obtain ⟨hrest, htickets, hlanes⟩ := issueTicket_facts (p.setSlot x.1 none) (x.2.1.soloTicket .unpaired x.2.2) none (by
    rw [hset]
    exact hroom)
  unfold Part.expired
  generalize (p.setSlot x.1 none).issueTicket (x.2.1.soloTicket .unpaired x.2.2) none = q at *
  generalize p.setSlot x.1 none = t at *
  have hq : q = { p with lanes := q.lanes, pairing := t.pairing, tickets := q.tickets } := by
    refine hrest.trans ?_
    rw [hset]
  have hqpairing : q.pairing = t.pairing := by
    rw [hq]
  refine ⟨?_, ?_, fun i => ?_, ?_, ?_, fun l => ?_⟩
  · rw [hq]
    rfl
  · refine htickets.trans ?_
    rw [hset]
    rfl
  · refine (congrArg (fun y : Pairing => (y.slots[i]?).join) hqpairing).trans ((hslots i).trans ?_)
    simp only [List.map_cons, List.map_nil, List.mem_singleton]
  · exact hqpairing.trans (hpairing.trans (by rw [← hqpairing]; rfl))
  · exact link_notify (p := p) (by rw [hq]) (by rw [hq]) _
  · refine (hlanes l).trans ?_
    have hfull : decide (p.tickets.staging.length = 7) =
        decide ([x] ≠ [] ∧ 8 ≤ p.tickets.staging.length + [x].length) := by
      refine decide_eq_decide.mpr ⟨fun h => ⟨List.cons_ne_nil _ _, ?_⟩, fun h => ?_⟩
      · rw [h]
        exact le_rfl
      · have hlength : 8 ≤ p.tickets.staging.length + 1 := h.2
        omega
    rw [← hfull, hset]
    rfl

theorem Part.expires.cons {p q r : Part} {x : Nat × PendingEntry × GrossSide} {out : List (Nat × PendingEntry × GrossSide)}
    (h : p.expires q [x]) (k : q.expires r out) (hx : x.1 ∉ out.map (·.1)) : p.expires r (x :: out) where
  rest := by
    refine k.rest.trans ?_
    rw [h.rest]
  tickets := by
    rw [k.tickets, h.tickets, List.map_cons, List.map_cons, List.map_nil, List.append_assoc, List.singleton_append]
  slots i := by
    rw [k.slots, h.slots, List.map_cons, List.map_cons, List.map_nil]
    by_cases hi : i = x.1
    · rw [if_pos (show i ∈ [x.1] from hi ▸ List.mem_singleton.mpr rfl), ite_self, if_pos (hi ▸ List.mem_cons_self)]
    · rw [if_neg (show i ∉ [x.1] from fun hm => hi (List.mem_singleton.mp hm))]
      exact if_congr ⟨List.mem_cons_of_mem _, fun hm => (List.mem_cons.mp hm).resolve_left hi⟩ rfl rfl
  pairing := by
    have hdirty : q.pairing.dirty = p.pairing.dirty ++ [x.1].filter fun i => decide (i ∉ p.pairing.dirty) :=
      congrArg Pairing.dirty h.pairing
    have hsame : ((out.map (·.1)).filter fun i => decide (i ∉ q.pairing.dirty)) =
        (out.map (·.1)).filter fun i => decide (i ∉ p.pairing.dirty) := by
      refine List.filter_congr fun i hi => decide_eq_decide.mpr (not_congr ?_)
      rw [hdirty, List.mem_append]
      refine ⟨fun hm => hm.resolve_right fun hf => ?_, .inl⟩
      exact hx (List.mem_singleton.mp (List.mem_filter.mp hf).1 ▸ hi)
    have hall := k.pairing
    rw [hsame, hdirty, List.append_assoc, ← List.filter_append, List.singleton_append] at hall
    refine hall.trans ?_
    rw [h.pairing]
    rfl
  link := by
    have hclock : q.clock = p.clock := by rw [h.rest]
    rw [k.link]
    exact told_append h.link hclock (out.map expiryNotice)
  lanes l := by
    have hlength : q.tickets.staging.length = p.tickets.staging.length + 1 := by
      rw [h.tickets, List.length_append]
      rfl
    rw [k.lanes, h.lanes, hlength]
    refine congrArg (fun b : Bool => { p.lane l with blocks := { (p.lane l).blocks with storeBusy := b } }) ?_
    dsimp only
    rw [Bool.or_assoc, ← Bool.decide_or]
    refine congrArg _ (decide_eq_decide.mpr ⟨?_, fun ⟨_, hfull⟩ => ?_⟩)
    · rintro (⟨-, hfull⟩ | ⟨-, hfull⟩)
      · refine ⟨List.cons_ne_nil _ _, ?_⟩
        simp only [List.length_cons, List.length_nil] at hfull ⊢
        omega
      · refine ⟨List.cons_ne_nil _ _, ?_⟩
        simp only [List.length_cons] at hfull ⊢
        omega
    · cases out with
      | nil => exact .inl ⟨List.cons_ne_nil _ _, hfull⟩
      | cons y ys =>
        refine .inr ⟨List.cons_ne_nil _ _, ?_⟩
        simp only [List.length_cons] at hfull ⊢
        omega

/-- The scan: the overdue entries expire in order, as long as there is room for their tickets. -/
theorem expireSlots_expires (limit : Nat) : ∀ (is : List Nat) (p : Part), is.Nodup →
    p.expires (Part.expireSlots limit is p) ((is.filterMap (p.overdueAt limit)).take (8 - p.tickets.staging.length))
  | [], p, _ => by
    rw [List.filterMap_nil, List.take_nil]
    exact expires_nil p
  | i :: is, p, h => by
    obtain ⟨hi, his⟩ := List.nodup_cons.mp h
    cases hat : p.overdueAt limit i with
    | none =>
      rw [expireSlots_passes hat, List.filterMap_cons_none hat]
      exact expireSlots_expires limit is p his
    | some x =>
      obtain ⟨hxi, hslot, -⟩ := overdueAt_some hat
      rw [expireSlots_takes hat, List.filterMap_cons_some hat]
      by_cases hfull : 8 ≤ p.tickets.staging.length
      · rw [if_pos (show p.stagingFull = true from decide_eq_true hfull), Nat.sub_eq_zero_of_le hfull, List.take_zero]
        exact expires_nil p
      · rw [if_neg (by rw [Part.stagingFull, decide_eq_true_iff]; exact hfull)]
        have hone := expired_expires (x := x) (by rw [hxi]; exact hslot) (Nat.not_le.mp hfull)
        have hthen := expireSlots_expires limit is (p.expired x) his
        generalize p.expired x = q at *
        have hsame : is.filterMap (q.overdueAt limit) = is.filterMap (p.overdueAt limit) := by
          refine List.filterMap_congr fun j hj => ?_
          have hne : j ∉ [x].map (·.1) := fun hm => hi (hxi ▸ (show j = x.1 from List.mem_singleton.mp hm) ▸ hj)
          unfold Part.overdueAt Part.siteTime
          rw [hone.slots, if_neg hne, show q.clock = p.clock by rw [hone.rest]]
        have hlength : q.tickets.staging.length = p.tickets.staging.length + 1 := by
          rw [hone.tickets, List.length_append]
          rfl
        rw [hsame, hlength] at hthen
        rw [show 8 - p.tickets.staging.length = 8 - (p.tickets.staging.length + 1) + 1 by omega, List.take_succ_cons]
        refine hone.cons hthen fun hm => hi ?_
        obtain ⟨y, hy, hyx⟩ := List.mem_map.mp hm
        obtain ⟨j, hj, hjy⟩ := List.mem_filterMap.mp (List.mem_of_mem_take hy)
        rw [← hxi, ← hyx, (overdueAt_some hjy).1]
        exact hj

/-! ## The expiry scan of the consignment list (R58) -/

theorem expireConsignments_eq (p : Part) (limit : Nat) :
    let stale := p.pairing.consignments.filter fun c => decide (c.entered + 60 * limit < p.clock.sec)
    p.expireConsignments limit = { p with
      pairing := { p.pairing with consignments := p.pairing.consignments.filter (fun c => decide (p.clock.sec ≤ c.entered + 60 * limit)) }
      link := p.told (stale.map fun c => .consignExpired c.vehicle c.consignment.commodity) } := by
  have hkeep : (p.pairing.consignments.filter fun c => !c.stale p.clock.sec limit) =
      p.pairing.consignments.filter fun c => decide (p.clock.sec ≤ c.entered + 60 * limit) := by
    refine List.filter_congr fun c _ => ?_
    unfold ConsignEntry.stale
    rw [← decide_not]
    exact decide_eq_decide.mpr not_lt
  unfold Part.expireConsignments
  dsimp only
  rw [hkeep, ← List.foldl_map (f := fun c : ConsignEntry => NoticeBody.consignExpired c.vehicle c.consignment.commodity)
    (g := Part.notify), notify_all, told_append (p := p)
    (q := p.modPairing fun x => { x with
      consignments := p.pairing.consignments.filter fun c => decide (p.clock.sec ≤ c.entered + 60 * limit) }) (as := []) rfl rfl]
  rfl

/-! ## The minute boundary (R58, R104, R189) -/

/-- Settles O44: the order by `order_pairwise`, the clock by `elapse_until`, the scans by `expireSlots_expires`. -/
theorem clockEvents : Obligations.ClockEvents := by
  refine ⟨fun x => ⟨mem_order x, order_pairwise x⟩, ?_⟩
  intro s hs hms hsec minute reaches p out stale
  refine ⟨fun hvalid hcomes => ?_, fun hno => ?_, ?_⟩
  · have hmay : s.clock.mayBound = true := by
      unfold Clock.mayBound
      rw [hvalid, Bool.true_and, Bool.or_eq_true, decide_eq_true_iff]
      exact hcomes
    have hclock : ({ s.toPart with clock := s.clock.toBoundary } : Part) = p := by
      rw [toBoundary_eq hms hvalid hcomes]
    have hboundary : Part.minuteBoundary s.toPart = if s.phase = .running then p.scans else p := by
      unfold Part.minuteBoundary
      exact (if_pos hmay).trans (congrArg (fun q : Part => if q.phase = .running then q.scans else q) hclock)
    have hps : p.settingsSettled := settled_of hs rfl rfl rfl
    refine ⟨fun hphase => ?_, fun hphase => ?_⟩
    · exact endsAs_run .minuteBoundary s Part.minuteBoundary p rfl (hboundary.trans (if_neg hphase)) hps
    · have hexpires := expireSlots_expires p.site.pendingAge p.pairing.order p (order_nodup _)
      rw [← overdueEntries_eq] at hexpires
      have hscans : p.scans = (Part.expireSlots p.site.pendingAge p.pairing.order p).expireConsignments p.site.consignAge := by
        unfold Part.scans
        rw [checkSite_settled p hps]
        rfl
      generalize Part.expireSlots p.site.pendingAge p.pairing.order p = q at *
      have hconsignments : q.pairing.consignments = s.pairing.consignments := (congrArg Pairing.consignments hexpires.pairing :)
      have hclock : q.clock = p.clock := by
        rw [hexpires.rest]
      have hlink := told_append (p := p) hexpires.link hclock (stale.map fun c =>
        NoticeBody.consignExpired c.vehicle c.consignment.commodity)
      have hconsign := expireConsignments_eq q p.site.consignAge
      dsimp only at hconsign
      rw [hconsignments, hclock, hlink] at hconsign
      have hqs : q.settingsSettled := settled_lane hps (by rw [hexpires.rest]) fun l => by rw [hexpires.lanes]
      refine ⟨_, endsAs_run .minuteBoundary s Part.minuteBoundary _ rfl ((hboundary.trans (if_pos hphase)).trans (hscans.trans hconsign))
        hqs, rfl, hexpires.tickets, fun x _ => ⟨rfl, rfl, rfl, rfl, rfl, rfl, rfl, rfl, rfl⟩, hexpires.slots,
        (congrArg Pairing.dirty hexpires.pairing :), rfl, rfl, hexpires.lanes,
        (congrArg Pairing.nextCreation hexpires.pairing :), ?_, ?_⟩
      · show q.decks = _
        rw [hexpires.rest]
      · show q.audit = _
        rw [hexpires.rest]
  · refine endsAs_run .minuteBoundary s Part.minuteBoundary s.toPart rfl (if_neg ?_) hs
    unfold Clock.mayBound Clock.nextMinute
    rcases hno with hno | ⟨hdue, hlate⟩
    · rw [hno, Bool.false_and]
      exact Bool.false_ne_true
    · rw [hdue, Bool.false_or, decide_eq_false (Nat.not_lt.mpr hlate), Bool.and_false]
      exact Bool.false_ne_true
  · refine endsAs_run .siteClockWrap s (fun p => p.elapse (p.clock.until secLimit)) _ rfl ?_ (settled_of hs rfl rfl rfl)
    unfold Part.elapse
    rw [elapse_until hms hsec, if_pos le_rfl, Nat.mod_self]

end Sys2Proof.Machine
end


section
/-! PROOFS. REGISTER_PUT, REGISTER_REMOVE and REGISTER_GET (R129, R137). -/

namespace Sys2Proof.Machine

section
variable {p : Part} {corr : U16} {index : U16} {entry : List Byte}

/-! ## What a change of the register needs (R137) -/

/-- The rows that REGISTER_PUT and REGISTER_REMOVE share, before what is their own. -/
def Part.registerBars (p : Part) (corr : U16) (r : Req) (go : Part) : Part :=
  if p.store.fault then p.refuse corr r .storeFault
  else if p.store.hold = .held then p.refuse corr r .storeHeld
  else if p.tables.regChange.isSome then p.refuse corr r .busy
  else go

theorem registerBars_fault (h : p.store.fault = true) (corr : U16) (r : Req) (go : Part) :
    p.registerBars corr r go = p.refuse corr r .storeFault := if_pos h

theorem registerBars_held (hf : p.store.fault = false) (hh : p.store.hold = .held) (corr : U16) (r : Req) (go : Part) :
    p.registerBars corr r go = p.refuse corr r .storeHeld := by
  unfold Part.registerBars
  rw [hf, if_neg Bool.false_ne_true, if_pos hh]

theorem registerBars_busy (hf : p.store.fault = false) (hh : p.store.hold ≠ .held) (hc : p.tables.regChange ≠ none)
    (corr : U16) (r : Req) (go : Part) : p.registerBars corr r go = p.refuse corr r .busy := by
  unfold Part.registerBars
  rw [hf, if_neg Bool.false_ne_true, if_neg hh, if_pos (Option.isSome_iff_ne_none.mpr hc)]

theorem registerBars_goes (hf : p.store.fault = false) (hh : p.store.hold ≠ .held) (hc : p.tables.regChange = none)
    (corr : U16) (r : Req) (go : Part) : p.registerBars corr r go = go := by
  unfold Part.registerBars
  rw [hf, if_neg Bool.false_ne_true, if_neg hh, hc]
  rfl

/-! ## The requests (R137) -/

theorem registerPut_badValue (hi : index.toNat ≤ 1023) (h : ∀ e, parseRegEntry entry ≠ some (some e)) :
    p.registerPut corr index entry = p.refuse corr .registerPut .badValue := by
  unfold Part.registerPut
  dsimp only
  rw [if_neg (Nat.not_lt.mpr hi)]
  cases hparse : parseRegEntry entry with
  | none => rfl
  | some x =>
    cases x with
    | none => rfl
    | some e => exact absurd hparse (h e)

theorem registerPut_parsed (hi : index.toNat ≤ 1023) {e : RegEntry} (h : parseRegEntry entry = some (some e)) :
    p.registerPut corr index entry = p.registerBars corr .registerPut
      (if (p.readOtherSlots index.toNat).tables.holdsTag e.tag index.toNat then
        (p.readOtherSlots index.toNat).refuse corr .registerPut .duplicate
      else (p.readOtherSlots index.toNat).startRegChange ⟨corr, true, index.toNat, some e⟩) := by
  unfold Part.registerPut
  dsimp only
  rw [if_neg (Nat.not_lt.mpr hi), h]
  rfl

theorem registerRemove_eq (hi : index.toNat ≤ 1023) : p.registerRemove corr index = p.registerBars corr .registerRemove
    (if ((p.readRegister index.toNat).tables.regSlot index.toNat).val.isNone ∧
        ((p.readRegister index.toNat).tables.regSlot index.toNat).damaged = false then
      (p.readRegister index.toNat).refuse corr .registerRemove .notFound
    else (p.readRegister index.toNat).startRegChange ⟨corr, false, index.toNat, none⟩) := by
  unfold Part.registerRemove
  dsimp only
  rw [if_neg (Nat.not_lt.mpr hi)]
  rfl

theorem registerGet_eq (hi : index.toNat ≤ 1023) : p.registerGet corr index =
    (p.readRegister index.toNat).done corr .registerGet (.register (regContent (p.tables.regSlot index.toNat))) :=
  if_neg (Nat.not_lt.mpr hi)

theorem regSlot_settled {i : Nat} (h : ∀ x ∈ p.tables.register, x.1 = i → x.2.settled) : (p.tables.regSlot i).settled := by
  unfold TableStore.regSlot
  cases hf : p.tables.register.find? fun x => decide (x.1 = i) with
  | none => exact .inr rfl
  | some x => exact h x (List.mem_of_find?_eq_some hf) (of_decide_eq_true (List.find?_some (p := fun x : Nat × Slot (Option RegEntry) => decide (x.1 = i)) hf))

theorem regContent_damaged {z : Slot (Option RegEntry)} (h : z.good = false) : regContent z = .damaged := by
  unfold regContent
  rw [h]
  rfl

theorem regContent_empty {z : Slot (Option RegEntry)} (h : z.good = true) (hv : z.val = none) : regContent z = .empty := by
  unfold regContent
  rw [h, hv]
  rfl

theorem regContent_entry {z : Slot (Option RegEntry)} (h : z.good = true) {e : RegEntry} (hv : z.val = some e) :
    regContent z = .entry e := by
  unfold regContent
  rw [h, hv]
  rfl

end

/-- Settles O58: the shared rows by `Part.registerBars`, the reads by `readOtherSlots_eq` and `readRegister_slots`. -/
theorem registerRequests : Obligations.RegisterRequests := by
  intro corr index entry s hs ht hi i slot u v g put remove get changes barred
  have hus : u.settingsSettled := settled_admitted hs ..
  have hvs : v.settingsSettled := settled_admitted hs ..
  have hgs : g.settingsSettled := settled_admitted hs ..
  have runPut {q : Part} (hq : u.registerPut corr index entry = q) (hqs : q.settingsSettled) : endsAs put s q :=
    request_endsAs put s corr .registerPut (·.registerPut corr index entry) q 0 rfl ht hq hqs
  have runRemove {q : Part} (hq : v.registerRemove corr index = q) (hqs : q.settingsSettled) : endsAs remove s q :=
    request_endsAs remove s corr .registerRemove (·.registerRemove corr index) q 0 rfl ht hq hqs
  have runGet {q : Part} (hq : g.registerGet corr index = q) (hqs : q.settingsSettled) : endsAs get s q :=
    request_endsAs get s corr .registerGet (·.registerGet corr index) q 0 rfl ht hq hqs
  refine ⟨fun hbad => ?_, fun e hparse => ⟨?_, fun hf hh hc => ?_⟩, ?_, fun hf hh hc => ⟨fun hset => ⟨fun hv hd => ?_, fun hv => ?_⟩,
    fun hfails => ?_⟩, fun hset => ⟨fun hd => ?_, fun hd hv => ?_, fun e hd hv => ?_⟩, fun hfails => ?_⟩
  · exact runPut (registerPut_badValue hi hbad) (settled_refuse hus ..)
  · have hput := registerPut_parsed (p := u) (corr := corr) hi hparse
    exact ⟨fun hf => runPut (hput.trans (registerBars_fault (p := u) hf ..)) (settled_refuse hus ..),
      fun hf hh => runPut (hput.trans (registerBars_held (p := u) hf hh ..)) (settled_refuse hus ..),
      fun hf hh hc => runPut (hput.trans (registerBars_busy (p := u) hf hh hc ..)) (settled_refuse hus ..)⟩
  · intro held read
    have hread : u.readOtherSlots i = read := readOtherSlots_eq u i
    have hheld : (u.readOtherSlots i).tables.holdsTag e.tag i = true ↔ held := holdsTag_read u e.tag i
    have hput := (registerPut_parsed (p := u) (corr := corr) hi hparse).trans (registerBars_goes (p := u) hf hh hc ..)
    refine ⟨fun h => runPut (hput.trans ((if_pos (hheld.mpr h)).trans ?_)) (settled_refuse (p := read) hus ..),
      fun h => runPut (hput.trans ((if_neg (fun k => h (hheld.mp k))).trans ?_)) hus⟩
    · exact congrArg (fun q : Part => q.refuse corr .registerPut .duplicate) hread
    · exact congrArg (fun q : Part => q.startRegChange ⟨corr, true, i, some e⟩) hread
  · have hremove := registerRemove_eq (p := v) (corr := corr) hi
    exact ⟨fun hf => runRemove (hremove.trans (registerBars_fault (p := v) hf ..)) (settled_refuse hvs ..),
      fun hf hh => runRemove (hremove.trans (registerBars_held (p := v) hf hh ..)) (settled_refuse hvs ..),
      fun hf hh hc => runRemove (hremove.trans (registerBars_busy (p := v) hf hh hc ..)) (settled_refuse hvs ..)⟩
  · have hremove := (registerRemove_eq (p := v) (corr := corr) hi).trans (registerBars_goes (p := v) hf hh hc ..)
    rw [readRegister_settled v i hset] at hremove
    exact runRemove (hremove.trans (if_pos ⟨Option.isNone_iff_eq_none.mpr hv, hd⟩)) (settled_refuse hvs ..)
  · have hremove := (registerRemove_eq (p := v) (corr := corr) hi).trans (registerBars_goes (p := v) hf hh hc ..)
    rw [readRegister_settled v i hset] at hremove
    refine runRemove (hremove.trans (if_neg ?_)) hvs
    rintro ⟨hnone, hd⟩
    rcases hv with hv | hv
    · exact hv (Option.isNone_iff_eq_none.mp hnone)
    · exact absurd (hv.symm.trans hd) (by decide)
  · have hremove := (registerRemove_eq (p := v) (corr := corr) hi).trans (registerBars_goes (p := v) hf hh hc ..)
    obtain ⟨hslot, hothers, hrest⟩ := readRegister_slots v i
    rw [if_pos (show (v.tables.regSlot i).fails = true from hfails)] at hrest
    have hmarked : (v.readRegister i).tables.regSlot i = { slot with damaged := true } := by
      rw [hslot, checked_eq, show (v.tables.regSlot i).fails = true from hfails, Bool.or_true]
      rfl
    have hgoes : v.registerRemove corr index = (v.readRegister i).startRegChange ⟨corr, false, i, none⟩ := by
      refine hremove.trans (if_neg ?_)
      rintro ⟨-, hd⟩
      rw [hmarked] at hd
      cases hd
    generalize v.readRegister i = q at *
    refine ⟨_, runRemove hgoes ?_, hmarked, hothers, ?_⟩
    · rw [hrest]
      exact hvs
    · rw [hrest]
      rfl
  · refine runGet (registerGet_eq hi |>.trans ?_) (settled_done hgs ..)
    rw [readRegister_settled g _ hset, regContent_damaged]
    rw [(settled_good (regSlot_settled (p := g) hset)).1, show (g.tables.regSlot index.toNat).damaged = true from hd]
    rfl
  · refine runGet (registerGet_eq hi |>.trans ?_) (settled_done hgs ..)
    rw [readRegister_settled g _ hset, regContent_empty (z := g.tables.regSlot index.toNat) ?_ hv]
    rw [(settled_good (regSlot_settled (p := g) hset)).1, show (g.tables.regSlot index.toNat).damaged = false from hd]
    rfl
  · refine runGet (registerGet_eq hi |>.trans ?_) (settled_done hgs ..)
    rw [readRegister_settled g _ hset, regContent_entry (z := g.tables.regSlot index.toNat) ?_ hv]
    rw [(settled_good (regSlot_settled (p := g) hset)).1, show (g.tables.regSlot index.toNat).damaged = false from hd]
    rfl
  · obtain ⟨hslot, hothers, hrest⟩ := readRegister_slots g i
    rw [if_pos (show (g.tables.regSlot i).fails = true from hfails)] at hrest
    have hmarked : (g.readRegister i).tables.regSlot i = { slot with damaged := true } := by
      rw [hslot, checked_eq, show (g.tables.regSlot i).fails = true from hfails, Bool.or_true]
      rfl
    obtain ⟨-, -, hbad⟩ := fails_facts (z := g.tables.regSlot i) hfails
    have hget := registerGet_eq (p := g) (corr := corr) hi
    rw [regContent_damaged hbad] at hget
    change g.registerGet corr index = (g.readRegister i).done corr .registerGet (.register .damaged) at hget
    generalize g.readRegister i = q at *
    refine ⟨_, runGet hget ?_, hmarked, hothers, ?_, ?_⟩
    · rw [hrest]
      exact hgs
    · rw [hrest]
      rfl
    · rw [hrest]
      rfl

end Sys2Proof.Machine
end


section
/-! PROOFS. TABLE_WRITE, TABLE_READ, TABLE_DISCARD and TABLE_COMMIT of the class table and the settings table (R127-R131). -/

namespace Sys2Proof.Machine

/-! ## Slots and the notices of their reads (R129) -/

section
variable {α : Type} {z : Slot α}

theorem checked_settled (z : Slot α) : z.checked.settled := by
  unfold Slot.checked Slot.settled
  cases z.damaged with
  | true => exact .inl rfl
  | false =>
    cases z.parityOk with
    | true => exact .inr rfl
    | false => exact .inl rfl

theorem good_reads (h : z.good = true) : z.checked = z ∧ z.fails = false := by
  obtain ⟨-, hchecked, hfails⟩ := settled_good (good_settled h).1
  exact ⟨hchecked, hfails⟩

theorem content_good (h : z.settled) (f : α → TableContent) : z.content f = if z.damaged = true then .damaged else f z.val := by
  unfold Slot.content
  rw [(settled_good h).1]
  cases z.damaged with
  | true => rfl
  | false => rfl

theorem content_fails (h : z.fails = true) (f : α → TableContent) : z.content f = .damaged := by
  unfold Slot.content
  rw [(fails_facts h).2.2]
  rfl

theorem checked_fails (h : z.fails = true) : z.checked = { z with damaged := true } := by
  rw [checked_eq, h, Bool.or_true]

theorem copy_checked (z : Slot α) (dflt : α) : z.checked.copy dflt = .fresh (if z.good = true then z.val else dflt) := by
  unfold Slot.copy
  rw [good_checked]
  rfl

end

theorem parityNotices_none (entry : Nat → ParityAt) {fs : List Bool} (h : ∀ b ∈ fs, b = false) : parityNotices entry fs = [] := by
  unfold parityNotices
  rw [List.map_eq_nil_iff, List.filter_eq_nil_iff]
  intro x hx
  obtain ⟨b, n⟩ := x
  rw [h b (List.fst_mem_of_mem_zipIdx hx)]
  exact Bool.false_ne_true

/-- The notice of one more entry that is read. -/
theorem told_parity (p : Part) (entry : Nat → ParityAt) (fs : List Bool) (b : Bool) :
    p.told (parityNotices entry (fs ++ [b])) =
      if b = true then (({ p with link := p.told (parityNotices entry fs) } : Part).notify (.parity (entry fs.length))).link
      else p.told (parityNotices entry fs) := by
  rw [parityNotices_concat]
  cases b with
  | false => exact congrArg p.told (List.append_nil _)
  | true => exact told_concat ..

/-! ## The table that a request names -/

section
variable {p : Part} {corr : U16} {index : Byte} {entry : List Byte}

theorem committing_of {o : Commit} (h : p.tables.commit = some o) : p.committing o.table = true := by
  unfold Part.committing
  rw [h]
  exact decide_eq_true rfl

theorem committing_free {t : TableId} (h : ∀ o, p.tables.commit = some o → o.table ≠ t) : p.committing t = false := by
  unfold Part.committing
  refine decide_eq_false fun hc => ?_
  obtain ⟨o, ho, ht⟩ := Option.map_eq_some_iff.mp hc
  exact h o ho ht

theorem indexExists_true {t : TableId} {i : Nat} (h : i < if t = TableId.classes then 48 else 3) : indexExists t i = true := by
  cases t with
  | classes => exact decide_eq_true h
  | settings => exact decide_eq_true h

/-! ## TABLE_WRITE (R127, R128, R130) -/

theorem tableWrite_busy {t : TableId} (hi : indexExists t index.toNat = true) (hc : p.committing t = true) :
    p.tableWrite corr (.known t) index entry = p.refuse corr .tableWrite .busy := by
  unfold Part.tableWrite tableTarget
  dsimp only
  rw [hi, if_neg Bool.true_eq_false_eq_False, if_pos hc]

theorem tableWrite_classes (hi : index.toNat < 48) (hc : p.committing .classes = false) :
    p.tableWrite corr (.known .classes) index entry = p.writeClass corr index.toNat entry := by
  unfold Part.tableWrite tableTarget
  dsimp only
  rw [indexExists_true (t := .classes) hi, if_neg Bool.true_eq_false_eq_False, hc, if_neg Bool.false_ne_true]

theorem tableWrite_settings (hi : index.toNat < 3) (hc : p.committing .settings = false) :
    p.tableWrite corr (.known .settings) index entry = p.writeSettings corr index.toNat entry := by
  unfold Part.tableWrite tableTarget
  dsimp only
  rw [indexExists_true (t := .settings) hi, if_neg Bool.true_eq_false_eq_False, hc, if_neg Bool.false_ne_true]

theorem writeClass_badValue {i : Nat} (h : parseClassEntry entry = none) :
    p.writeClass corr i entry = p.refuse corr .tableWrite .badValue := by
  unfold Part.writeClass
  rw [h]

theorem writeClass_clears {i : Nat} (h : parseClassEntry entry = some none) :
    p.writeClass corr i entry = p.putClass corr i none := by
  unfold Part.writeClass
  rw [h]

theorem writeClass_enters {i : Nat} {a : ClassEntry} (h : parseClassEntry entry = some (some a)) :
    p.writeClass corr i entry = if (p.readOtherClasses i).tables.holdsClass a.id i then
      (p.readOtherClasses i).refuse corr .tableWrite .duplicate else (p.readOtherClasses i).putClass corr i (some a) := by
  unfold Part.writeClass
  rw [h]

theorem laneOfCode_toNat (l : LaneId) : LaneId.ofCode l.toNat = some l := by
  cases l with
  | l0 => rfl
  | l1 => rfl

theorem writeSettings_lane {l : LaneId} {i : Nat} (hi : i = l.toNat) :
    (parseLaneEntry entry = none → p.writeSettings corr i entry = p.refuse corr .tableWrite .badValue) ∧
      ∀ e, parseLaneEntry entry = some e → p.writeSettings corr i entry =
        (p.modTables fun t => { t with settingsStaged := t.settingsStaged.writeLane l e }).done corr .tableWrite := by
  unfold Part.writeSettings
  dsimp only
  rw [hi, laneOfCode_toNat]
  dsimp only
  refine ⟨fun h => ?_, fun e h => ?_⟩
  · rw [h]
  · rw [h]

theorem writeSettings_site :
    (parseSiteEntry entry = none → p.writeSettings corr 2 entry = p.refuse corr .tableWrite .badValue) ∧
      ∀ e, parseSiteEntry entry = some e → p.writeSettings corr 2 entry =
        (p.modTables fun t => { t with settingsStaged := { t.settingsStaged with site := .fresh e } }).done corr .tableWrite := by
  unfold Part.writeSettings
  rw [show LaneId.ofCode 2 = none from rfl]
  dsimp only
  refine ⟨fun h => ?_, fun e h => ?_⟩
  · rw [h]
  · rw [h]

/-! ## TABLE_READ (R130) -/

theorem tableRead_class {z : Slot (Option ClassEntry)} (hz : p.tables.classStaged[index.toNat]? = some z) :
    p.tableRead corr (.known .classes) index =
      (p.readStagedClass index.toNat).done corr .tableRead (.table (z.content .classEntry)) := by
  have hlt : index.toNat < 48 := (Vector.getElem?_eq_some_iff.mp hz).1
  unfold Part.tableRead tableTarget
  dsimp only
  rw [indexExists_true (t := .classes) hlt, if_neg Bool.true_eq_false_eq_False, hz]

theorem tableRead_lane {l : LaneId} (hi : index.toNat = l.toNat) : p.tableRead corr (.known .settings) index =
    (p.readStagedLane l).done corr .tableRead (.table ((p.tables.settingsStaged.lanes.get l).content .laneEntry)) := by
  have hlt : index.toNat < 3 := by
    rw [hi]
    cases l with
    | l0 => decide
    | l1 => decide
  unfold Part.tableRead tableTarget
  dsimp only
  rw [indexExists_true (t := .settings) hlt, if_neg Bool.true_eq_false_eq_False, hi, laneOfCode_toNat]

theorem tableRead_site (hi : index.toNat = 2) : p.tableRead corr (.known .settings) index =
    p.readStagedSite.done corr .tableRead (.table (p.tables.settingsStaged.site.content .siteEntry)) := by
  unfold Part.tableRead tableTarget
  dsimp only
  rw [hi]
  rfl

/-- The answer to a read that has found an entry failing. -/
def Part.readFailed (p : Part) (corr : U16) (table : TableStore) (what : ParityAt) : Part :=
  (({ p with tables := table } : Part).notify (.parity what)).done corr .tableRead (.table .damaged)

theorem tableRead_class_rows {z : Slot (Option ClassEntry)} (hz : p.tables.classStaged[index.toNat]? = some z) :
    (z.settled → p.tableRead corr (.known .classes) index =
      p.done corr .tableRead (.table (if z.damaged = true then .damaged else .classEntry z.val))) ∧
    (z.fails = true → p.tableRead corr (.known .classes) index = p.readFailed corr { p.tables with
      classStaged := p.tables.classStaged.setIfInBounds index.toNat { z with damaged := true } }
        (.classEntry .staged index.toNat)) := by
  obtain ⟨hsettled, hfails⟩ := readStagedClass_eq p _ z hz
  refine ⟨fun h => ?_, fun h => ?_⟩
  · rw [tableRead_class hz, hsettled h, content_good h]
  · rw [tableRead_class hz, hfails h, content_fails h]
    rfl

theorem setLane_same (x : PerLane (Slot LaneEntry)) (l : LaneId) : x.set l (x.get l) = x := by
  cases l with
  | l0 => rfl
  | l1 => rfl

theorem tableRead_lane_rows {l : LaneId} (hi : index.toNat = l.toNat) :
    let z := p.tables.settingsStaged.lanes.get l
    (z.settled → p.tableRead corr (.known .settings) index =
      p.done corr .tableRead (.table (if z.damaged = true then .damaged else .laneEntry z.val))) ∧
    (z.fails = true → p.tableRead corr (.known .settings) index = p.readFailed corr { p.tables with
      settingsStaged := { p.tables.settingsStaged with
        lanes := p.tables.settingsStaged.lanes.set l { z with damaged := true } } } (.settingsEntry .staged index.toNat)) := by
  refine ⟨fun h => ?_, fun h => ?_⟩
  · obtain ⟨-, hchecked, hfails⟩ := settled_good h
    rw [tableRead_lane hi, readStagedLane_eq, hchecked, hfails, content_good h, setLane_same]
    rfl
  · rw [tableRead_lane hi, readStagedLane_eq, checked_fails h, if_pos h, content_fails h, ← hi]
    rfl

theorem tableRead_site_rows (hi : index.toNat = 2) :
    let z := p.tables.settingsStaged.site
    (z.settled → p.tableRead corr (.known .settings) index =
      p.done corr .tableRead (.table (if z.damaged = true then .damaged else .siteEntry z.val))) ∧
    (z.fails = true → p.tableRead corr (.known .settings) index = p.readFailed corr { p.tables with
      settingsStaged := { p.tables.settingsStaged with site := { z with damaged := true } } } (.settingsEntry .staged 2)) := by
  refine ⟨fun h => ?_, fun h => ?_⟩
  · obtain ⟨-, hchecked, hfails⟩ := settled_good h
    rw [tableRead_site hi, readStagedSite_eq, hchecked, hfails, content_good h]
    rfl
  · rw [tableRead_site hi, readStagedSite_eq, checked_fails h, if_pos h, content_fails h]
    rfl

/-! ## TABLE_DISCARD (R130) -/

theorem tableDiscard_busy {t : TableId} (hc : p.committing t = true) :
    p.tableDiscard corr (.known t) = p.refuse corr .tableDiscard .busy := by
  unfold Part.tableDiscard tableTarget
  dsimp only
  rw [hc]
  rfl

theorem tableDiscard_classes (hc : p.committing .classes = false) :
    p.tableDiscard corr (.known .classes) = p.discardClasses corr := by
  unfold Part.tableDiscard tableTarget
  dsimp only
  rw [hc]
  rfl

theorem tableDiscard_settings (hc : p.committing .settings = false) :
    p.tableDiscard corr (.known .settings) = p.discardSettings corr := by
  unfold Part.tableDiscard tableTarget
  dsimp only
  rw [hc]
  rfl

theorem discardClasses_eq (p : Part) (corr : U16) : p.discardClasses corr =
    ({ p with
      tables := { p.tables with
        classStaged := p.tables.classActive.map fun z => .fresh (if z.good = true then z.val else none)
        classActive := p.tables.classActive.map fun z => { z with damaged := z.damaged || z.fails } }
      link := p.told (parityNotices (.classEntry .active) (p.tables.classActive.toList.map Slot.fails)) } : Part).done corr
        .tableDiscard (.discarded (p.tables.classActive.toList.countP fun z => !z.good)) := by
  have hcopies : (p.tables.classActive.map Slot.checked).map (fun z => z.copy none) =
      p.tables.classActive.map fun z => .fresh (if z.good = true then z.val else none) := by
    rw [Vector.map_map]
    exact congrArg (fun f => p.tables.classActive.map f) (funext fun z => copy_checked z none)
  have hcount : ((p.tables.classActive.map Slot.checked).toList.countP fun z => !z.good) =
      p.tables.classActive.toList.countP fun z => !z.good := by
    rw [Vector.toList_map, List.countP_map]
    exact congrArg (fun f => p.tables.classActive.toList.countP f) (funext fun z => congrArg not (good_checked z))
  have hchecked : p.tables.classActive.map Slot.checked =
      p.tables.classActive.map fun z => { z with damaged := z.damaged || z.fails } :=
    congrArg (fun f => p.tables.classActive.map f) (funext checked_eq)
  unfold Part.discardClasses
  dsimp only
  rw [readActiveClasses]
  unfold Part.modTables
  dsimp only
  rw [hcopies, hcount, hchecked]

/-- No entry in use fails at a read of the active image. -/
theorem active_reads (h : p.settingsSettled) :
    (∀ l, (p.lane l).adoptedActive = true → (p.tables.settingsActive.lanes.get l).fails = false) ∧
      (p.tables.settingsPrevious.isNone = true → p.tables.settingsActive.site.fails = false) := by
  obtain ⟨h0, h1, h2⟩ := h
  refine ⟨fun l hl => ?_, fun hnone => ?_⟩
  · have hadopted : p.adopted l = p.tables.settingsActive := if_pos hl
    rw [← hadopted]
    cases l with
    | l0 => exact (settled_good h0).2.2
    | l1 => exact (settled_good h1).2.2
  · unfold Part.siteImage at h2
    rw [Option.isNone_iff_eq_none.mp hnone] at h2
    exact (settled_good h2).2.2

/-- The active settings image once its entries have been read. -/
def SettingsImage.read (y : SettingsImage) : SettingsImage :=
  ⟨⟨y.lanes.l0.checked, y.lanes.l1.checked⟩, y.site.checked, y.crc⟩

theorem readActiveSettings (h : p.settingsSettled) : ((p.readActiveLane .l0).readActiveLane .l1).readActiveSite = { p with
    tables := { p.tables with settingsActive := p.tables.settingsActive.read }
    link := p.told (parityNotices (.settingsEntry .active) [p.tables.settingsActive.lanes.l0.fails,
      p.tables.settingsActive.lanes.l1.fails, p.tables.settingsActive.site.fails]) } := by
  obtain ⟨hlanes, hsite⟩ := active_reads h
  rw [readActiveLane_eq p .l0 (hlanes .l0), readActiveLane_eq, readActiveSite_eq]
  case h => exact hsite
  case h => exact hlanes .l1
  rw [show [p.tables.settingsActive.lanes.l0.fails, p.tables.settingsActive.lanes.l1.fails, p.tables.settingsActive.site.fails] =
    [] ++ [p.tables.settingsActive.lanes.l0.fails] ++ [p.tables.settingsActive.lanes.l1.fails] ++
      [p.tables.settingsActive.site.fails] from rfl, told_parity, told_parity, told_parity]
  rfl

/-- A read of the active image leaves the settings settled. -/
theorem settled_readActive (h : p.settingsSettled) (staged : SettingsImage) :
    ({ p with tables := { p.tables with settingsStaged := staged, settingsActive := p.tables.settingsActive.read } } :
      Part).settingsSettled := by
  have hlane : ∀ l, ((p.tables.settingsActive.read).lanes.get l).settled := fun l => by
    cases l with
    | l0 => exact checked_settled _
    | l1 => exact checked_settled _
  have hadopted : ∀ l, ((p.adopted l).lanes.get l).settled → ((({ p with tables := { p.tables with
      settingsStaged := staged, settingsActive := p.tables.settingsActive.read } } : Part).adopted l).lanes.get l).settled := by
    intro l hl
    unfold Part.adopted at hl ⊢
    split at hl
    case isTrue hactive =>
      exact (congrArg (fun y : SettingsImage => (y.lanes.get l).settled) (if_pos hactive)).mpr (hlane l)
    case isFalse hactive =>
      refine (congrArg (fun y : SettingsImage => (y.lanes.get l).settled) (if_neg hactive)).mpr ?_
      dsimp only
      cases hprevious : p.tables.settingsPrevious with
      | none => exact hlane l
      | some y =>
        rw [hprevious] at hl
        exact hl
  obtain ⟨h0, h1, h2⟩ := h
  refine ⟨hadopted .l0 h0, hadopted .l1 h1, ?_⟩
  unfold Part.siteImage at h2 ⊢
  dsimp only
  cases hprevious : p.tables.settingsPrevious with
  | none => exact checked_settled _
  | some y =>
    rw [hprevious] at h2
    exact h2

theorem discardSettings_eq (h : p.settingsSettled) (corr : U16) :
    let y := p.tables.settingsActive
    let copy := fun (z : Slot LaneEntry) => Slot.fresh (if z.good = true then z.val else .default_)
    let read := fun (z : Slot LaneEntry) => { z with damaged := z.damaged || z.fails }
    p.discardSettings corr =
      ({ p with
        tables := { p.tables with
          settingsStaged := ⟨⟨copy y.lanes.l0, copy y.lanes.l1⟩,
            .fresh (if y.site.good = true then y.site.val else .default_), y.crc⟩
          settingsActive := ⟨⟨read y.lanes.l0, read y.lanes.l1⟩,
            { y.site with damaged := y.site.damaged || y.site.fails }, y.crc⟩ }
        link := p.told (parityNotices (.settingsEntry .active)
          [y.lanes.l0.fails, y.lanes.l1.fails, y.site.fails]) } : Part).done corr .tableDiscard
            (.discarded ([y.lanes.l0.good, y.lanes.l1.good, y.site.good].count false)) := by
  intro y copy read
  have hread : p.tables.settingsActive.read = ⟨⟨read y.lanes.l0, read y.lanes.l1⟩,
      { y.site with damaged := y.site.damaged || y.site.fails }, y.crc⟩ := by
    unfold SettingsImage.read
    rw [checked_eq, checked_eq, checked_eq]
  have hcount : ([y.lanes.l0.good, y.lanes.l1.good, y.site.good].countP fun b => !b) =
      [y.lanes.l0.good, y.lanes.l1.good, y.site.good].count false := by
    refine List.countP_congr fun b _ => ?_
    cases b with
    | false => exact Iff.rfl
    | true => exact Iff.rfl
  unfold Part.discardSettings
  dsimp only
  rw [readActiveSettings h, hcount, hread]
  rfl

/-! ## TABLE_COMMIT (R131) -/

theorem tableCommit_fault (h : p.store.fault = true) (t : TableId) (crc : U32) :
    p.tableCommit corr (.known t) crc = p.refuse corr .tableCommit .storeFault := if_pos h

theorem tableCommit_held (hf : p.store.fault = false) (hh : p.store.hold = .held) (t : TableId) (crc : U32) :
    p.tableCommit corr (.known t) crc = p.refuse corr .tableCommit .storeHeld := by
  unfold Part.tableCommit tableTarget
  dsimp only
  rw [hf, if_neg Bool.false_ne_true, if_pos hh]

theorem tableCommit_busy (hf : p.store.fault = false) (hh : p.store.hold ≠ .held) (hc : p.tables.commit ≠ none) (t : TableId)
    (crc : U32) : p.tableCommit corr (.known t) crc = p.refuse corr .tableCommit .busy := by
  unfold Part.tableCommit tableTarget
  dsimp only
  rw [hf, if_neg Bool.false_ne_true, if_neg hh, if_pos (Option.isSome_iff_ne_none.mpr hc)]

theorem tableCommit_pending (hf : p.store.fault = false) (hh : p.store.hold ≠ .held) (hc : p.tables.commit = none)
    (hprevious : p.tables.settingsPrevious ≠ none) (crc : U32) :
    p.tableCommit corr (.known .settings) crc = p.refuse corr .tableCommit .commitPending := by
  unfold Part.tableCommit tableTarget
  dsimp only
  rw [hf, if_neg Bool.false_ne_true, if_neg hh, hc, Option.isSome_none, if_neg Bool.false_ne_true,
    if_pos ⟨rfl, Option.isSome_iff_ne_none.mpr hprevious⟩]

/-- The staged image is read, and the commit begins where it matches. -/
def Part.commitStaged (p : Part) (corr : U16) (t : TableId) (crc : Nat) : Part :=
  if (p.readStaged t).tables.stagedMatches t crc then
    ((p.readStaged t).modTables fun x => { x with commit := some ⟨t, corr, crc⟩ }).queueTable (firstCommitOp t)
  else (p.readStaged t).refuse corr .tableCommit .crcMismatch

theorem tableCommit_reads (hf : p.store.fault = false) (hh : p.store.hold ≠ .held) (hc : p.tables.commit = none) {t : TableId}
    (hprevious : t = .settings → p.tables.settingsPrevious = none) (crc : U32) :
    p.tableCommit corr (.known t) crc = p.commitStaged corr t crc.toNat := by
  have hno : ¬ (t = .settings ∧ p.tables.settingsPrevious.isSome = true) := by
    rintro ⟨ht, hsome⟩
    rw [hprevious ht] at hsome
    cases hsome
  unfold Part.tableCommit tableTarget
  dsimp only
  rw [hf, if_neg Bool.false_ne_true, if_neg hh, hc, Option.isSome_none, if_neg Bool.false_ne_true, if_neg hno]
  rfl

theorem commitStaged_refuses {t : TableId} {crc : Nat} (h : (p.readStaged t).tables.stagedMatches t crc = false) :
    p.commitStaged corr t crc = (p.readStaged t).refuse corr .tableCommit .crcMismatch := by
  unfold Part.commitStaged
  rw [h]
  rfl

theorem commitStaged_begins {t : TableId} {crc : Nat} (h : (p.readStaged t).tables.stagedMatches t crc = true) :
    p.commitStaged corr t crc =
      ((p.readStaged t).modTables fun x => { x with commit := some ⟨t, corr, crc⟩ }).queueTable (firstCommitOp t) := if_pos h

/-- Every entry of the staged class image is good: its reads change nothing (R131). -/
theorem readStagedClasses_good (h : ∀ z ∈ p.tables.classStaged.toList, z.good = true) : p.readStaged .classes = p := by
  have hchecked : p.tables.classStaged.map Slot.checked = p.tables.classStaged := by
    refine Vector.ext fun i hi => ?_
    rw [Vector.getElem_map]
    exact (good_reads (h _ (Vector.mem_toList_iff.mpr (Vector.getElem_mem hi)))).1
  have hnone := parityNotices_none (.classEntry .staged) (fs := p.tables.classStaged.toList.map Slot.fails) fun b hb => by
    obtain ⟨z, hz, rfl⟩ := List.mem_map.mp hb
    exact (good_reads (h z hz)).2
  refine (readStagedClasses p).trans ?_
  rw [hchecked, hnone]
  rfl

theorem readStagedSettings_good (h0 : p.tables.settingsStaged.lanes.l0.good = true)
    (h1 : p.tables.settingsStaged.lanes.l1.good = true) (h2 : p.tables.settingsStaged.site.good = true) :
    p.readStaged .settings = p := by
  obtain ⟨k0, f0⟩ := good_reads h0
  obtain ⟨k1, f1⟩ := good_reads h1
  obtain ⟨k2, f2⟩ := good_reads h2
  rw [readStagedSettings, k0, k1, k2, f0, f1, f2]
  rfl

theorem stagedMatches_classes (t : TableStore) (crc : Nat) : t.stagedMatches .classes crc = true ↔
    (∀ z ∈ t.classStaged.toList, z.good = true) ∧ classImageCrc (t.classStaged.toList.map (·.val)) = crc := by
  unfold TableStore.stagedMatches
  rw [Bool.and_eq_true, List.all_eq_true, beq_iff_eq]

theorem stagedMatches_settings (t : TableStore) (crc : Nat) : t.stagedMatches .settings crc = true ↔
    (t.settingsStaged.lanes.l0.good = true ∧ t.settingsStaged.lanes.l1.good = true ∧ t.settingsStaged.site.good = true) ∧
      crc32 t.settingsStaged.bytes = crc := by
  unfold TableStore.stagedMatches
  rw [Bool.and_eq_true, Bool.and_eq_true, Bool.and_eq_true, beq_iff_eq]
  exact and_congr and_assoc Iff.rfl

theorem commitStaged_badClass {crc : Nat} (h : ∃ z ∈ p.tables.classStaged.toList, z.good = false) :
    p.commitStaged corr .classes crc = ({ p with
      tables := { p.tables with classStaged := p.tables.classStaged.map fun z => { z with damaged := z.damaged || z.fails } }
      link := p.told (parityNotices (.classEntry .staged) (p.tables.classStaged.toList.map Slot.fails)) } : Part).refuse
        corr .tableCommit .crcMismatch := by
  have hread := readStagedClasses p
  rw [show Slot.checked = _ from funext (checked_eq (α := Option ClassEntry))] at hread
  have hno : (p.readStaged .classes).tables.stagedMatches .classes crc = false := by
    refine Bool.eq_false_iff.mpr fun hm => ?_
    obtain ⟨z, hz, hbad⟩ := h
    have hgood := ((stagedMatches_classes _ _).mp hm).1 z.checked (by
      rw [show p.readStaged .classes = _ from readStagedClasses p]
      dsimp only
      rw [Vector.toList_map]
      exact List.mem_map_of_mem hz)
    rw [good_checked, hbad] at hgood
    cases hgood
  exact (commitStaged_refuses hno).trans (congrArg (fun q : Part => q.refuse corr .tableCommit .crcMismatch) hread)

theorem commitStaged_badSettings {crc : Nat} (h : ¬ (p.tables.settingsStaged.lanes.l0.good = true ∧
    p.tables.settingsStaged.lanes.l1.good = true ∧ p.tables.settingsStaged.site.good = true)) :
    p.commitStaged corr .settings crc = ({ p with
      tables := { p.tables with settingsStaged := p.tables.settingsStaged.read }
      link := p.told (parityNotices (.settingsEntry .staged) [p.tables.settingsStaged.lanes.l0.fails,
        p.tables.settingsStaged.lanes.l1.fails, p.tables.settingsStaged.site.fails]) } : Part).refuse
          corr .tableCommit .crcMismatch := by
  have hread := readStagedSettings p
  have hno : (p.readStaged .settings).tables.stagedMatches .settings crc = false := by
    refine Bool.eq_false_iff.mpr fun hm => h ?_
    obtain ⟨⟨h0, h1, h2⟩, -⟩ := (stagedMatches_settings _ _).mp hm
    rw [hread] at h0 h1 h2
    exact ⟨(good_checked _).symm.trans h0, (good_checked _).symm.trans h1, (good_checked _).symm.trans h2⟩
  exact (commitStaged_refuses hno).trans (congrArg (fun q : Part => q.refuse corr .tableCommit .crcMismatch) hread)

/-- A staged image whose reads change nothing: the commit goes by its CRC-32. -/
theorem commitStaged_good {t : TableId} {crc : Nat} (h : p.readStaged t = p) :
    (p.tables.stagedMatches t crc = false → p.commitStaged corr t crc = p.refuse corr .tableCommit .crcMismatch) ∧
      (p.tables.stagedMatches t crc = true → p.commitStaged corr t crc =
        { p with tables := { p.tables with commit := some ⟨t, corr, crc⟩ }
                 store := { p.store with tableQueue := p.store.tableQueue ++ [firstCommitOp t] } }) := by
  refine ⟨fun hm => ?_, fun hm => ?_⟩
  · rw [commitStaged_refuses (by rw [h]; exact hm), h]
  · rw [commitStaged_begins (by rw [h]; exact hm), h]
    rfl

end

/-! ## The requests (R127-R131) -/

/-- Settles O57: the rows of each request in their order, the reads by the laws of the table images. -/
theorem tableRequests : Obligations.TableRequests := by
  intro corr s hs ht w r d m k x y free reads
  have hws : w.settingsSettled := settled_admitted hs ..
  have hrs : r.settingsSettled := settled_admitted hs ..
  have hds : d.settingsSettled := settled_admitted hs ..
  have hms : m.settingsSettled := settled_admitted hs ..
  have runWrite {table : TableId} {index : Byte} {entry : List Byte} {q : Part}
      (hq : w.tableWrite corr (.known table) index entry = q) (hqs : q.settingsSettled) :
      endsAs (.tableWrite corr (.known table) index entry) s q :=
    request_endsAs _ s corr .tableWrite (·.tableWrite corr (.known table) index entry) q 0 rfl ht hq hqs
  have runRead {table : TableId} {index : Byte} {q : Part} (hq : r.tableRead corr (.known table) index = q)
      (hqs : q.settingsSettled) : endsAs (.tableRead corr (.known table) index) s q :=
    request_endsAs _ s corr .tableRead (·.tableRead corr (.known table) index) q 0 rfl ht hq hqs
  have runDiscard {table : TableId} {q : Part} (hq : d.tableDiscard corr (.known table) = q)
      (hqs : q.settingsSettled) : endsAs (.tableDiscard corr (.known table)) s q :=
    request_endsAs _ s corr .tableDiscard (·.tableDiscard corr (.known table)) q 0 rfl ht hq hqs
  have runCommit {table : TableId} {crc : U32} {q : Part} (hq : m.tableCommit corr (.known table) crc = q)
      (hqs : q.settingsSettled) : endsAs (.tableCommit corr (.known table) crc) s q :=
    request_endsAs _ s corr .tableCommit (·.tableCommit corr (.known table) crc) q 0 rfl ht hq hqs
  refine ⟨fun o index entry ho hi => ?_, fun hfree index entry hi => ?_, fun hfree index entry => ⟨fun l hi => ?_, fun hi => ?_⟩,
    fun index z hz => ?_, fun index l hi => ?_, fun index hi => ?_, fun hfree => ?_, fun hfree => ?_, fun table crc => ?_⟩
  · have hc : ∀ p : Part, p.tables = s.tables → p.committing o.table = true := fun p hp => committing_of (hp ▸ ho)
    exact ⟨runWrite (tableWrite_busy (indexExists_true hi) (hc w rfl)) (settled_refuse hws ..),
      runDiscard (tableDiscard_busy (hc d rfl)) (settled_refuse hds ..)⟩
  · have hwrite := tableWrite_classes (p := w) (corr := corr) (entry := entry) hi (committing_free hfree)
    refine ⟨fun hparse => ?_, fun hparse => ?_, fun a hparse => ?_⟩
    · exact runWrite (hwrite.trans (writeClass_badValue hparse)) (settled_refuse hws ..)
    · exact runWrite (hwrite.trans (writeClass_clears hparse)) hws
    · intro held read told
      have hread : w.readOtherClasses index.toNat =
          { w with tables := { k with classStaged := read }, link := told } := readOtherClasses_eq w index.toNat
      have hheld : (w.readOtherClasses index.toNat).tables.holdsClass a.id index.toNat = true ↔ held :=
        holdsClass_read w a.id index.toNat
      have henters := hwrite.trans (writeClass_enters hparse)
      refine ⟨fun h => runWrite (henters.trans ((if_pos (hheld.mpr h)).trans ?_)) hws,
        fun h => runWrite (henters.trans ((if_neg fun n => h (hheld.mp n)).trans ?_)) hws⟩
      · exact congrArg (fun q : Part => q.refuse corr .tableWrite .duplicate) hread
      · exact congrArg (fun q : Part => q.putClass corr index.toNat (some a)) hread
  · have hlt : index.toNat < 3 := by
      rw [hi]
      cases l with
      | l0 => decide
      | l1 => decide
    have hwrite := tableWrite_settings (p := w) (corr := corr) (entry := entry) hlt (committing_free hfree)
    obtain ⟨hbad, hgood⟩ := writeSettings_lane (p := w) (corr := corr) (entry := entry) hi
    obtain ⟨hin, hout⟩ := parseLaneEntry_inRanges entry
    refine ⟨fun hno => runWrite (hwrite.trans (hbad (hout hno))) (settled_refuse hws ..), fun hyes => ?_⟩
    obtain ⟨e, he⟩ := hin hyes
    exact ⟨e, he, runWrite (hwrite.trans (hgood e he)) hws⟩
  · have hwrite := tableWrite_settings (p := w) (corr := corr) (entry := entry) (index := index) (by omega) (committing_free hfree)
    rw [hi] at hwrite
    obtain ⟨hbad, hgood⟩ := writeSettings_site (p := w) (corr := corr) (entry := entry)
    obtain ⟨hin, hout⟩ := parseSiteEntry_inRanges entry
    refine ⟨fun hno => runWrite (hwrite.trans (hbad (hout hno))) (settled_refuse hws ..), fun hyes => ?_⟩
    obtain ⟨e, he⟩ := hin hyes
    exact ⟨e, he, runWrite (hwrite.trans (hgood e he)) hws⟩
  · obtain ⟨hgood, hbad⟩ := tableRead_class_rows (p := r) (corr := corr) hz
    exact ⟨fun h => runRead (hgood h) (settled_done hrs ..), fun h => runRead (hbad h) hrs⟩
  · obtain ⟨hgood, hbad⟩ := tableRead_lane_rows (p := r) (corr := corr) hi
    exact ⟨fun h => runRead (hgood h) (settled_done hrs ..), fun h => runRead (hbad h) hrs⟩
  · obtain ⟨hgood, hbad⟩ := tableRead_site_rows (p := r) (corr := corr) hi
    exact ⟨fun h => runRead (hgood h) (settled_done hrs ..), fun h => runRead (hbad h) hrs⟩
  · have hdiscard := (tableDiscard_classes (p := d) (corr := corr) (committing_free hfree)).trans (discardClasses_eq d corr)
    rw [show d.tables = k from rfl] at hdiscard
    exact runDiscard hdiscard hds
  · intro copy read
    have hdiscard := (tableDiscard_settings (p := d) (corr := corr) (committing_free hfree)).trans (discardSettings_eq hds corr)
    dsimp only at hdiscard
    rw [show d.tables = k from rfl] at hdiscard
    have hset := settled_readActive hds ⟨⟨copy y.lanes.l0, copy y.lanes.l1⟩,
      .fresh (if y.site.good = true then y.site.val else .default_), y.crc⟩
    unfold SettingsImage.read at hset
    rw [checked_eq, checked_eq, checked_eq] at hset
    exact runDiscard hdiscard hset
  · intro c
    refine ⟨fun hf => runCommit (tableCommit_fault (p := m) hf table crc) (settled_refuse hms ..),
      fun hf hh => runCommit (tableCommit_held (p := m) hf hh table crc) (settled_refuse hms ..),
      fun hf hh => ⟨fun hc => runCommit (tableCommit_busy (p := m) hf hh hc table crc) (settled_refuse hms ..), fun hc => ⟨?_, ?_, ?_⟩⟩⟩
    · rintro rfl hprevious
      exact runCommit (tableCommit_pending (p := m) hf hh hc hprevious crc) (settled_refuse hms ..)
    · rintro rfl
      have hcommit := tableCommit_reads (p := m) (corr := corr) (t := .classes) hf hh hc (fun h => nomatch h) crc
      refine ⟨fun hbad => ?_, fun hgood => ?_⟩
      · have hrefused := hcommit.trans (commitStaged_badClass (p := m) hbad)
        rw [show m.tables = k from rfl] at hrefused
        exact runCommit hrefused hms
      obtain ⟨hno, hyes⟩ := commitStaged_good (corr := corr) (crc := crc.toNat) (readStagedClasses_good (p := m) hgood)
      refine ⟨fun hcrc => runCommit (hcommit.trans (hno (Bool.eq_false_iff.mpr fun hm => hcrc ?_))) (settled_refuse hms ..),
        fun hcrc => runCommit (hcommit.trans (hyes ((stagedMatches_classes _ _).mpr ⟨hgood, hcrc⟩))) hms⟩
      exact ((stagedMatches_classes _ _).mp hm).2
    · rintro rfl hprevious good read
      have hcommit := tableCommit_reads (p := m) (corr := corr) (t := .settings) hf hh hc (fun _ => hprevious) crc
      refine ⟨fun hbad => ?_, fun hgood => ?_⟩
      · have hrefused := hcommit.trans (commitStaged_badSettings (p := m) hbad)
        unfold SettingsImage.read at hrefused
        rw [checked_eq, checked_eq, checked_eq, show m.tables = k from rfl] at hrefused
        exact runCommit hrefused hms
      · obtain ⟨h0, h1, h2⟩ := hgood
        obtain ⟨hno, hyes⟩ := commitStaged_good (corr := corr) (crc := crc.toNat) (readStagedSettings_good (p := m) h0 h1 h2)
        refine ⟨fun hcrc => runCommit (hcommit.trans (hno (Bool.eq_false_iff.mpr fun hm => hcrc ?_))) (settled_refuse hms ..),
          fun hcrc => runCommit (hcommit.trans (hyes ((stagedMatches_settings _ _).mpr ⟨⟨h0, h1, h2⟩, hcrc⟩))) hms⟩
        exact ((stagedMatches_settings _ _).mp hm).2

end Sys2Proof.Machine
end


section
/-! PROOFS. Startup restores the pending-tare list from its mirror (R96, R110). -/

namespace Sys2Proof.Machine

/-! ## The steps of R110, slot by slot -/

/-- A slot's restored content is emptied. -/
def emptied (drop : PendingEntry → Bool) (x : Option PendingEntry × Bool) : Option PendingEntry × Bool :=
  match x.1 with
  | none => x
  | some e => if drop e then (none, true) else x

theorem emptied_none {drop : PendingEntry → Bool} {x : Option PendingEntry × Bool} (h : x.1 = none) : emptied drop x = x := by
  unfold emptied
  rw [h]

theorem emptied_drops {drop : PendingEntry → Bool} {x : Option PendingEntry × Bool} {e : PendingEntry} (h : x.1 = some e)
    (hd : drop e = true) : emptied drop x = (none, true) := by
  unfold emptied
  rw [h]
  exact if_pos hd

theorem emptied_keeps {drop : PendingEntry → Bool} {x : Option PendingEntry × Bool} {e : PendingEntry} (h : x.1 = some e)
    (hd : drop e = false) : emptied drop x = x := by
  unfold emptied
  rw [h]
  exact if_neg (Bool.eq_false_iff.mp hd)

theorem zipIdx_map_range {α : Type} (f : Nat → α) (n : Nat) :
    ((List.range n).map f).zipIdx = (List.range n).map fun i => (f i, i) := by
  refine List.ext_getElem (by simp) fun i hi _ => ?_
  simp

theorem dropSlots_range (drop : Nat → PendingEntry → Bool) (f : Nat → Option PendingEntry × Bool) (n : Nat) :
    dropSlots drop ((List.range n).map f) = (List.range n).map fun i => emptied (drop i) (f i) := by
  unfold dropSlots
  rw [zipIdx_map_range, List.map_map]
  rfl

section
variable (m : List Host.Cell) (tickets : List Ticket)

/-- The mirror record of slot `i`, none where it is invalid. -/
def mirrorAt (i : Nat) : Option (Option PendingEntry) := (readSlot m .mirror i).bind (readMirror i)

/-- The content of slot `i` after steps 1 to 3 of R110. -/
def heldAt (i : Nat) : Option PendingEntry := (settleMirror (mirrorAt m i)).1

/-- Step 4 of R110. -/
def supersededAt (i : Nat) (e : PendingEntry) : Bool := superseded ((List.range 64).map (heldAt m)) i e

/-- What startup makes of slot `i`: its content, and whether that differs from the mirror record. -/
def slotRestored (i : Nat) : Option PendingEntry × Bool :=
  emptied (consumed tickets) (emptied (supersededAt m i) (settleMirror (mirrorAt m i)))

theorem restoredSlots_eq : restoredSlots m tickets = (List.range 64).map (slotRestored m tickets) := by
  unfold restoredSlots
  dsimp only
  rw [dropSlots_range, dropSlots_range, List.map_map]
  rfl

end

section
variable {m : List Host.Cell} {tickets : List Ticket} {i : Nat}

theorem supersededAt_iff {e : PendingEntry} : supersededAt m i e = true ↔
    ∃ j f, j < 64 ∧ j ≠ i ∧ heldAt m j = some f ∧ f.vehicle = e.vehicle ∧
      (e.creation < f.creation ∨ e.creation = f.creation ∧ j < i) := by
  unfold supersededAt superseded
  rw [zipIdx_map_range, List.any_map, List.any_eq_true]
  constructor
  · rintro ⟨j, hj, hmatch⟩
    cases hf : heldAt m j with
    | none =>
      simp only [Function.comp_apply, hf] at hmatch
      cases hmatch
    | some f =>
      simp only [Function.comp_apply, hf] at hmatch
      obtain ⟨hne, hvehicle, horder⟩ := of_decide_eq_true hmatch
      exact ⟨j, f, List.mem_range.mp hj, hne, hf, hvehicle, horder⟩
  · rintro ⟨j, f, hj, hne, hf, hvehicle, horder⟩
    refine ⟨j, List.mem_range.mpr hj, ?_⟩
    simp only [Function.comp_apply, hf]
    exact decide_eq_true ⟨hne, hvehicle, horder⟩

/-- What steps 1 to 3 keep is an OPEN entry: the mirror's own, or that of a CLAIMED one. -/
theorem heldAt_opened {e : PendingEntry} (h : heldAt m i = some e) : ∃ g, e.state = .opened g := by
  unfold heldAt settleMirror at h
  cases hm : mirrorAt m i with
  | none =>
    rw [hm] at h
    cases h
  | some x =>
    cases x with
    | none =>
      rw [hm] at h
      cases h
    | some f =>
      rw [hm] at h
      dsimp only at h
      cases hst : f.state with
      | reserved =>
        rw [hst] at h
        cases h
      | opened g =>
        rw [hst] at h
        cases h
        exact ⟨g, hst⟩
      | claimed g l =>
        rw [hst] at h
        cases h
        exact ⟨g, rfl⟩

/-- The slot is marked changed exactly where its content differs from the mirror record. -/
theorem settleMirror_changed (x : Option (Option PendingEntry)) : (settleMirror x).2 = true ↔ x ≠ some (settleMirror x).1 := by
  cases x with
  | none => exact ⟨fun _ h => (nomatch h), fun _ => rfl⟩
  | some y =>
    cases y with
    | none => exact ⟨fun h => (nomatch h), fun h => absurd rfl h⟩
    | some e =>
      unfold settleMirror
      dsimp only
      cases hst : e.state with
      | reserved => exact ⟨fun _ h => (nomatch h), fun _ => rfl⟩
      | opened g => exact ⟨fun h => (nomatch h), fun h => absurd rfl h⟩
      | claimed g l =>
        refine ⟨fun _ h => ?_, fun _ => rfl⟩
        have hstate := congrArg PendingEntry.state (Option.some.inj (Option.some.inj h))
        rw [hst] at hstate
        cases hstate

theorem consumed_iff {e : PendingEntry} {g : GrossSide} (h : e.state = .opened g) : consumed tickets e = true ↔
    ∃ k ∈ tickets, ∃ g, e.state = .opened g ∧ k.vehicle = e.vehicle ∧ k.side.lane = g.lane ∧ k.side.time = g.time := by
  unfold consumed
  rw [h]
  dsimp only [EntryState.side]
  rw [List.any_eq_true]
  constructor
  · rintro ⟨k, hk, hmatch⟩
    obtain ⟨hvehicle, hlane, htime⟩ := of_decide_eq_true hmatch
    exact ⟨k, hk, g, rfl, hvehicle, hlane, htime⟩
  · rintro ⟨k, hk, g', hg, hvehicle, hlane, htime⟩
    cases hg
    exact ⟨k, hk, decide_eq_true ⟨hvehicle, hlane, htime⟩⟩

/-- What a slot comes to hold, and the mark of its change. -/
theorem slotRestored_rows :
    (heldAt m i = none → (slotRestored m tickets i).1 = none) ∧
    (∀ e, heldAt m i = some e →
      ((supersededAt m i e = true ∨ consumed tickets e = true) → (slotRestored m tickets i).1 = none) ∧
      (supersededAt m i e = false → consumed tickets e = false → (slotRestored m tickets i).1 = some e)) ∧
    ((slotRestored m tickets i).2 = true ↔ mirrorAt m i ≠ some (slotRestored m tickets i).1) := by
  have hchanged := settleMirror_changed (mirrorAt m i)
  unfold slotRestored
  cases hheld : heldAt m i with
  | none =>
    have hnone : (settleMirror (mirrorAt m i)).1 = none := hheld
    rw [emptied_none hnone, emptied_none hnone]
    exact ⟨fun _ => hnone, (fun e he => nomatch he), hchanged⟩
  | some e =>
    have hsome : (settleMirror (mirrorAt m i)).1 = some e := hheld
    have hempty : mirrorAt m i ≠ some none := fun hm => by
      unfold heldAt at hheld
      rw [hm] at hheld
      cases hheld
    cases hsuper : supersededAt m i e with
    | true =>
      rw [emptied_drops hsome hsuper, emptied_none rfl]
      refine ⟨(fun h => nomatch h), fun f hf => ?_, ⟨fun _ => hempty, fun _ => rfl⟩⟩
      cases hf
      rw [hsuper]
      exact ⟨fun _ => rfl, (fun h => nomatch h)⟩
    | false =>
      rw [emptied_keeps hsome hsuper]
      cases hconsumed : consumed tickets e with
      | true =>
        rw [emptied_drops hsome hconsumed]
        refine ⟨(fun h => nomatch h), fun f hf => ?_, ⟨fun _ => hempty, fun _ => rfl⟩⟩
        cases hf
        rw [hconsumed]
        exact ⟨fun _ => rfl, fun _ h => nomatch h⟩
      | false =>
        rw [emptied_keeps hsome hconsumed]
        refine ⟨(fun h => nomatch h), fun f hf => ?_, hchanged⟩
        cases hf
        rw [hsuper, hconsumed]
        exact ⟨fun h => absurd h (by decide), fun _ _ => hsome⟩

end

/-! ## The list as it is restored -/

/-- Marking slots that are not dirty puts them at the end of the dirty queue, in their order. -/
theorem markAll_fresh : ∀ (is : List Nat) (q : Part), is.Nodup → (∀ i ∈ is, i ∉ q.pairing.dirty) →
    is.foldl Part.markDirty q = q.modPairing fun x => { x with dirty := x.dirty ++ is }
  | [], q, _, _ => by
    rw [List.foldl_nil]
    unfold Part.modPairing
    dsimp only
    rw [List.append_nil]
  | i :: is, q, hnodup, hfresh => by
    obtain ⟨hi, his⟩ := List.nodup_cons.mp hnodup
    have hmark : q.markDirty i = q.modPairing fun x => { x with dirty := x.dirty ++ [i] } :=
      if_neg (hfresh i List.mem_cons_self)
    rw [List.foldl_cons, hmark, markAll_fresh is _ his]
    · unfold Part.modPairing
      dsimp only
      rw [List.append_assoc, List.singleton_append]
    · intro j hj hm
      rcases List.mem_append.mp hm with hm | hm
      · exact hfresh j (List.mem_cons_of_mem i hj) hm
      · exact hi (List.mem_singleton.mp hm ▸ hj)

theorem markAll_empty {is : List Nat} {q : Part} (hnodup : is.Nodup) (h : q.pairing.dirty = []) :
    is.foldl Part.markDirty q = q.modPairing fun x => { x with dirty := is } := by
  rw [markAll_fresh is q hnodup fun i _ hm => nomatch (h ▸ hm)]
  unfold Part.modPairing
  dsimp only
  rw [h, List.nil_append]

/-- The part with this pending-tare list. -/
def Part.setList (p : Part) (slots : Vector (Option PendingEntry) 64) (next loss : Nat) (dirty : List Nat) : Part :=
  p.modPairing fun x => { x with slots := slots, nextCreation := next, mirrorLoss := loss, dirty := dirty }

section
variable {p : Part} {slots : Vector (Option PendingEntry) 64} {next loss : Nat} {dirty : List Nat}

theorem setList_next : (p.setList slots next loss dirty).pairing.nextCreation = next := rfl

theorem setList_loss : (p.setList slots next loss dirty).pairing.mirrorLoss = loss := rfl

theorem setList_dirty : (p.setList slots next loss dirty).pairing.dirty = dirty := rfl

theorem setList_consignments : (p.setList slots next loss dirty).pairing.consignments = p.pairing.consignments := rfl

theorem markAll_setList (hnodup : dirty.Nodup) (h : p.pairing.dirty = []) :
    dirty.foldl Part.markDirty (p.modPairing fun x => { x with slots := slots, nextCreation := next, mirrorLoss := loss }) =
      p.setList slots next loss dirty :=
  markAll_empty hnodup h

theorem slot_setList (f : Nat → Option PendingEntry) (i : Nat) :
    (p.setList (Vector.ofFn fun i : Fin 64 => f i.val) next loss dirty).slot i = if i < 64 then f i else none := by
  unfold Part.slot Part.setList Part.modPairing
  dsimp only
  split
  case isTrue hi =>
    rw [Vector.getElem?_eq_getElem hi, Vector.getElem_ofFn]
    rfl
  case isFalse hi =>
    rw [Vector.getElem?_eq_none (Nat.not_lt.mp hi)]
    rfl

end

/-- The creation number above those of these slots. -/
def creationAbove (f : Nat → Option PendingEntry) : Nat :=
  (((List.range 64).filterMap fun i => (f i).map (·.creation)).foldl max 0) + 1

/-- The list before the renumbering that may follow. -/
def Part.listRestored (p : Part) (m : List Host.Cell) (tickets : List Ticket) : Part :=
  p.setList (Vector.ofFn fun i : Fin 64 => (slotRestored m tickets i.val).1)
    (creationAbove fun i => (slotRestored m tickets i).1) (mirrorLosses m)
    ((List.range 64).filter fun i => (slotRestored m tickets i).2)

section
variable {p : Part} {m : List Host.Cell} {tickets : List Ticket}

theorem restorePending_eq (h : p.pairing.dirty = []) : p.restorePending m tickets = (p.listRestored m tickets).renumber := by
  have hchanged : (((restoredSlots m tickets).zipIdx.filter fun s => s.1.2).map (·.2)) =
      (List.range 64).filter fun i => (slotRestored m tickets i).2 := by
    rw [restoredSlots_eq, zipIdx_map_range, List.filter_map, List.map_map]
    exact List.map_id _
  have hslots : (Vector.ofFn fun i : Fin 64 => ((restoredSlots m tickets)[i.val]?).bind (·.1)) =
      Vector.ofFn fun i : Fin 64 => (slotRestored m tickets i.val).1 := by
    refine congrArg Vector.ofFn (funext fun i => ?_)
    rw [restoredSlots_eq, List.getElem?_map, List.getElem?_range i.isLt]
    rfl
  have hcreations : ((restoredSlots m tickets).filterMap fun s => s.1.map (·.creation)) =
      (List.range 64).filterMap fun i => ((slotRestored m tickets i).1).map (·.creation) := by
    rw [restoredSlots_eq, List.filterMap_map]
    rfl
  unfold Part.restorePending
  dsimp only
  rw [hchanged, hslots, hcreations, markAll_setList (List.nodup_range.filter _) h]
  unfold Part.listRestored creationAbove
  with_reducible rfl

/-- What stands in the list before the renumbering. -/
structure Part.HoldsRestored (q : Part) (m : List Host.Cell) (tickets : List Ticket) : Prop where
  slots : ∀ i, i < 64 → q.slot i = (slotRestored m tickets i).1
  dirty : q.pairing.dirty = (List.range 64).filter fun i => decide (mirrorAt m i ≠ some (q.slot i))
  above : ∀ i e, i < 64 → q.slot i = some e → e.creation < q.pairing.nextCreation
  next : q.pairing.nextCreation = 1 ∨ ∃ i e, i < 64 ∧ q.slot i = some e ∧ q.pairing.nextCreation = e.creation + 1
  loss : q.pairing.mirrorLoss = mirrorLosses m

theorem mem_creations {f : Nat → Option PendingEntry} {n : Nat} :
    n ∈ ((List.range 64).filterMap fun i => (f i).map (·.creation)) ↔ ∃ i e, i < 64 ∧ f i = some e ∧ e.creation = n := by
  rw [List.mem_filterMap]
  constructor
  · rintro ⟨i, hi, hmap⟩
    obtain ⟨e, he, hn⟩ := Option.map_eq_some_iff.mp hmap
    exact ⟨i, e, List.mem_range.mp hi, he, hn⟩
  · rintro ⟨i, e, hi, he, hn⟩
    exact ⟨i, List.mem_range.mpr hi, Option.map_eq_some_iff.mpr ⟨e, he, hn⟩⟩

/-- The next creation number is one above the highest number kept. -/
theorem creationAbove_rows (f : Nat → Option PendingEntry) :
    (∀ i e, i < 64 → f i = some e → e.creation < creationAbove f) ∧
      (creationAbove f = 1 ∨ ∃ i e, i < 64 ∧ f i = some e ∧ creationAbove f = e.creation + 1) := by
  unfold creationAbove
  refine ⟨fun i e hi he => Nat.lt_succ_of_le ((foldl_max_ge _ 0).2 _ (mem_creations.mpr ⟨i, e, hi, he, rfl⟩)), ?_⟩
  rcases foldl_max_mem ((List.range 64).filterMap fun i => (f i).map (·.creation)) 0 with hzero | hin
  · exact .inl (by rw [hzero])
  · obtain ⟨i, e, hi, he, hn⟩ := mem_creations.mp hin
    exact .inr ⟨i, e, hi, he, by rw [hn]⟩

theorem holdsRestored : (p.listRestored m tickets).HoldsRestored m tickets := by
  unfold Part.listRestored
  have hslot : ∀ i, i < 64 → Part.slot _ i = (slotRestored m tickets i).1 := fun i hi =>
    (slot_setList (p := p) (next := creationAbove fun i => (slotRestored m tickets i).1) (loss := mirrorLosses m)
      (dirty := (List.range 64).filter fun i => (slotRestored m tickets i).2) (fun i => (slotRestored m tickets i).1) i).trans
      (if_pos hi)
  obtain ⟨habove, hnext⟩ := creationAbove_rows fun i => (slotRestored m tickets i).1
  refine ⟨hslot, ?_, fun i e hi he => ?_, ?_, setList_loss⟩
  · rw [setList_dirty]
    refine List.filter_congr fun i hi => ?_
    rw [hslot i (List.mem_range.mp hi)]
    exact Bool.eq_iff_iff.mpr (slotRestored_rows.2.2.trans decide_eq_true_iff.symm)
  · rw [setList_next]
    exact habove i e hi (hslot i hi ▸ he)
  · rw [setList_next]
    refine hnext.imp id ?_
    rintro ⟨i, e, hi, he, heq⟩
    exact ⟨i, e, hi, (hslot i hi).trans he, heq⟩

end

/-- An entry of the mirror as steps 2 and 3 of R110 take it. -/
def PendingEntry.opensAs (e : PendingEntry) : Option PendingEntry :=
  match e.state with
  | .reserved => none
  | .opened _ => some e
  | .claimed g _ => some { e with state := .opened g }

theorem heldAt_eq (m : List Host.Cell) : heldAt m = fun i => (mirrorAt m i).join.bind PendingEntry.opensAs := by
  funext i
  unfold heldAt
  cases mirrorAt m i with
  | none => rfl
  | some x =>
    cases x with
    | none => rfl
    | some e =>
      unfold settleMirror PendingEntry.opensAs
      dsimp only [Option.join_some, Option.bind_some]
      cases e.state with
      | reserved => rfl
      | opened g => rfl
      | claimed g l => rfl

/-- Which entries startup keeps, of those that steps 1 to 3 keep. -/
theorem slotRestored_keeps (m : List Host.Cell) (tickets : List Ticket) (i : Nat) :
    (heldAt m i = none → (slotRestored m tickets i).1 = none) ∧ ∀ e, heldAt m i = some e →
      let superseded := ∃ j f, j < 64 ∧ j ≠ i ∧ heldAt m j = some f ∧ f.vehicle = e.vehicle ∧
        (e.creation < f.creation ∨ e.creation = f.creation ∧ j < i)
      let consumed := ∃ k ∈ tickets, ∃ g, e.state = .opened g ∧ k.vehicle = e.vehicle ∧ k.side.lane = g.lane ∧
        k.side.time = g.time
      ((superseded ∨ consumed) → (slotRestored m tickets i).1 = none) ∧
        (¬ superseded → ¬ consumed → (slotRestored m tickets i).1 = some e) := by
  obtain ⟨hnone, hsome, -⟩ := slotRestored_rows (m := m) (tickets := tickets) (i := i)
  refine ⟨hnone, fun e he => ?_⟩
  obtain ⟨hdrop, hkeep⟩ := hsome e he
  obtain ⟨g, hg⟩ := heldAt_opened he
  rw [supersededAt_iff, consumed_iff hg] at hdrop
  rw [← Bool.not_eq_true, ← Bool.not_eq_true, supersededAt_iff, consumed_iff hg] at hkeep
  exact ⟨hdrop, hkeep⟩

theorem renumbers_pairing {p q : Part} {f : Nat → Option PendingEntry} (h : p.renumbers f) (hpq : q.pairing = p.pairing) :
    q.renumbers f := by
  unfold Part.renumbers Part.slot at h ⊢
  rw [hpq]
  exact h

theorem renumber_loss (p : Part) : p.renumber.pairing.mirrorLoss = p.pairing.mirrorLoss ∧
    p.renumber.pairing.consignments = p.pairing.consignments := by
  by_cases h : p.pairing.nextCreation ≤ creationLimit
  · rw [show p.renumber = p from if_pos h]
    exact ⟨rfl, rfl⟩
  · obtain ⟨-, ⟨slots, n, dirty, hrest⟩, -⟩ := renumber_facts p (Nat.not_le.mp h)
    rw [hrest]
    exact ⟨rfl, rfl⟩

theorem restoresPending_rows {s t : State} {q : Part}
    (h : q.HoldsRestored s.mem ((scanSlots s.mem .ticket readTicket).map (·.2))) (hconsign : q.pairing.consignments = [])
    (ht : t.pairing = q.renumber.pairing) : s.restoresPending t := by
  have hloss := renumber_loss q
  refine ⟨q.slot, fun i hi => ?_, fun hlow => ?_, fun i e hi he hhigh => ?_, ?_, ?_⟩
  · have hkeeps := slotRestored_keeps s.mem ((scanSlots s.mem .ticket readTicket).map (·.2)) i
    rw [heldAt_eq, ← h.slots i hi] at hkeeps
    exact hkeeps
  · have hlimit : q.pairing.nextCreation ≤ creationLimit := by
      rcases h.next with hone | ⟨i, e, hi, he, heq⟩
      · rw [hone]
        decide
      · rw [heq]
        exact hlow i e hi he
    rw [show q.renumber = q from if_pos hlimit] at ht
    have hslot : t.toPart.slot = q.slot := by
      funext i
      unfold Part.slot
      rw [ht]
    rw [hslot, ht]
    exact ⟨fun _ _ => rfl, h.dirty, h.above, h.next⟩
  · obtain ⟨hrenumbers, -, hkept⟩ := renumber_facts q (lt_of_le_of_lt hhigh (h.above i e hi he))
    refine ⟨renumbers_pairing hrenumbers ht, fun j hj hm => ?_⟩
    rw [ht]
    refine hkept j ?_
    rw [h.dirty]
    exact List.mem_filter.mpr ⟨List.mem_range.mpr hj, decide_eq_true hm⟩
  · rw [ht, hloss.1]
    exact h.loss
  · rw [ht, hloss.2, hconsign]

/-- A part whose pairing unit is the one that startup restores. -/
theorem restoresPending_of {s t : State} {p : Part} (hp : p.pairing = Pairing.afterReset)
    (h : t.pairing = (p.restorePending s.mem ((scanSlots s.mem .ticket readTicket).map (·.2))).pairing) :
    s.restoresPending t := by
  have hclean : p.pairing.dirty = [] := by
    rw [hp]
    rfl
  rw [restorePending_eq hclean] at h
  refine restoresPending_rows holdsRestored ?_ h
  unfold Part.listRestored
  rw [setList_consignments, hp]
  rfl

end Sys2Proof.Machine
end


section
/-! PROOFS. Startup restores the decks from their images and starts their receivers (R15, R23, R146, R178). -/

namespace Sys2Proof.Machine

/-! ## The decks from their images -/

/-- A mark after those that the step has set stands at the end of the queue. -/
theorem insertMark_last {m : List DeckId} {d : DeckId} (h : ∀ e ∈ m, e < d) (ops : List TableOp) :
    insertMark m d ops = ops ++ [.image d] := by
  induction ops with
  | nil => rfl
  | cons o ops ih =>
    cases o with
    | image e =>
      unfold insertMark
      rw [if_neg fun hc => absurd (h e hc.2) (not_lt.mpr (le_of_lt hc.1)), ih, List.cons_append]
    | _ =>
      unfold insertMark
      rw [ih, List.cons_append]

/-- A deck as startup restores it, before its receiver starts. -/
def restoredDeck (m : List Host.Cell) (trail : List TrailRecord) (d : DeckId) : Deck :=
  Deck.afterReset.restore (storedImage m d) (highestCount trail d)

/-- The deck's image differs from what is restored from it. -/
def imageBehind (m : List Host.Cell) (trail : List TrailRecord) (d : DeckId) : Bool :=
  match storedImage m d with
  | none => false
  | some i => decide ((restoredDeck m trail d).persisted ≠ i.persisted ∨ (restoredDeck m trail d).counter ≠ i.counter ∨
      i.marker ≠ none)

/-- The store with the image write mark of the deck. -/
def Store.marksImage (x : Store) (d : DeckId) : Store :=
  { x with tableQueue := x.tableQueue ++ [.image d], marking := d :: x.marking }

theorem behind_iff {i : CalImage} {x : Deck} : i.behind x = true ↔
    (x.persisted ≠ i.persisted ∨ x.counter ≠ i.counter ∨ i.marker ≠ none) := by
  unfold CalImage.behind
  rw [Bool.or_eq_true, Bool.or_eq_true, decide_eq_true_iff, decide_eq_true_iff, Option.isSome_iff_ne_none, or_assoc]

theorem restore_entry {x : Deck} {i : CalImage} {high : Option Nat} :
    (x.restore (some i) high).cal = some ⟨i.entry, true, false⟩ := rfl

section
variable {p : Part} {m : List Host.Cell} {trail : List TrailRecord} {d : DeckId}

theorem markImage_last (hcal : (p.deck d).cal.isSome = true) (hqueue : TableOp.image d ∉ p.store.tableQueue)
    (hmarking : ∀ e ∈ p.store.marking, e < d) : p.markImage d = p.modStore fun x => x.marksImage d := by
  unfold Part.markImage
  rw [if_neg fun hc => hc.elim (fun hnone => by rw [Option.isNone_iff_eq_none.mp hnone] at hcal; cases hcal) hqueue]
  unfold Part.modStore
  dsimp only
  rw [insertMark_last hmarking]
  rfl

theorem restoreDeck_eq (hdeck : p.deck d = Deck.afterReset) (hqueue : TableOp.image d ∉ p.store.tableQueue)
    (hmarking : ∀ e ∈ p.store.marking, e < d) : p.restoreDeck m trail d =
      { p.setDeck d (restoredDeck m trail d) with
        store := if imageBehind m trail d then p.store.marksImage d else p.store } := by
  have hset : (p.modDeck d fun x => x.restore (storedImage m d) (highestCount trail d)) =
      p.setDeck d (restoredDeck m trail d) := by
    unfold Part.modDeck
    rw [hdeck]
    rfl
  have hself : (p.setDeck d (restoredDeck m trail d)).deck d = restoredDeck m trail d := deck_setDeck_self p d _
  unfold Part.restoreDeck
  dsimp only
  rw [hset, hself]
  cases himage : storedImage m d with
  | none =>
    have hbehind : imageBehind m trail d = false := by
      unfold imageBehind
      rw [himage]
    rw [hbehind]
    rfl
  | some i =>
    have hcal : (restoredDeck m trail d).cal.isSome = true := by
      unfold restoredDeck
      rw [himage, restore_entry]
      rfl
    have hbehind : imageBehind m trail d = i.behind (restoredDeck m trail d) := by
      unfold imageBehind
      rw [himage]
      exact Bool.eq_iff_iff.mpr (decide_eq_true_iff.trans behind_iff.symm)
    rw [hbehind]
    dsimp only
    cases i.behind (restoredDeck m trail d) with
    | false => rfl
    | true =>
      rw [if_pos rfl, if_pos rfl, markImage_last (p := p.setDeck d _) (by rw [hself, hcal]) hqueue hmarking]
      rfl

end

/-- What stage 4 does, deck by deck in rising order. -/
structure Part.DecksRestored (p : Part) (m : List Host.Cell) (trail : List TrailRecord) (ds : List DeckId) (q : Part) : Prop where
  rest : q = { p with decks := q.decks, store := { p.store with tableQueue := q.store.tableQueue, marking := q.store.marking } }
  deck : ∀ e, q.deck e = if e ∈ ds then restoredDeck m trail e else p.deck e
  queue : q.store.tableQueue = p.store.tableQueue ++ (ds.filter (imageBehind m trail)).map .image

theorem restoreDecks_facts (m : List Host.Cell) (trail : List TrailRecord) : ∀ (ds : List DeckId) (p : Part),
    ds.Pairwise (· < ·) → (∀ d ∈ ds, p.deck d = Deck.afterReset) → (∀ d ∈ ds, TableOp.image d ∉ p.store.tableQueue) →
    (∀ d ∈ ds, ∀ e ∈ p.store.marking, e < d) → p.DecksRestored m trail ds (ds.foldl (Part.restoreDeck m trail) p)
  | [], p, _, _, _, _ => by
    refine ⟨rfl, fun e => (if_neg List.not_mem_nil).symm, ?_⟩
    rw [List.filter_nil, List.map_nil, List.append_nil]
    rfl
  | d :: ds, p, hsorted, hdeck, hqueue, hmarking => by
    obtain ⟨hless, hrest⟩ := List.pairwise_cons.mp hsorted
    have hne : ∀ e ∈ ds, e ≠ d := fun e he => (hless e he).ne'
    have hstep := restoreDeck_eq (m := m) (trail := trail) (hdeck d List.mem_cons_self) (hqueue d List.mem_cons_self)
      (hmarking d List.mem_cons_self)
    rw [List.foldl_cons]
    generalize hx : (if imageBehind m trail d then p.store.marksImage d else p.store) = x at hstep
    have hxqueue : x.tableQueue = p.store.tableQueue ++ ([d].filter (imageBehind m trail)).map .image := by
      subst hx
      cases hb : imageBehind m trail d with
      | false => simp [hb]
      | true => simp [hb, Store.marksImage]
    have hxmarking : ∀ e ∈ x.marking, e = d ∨ e ∈ p.store.marking := by
      subst hx
      split
      · exact fun e he => List.mem_cons.mp he
      · exact fun e he => .inr he
    have hxrest : x = { p.store with tableQueue := x.tableQueue, marking := x.marking } := by
      subst hx
      split
      · rfl
      · rfl
    have hq : ∀ e, (p.restoreDeck m trail d).deck e = if e = d then restoredDeck m trail d else p.deck e := fun e => by
      rw [hstep]
      exact deck_setDeck p d e _
    have hqstore : (p.restoreDeck m trail d).store = x := by rw [hstep]
    have ih := restoreDecks_facts m trail ds (p.restoreDeck m trail d) hrest
      (fun e he => by rw [hq, if_neg (hne e he), hdeck e (List.mem_cons_of_mem d he)])
      (fun e he hin => by
        rw [hqstore, hxqueue] at hin
        rcases List.mem_append.mp hin with hin | hin
        · exact hqueue e (List.mem_cons_of_mem d he) hin
        · obtain ⟨c, hc, hce⟩ := List.mem_map.mp hin
          cases hce
          exact hne e he (List.mem_singleton.mp (List.mem_of_mem_filter hc)))
      (fun e he c hc => by
        rw [hqstore] at hc
        rcases hxmarking c hc with rfl | hc
        · exact hless e he
        · exact hmarking e (List.mem_cons_of_mem d he) c hc)
    obtain ⟨ihrest, ihdeck, ihqueue⟩ := ih
    refine ⟨?_, fun e => ?_, ?_⟩
    · rw [ihrest, hqstore, hxrest, hstep]
      rfl
    · rw [ihdeck, hq]
      by_cases he : e = d
      · subst he
        rw [if_pos rfl, if_pos List.mem_cons_self, ite_self]
      · rw [if_neg he]
        exact if_congr ⟨fun h => List.mem_cons_of_mem d h, fun h => (List.mem_cons.mp h).resolve_left he⟩ rfl rfl
    · rw [ihqueue, hqstore, hxqueue, List.append_assoc, ← List.map_append, ← List.filter_append, List.singleton_append]

/-! ## The receivers (R23) -/

/-- A deck whose receiver starts, where its entry is usable. -/
def Deck.listens (x : Deck) (now : Nat) : Deck :=
  { x with sampleTimer := (x.entry.map fun c => .running (now + 10 * c.timeout)).getD x.sampleTimer }

theorem startDeck_eq (p : Part) (d : DeckId) : p.startDeck d = p.setDeck d ((p.deck d).listens p.now) := by
  unfold Part.startDeck Deck.listens
  cases (p.deck d).entry with
  | none =>
    have hsame : p.setDeck d (p.deck d) = p := by
      unfold Part.setDeck Part.deck
      rw [Vector.set_getElem_self]
    exact hsame.symm
  | some c => rfl

theorem startDecks_facts : ∀ (ds : List DeckId) (p : Part), ds.Nodup →
    (∃ decks, ds.foldl Part.startDeck p = { p with decks := decks }) ∧
      ∀ e, (ds.foldl Part.startDeck p).deck e = if e ∈ ds then (p.deck e).listens p.now else p.deck e
  | [], p, _ => ⟨⟨p.decks, rfl⟩, fun e => (if_neg List.not_mem_nil).symm⟩
  | d :: ds, p, hnodup => by
    obtain ⟨hd, hds⟩ := List.nodup_cons.mp hnodup
    obtain ⟨⟨decks, ihrest⟩, ihdeck⟩ := startDecks_facts ds (p.startDeck d) hds
    rw [List.foldl_cons]
    rw [startDeck_eq] at *
    refine ⟨⟨decks, ihrest⟩, fun e => ?_⟩
    rw [ihdeck, deck_setDeck]
    by_cases he : e = d
    · subst he
      rw [if_pos rfl, if_pos List.mem_cons_self, if_neg hd]
    · rw [if_neg he]
      exact if_congr ⟨fun h => List.mem_cons_of_mem d h, fun h => (List.mem_cons.mp h).resolve_left he⟩ rfl rfl

theorem listens_restored (m : List Host.Cell) (trail : List TrailRecord) (d : DeckId) (now : Nat) :
    (restoredDeck m trail d).listens now = { restoredDeck m trail d with
      sampleTimer := ((storedImage m d).map fun i => Timer.running (now + 10 * i.entry.timeout)).getD .stopped } := by
  unfold restoredDeck
  cases storedImage m d with
  | none => rfl
  | some i => rfl

/-- A part whose decks and image marks are those that startup makes. -/
theorem restoresDecks_of {s t : State}
    (hdeck : ∀ d, t.toPart.deck d = (restoredDeck s.mem ((scanSlots s.mem .trail readTrail).map (·.2)) d).listens s.clock.running)
    (hqueue : t.store.tableQueue =
      (allDecks.filter (imageBehind s.mem ((scanSlots s.mem .trail readTrail).map (·.2)))).map .image) :
    s.restoresDecks t := by
  refine ⟨fun d => ?_, ?_⟩
  · rw [hdeck, listens_restored]
    unfold restoredDeck
    dsimp only
    cases storedImage s.mem d with
    | none => rfl
    | some i => rfl
  · rw [hqueue]
    rfl

end Sys2Proof.Machine
end


section
/-! PROOFS. Startup loads the tables (R135, R140, R141). -/

namespace Sys2Proof.Machine

/-! ## The class image (R135) -/

theorem filterMap_of_map_some {α β : Type} {f : α → Option β} {xs : List α} {ys : List β} (h : xs.map f = ys.map some) :
    xs.filterMap f = ys := by
  have hids := congrArg (List.filterMap id) h
  simpa [List.filterMap_map] using hids

/-- A filter that drops nothing has found every value. -/
theorem map_of_filterMap_full {α β : Type} (f : α → Option β) : ∀ xs : List α,
    (xs.filterMap f).length = xs.length → xs.map f = (xs.filterMap f).map some
  | [], _ => rfl
  | x :: xs, h => by
    cases hf : f x with
    | none =>
      have hle := List.length_filterMap_le f xs
      rw [List.filterMap_cons_none hf, List.length_cons] at h
      omega
    | some y =>
      rw [List.filterMap_cons_some hf] at h ⊢
      rw [List.map_cons, List.map_cons, hf, map_of_filterMap_full f xs (Nat.succ.inj h)]

section
variable {m : List Host.Cell}

/-- The 48 class records of the image, valid, with the CRC-32 that they carry. -/
def classImage (m : List Host.Cell) (rs : List StoredClass) (crc : Nat) : Prop :=
  (List.range 48).map (storedClass m) = rs.map some ∧ (∀ r ∈ rs, r.crc = crc) ∧ crc32 (rs.flatMap (·.bytes)) = crc

theorem classImage_length {rs : List StoredClass} {crc : Nat} (h : classImage m rs crc) : rs.length = 48 := by
  have hlen := congrArg List.length h.1
  rw [List.length_map, List.length_map, List.length_range] at hlen
  exact hlen.symm

theorem storedClasses_of_image {rs : List StoredClass} {crc : Nat} (h : classImage m rs crc) :
    storedClasses m = some (rs.map (·.entry), crc) := by
  have hlen := classImage_length h
  obtain ⟨hrecords, hcrc, hsum⟩ := h
  have hfound : (List.range 48).filterMap (storedClass m) = rs := filterMap_of_map_some hrecords
  have hhead : (rs.head?.map (·.crc)).getD 0 = crc := by
    cases rs with
    | nil => cases hlen
    | cons r rs => exact hcrc r List.mem_cons_self
  unfold storedClasses
  dsimp only
  rw [hfound, hhead, if_pos]
  exact ⟨hlen, List.all_eq_true.mpr fun r hr => beq_iff_eq.mpr (hcrc r hr), hsum⟩

theorem image_of_storedClasses {cs : List (Option ClassEntry)} {crc : Nat} (h : storedClasses m = some (cs, crc)) :
    ∃ rs, classImage m rs crc := by
  unfold storedClasses at h
  dsimp only at h
  split at h
  case isFalse => cases h
  case isTrue hvalid =>
    obtain ⟨hlen, hcrc, hsum⟩ := hvalid
    cases h
    refine ⟨(List.range 48).filterMap (storedClass m), map_of_filterMap_full _ _ (hlen.trans List.length_range.symm),
      fun r hr => beq_iff_eq.mp (List.all_eq_true.mp hcrc r hr), hsum⟩

theorem loadClasses_image (t : TableStore) {rs : List StoredClass} {crc : Nat} (h : classImage m rs crc) :
    (t.loadClasses m).classActive.toList = rs.map (fun r => .fresh r.entry) ∧ (t.loadClasses m).classCrc = crc := by
  have hlen := classImage_length h
  unfold TableStore.loadClasses
  rw [storedClasses_of_image h]
  refine ⟨?_, rfl⟩
  rw [Vector.toList_ofFn]
  refine List.ext_getElem (by rw [List.length_ofFn, List.length_map, hlen]) fun i hi _ => ?_
  rw [List.length_ofFn, ← hlen] at hi
  rw [List.getElem_ofFn, List.getElem_map, List.getElem?_map, List.getElem?_eq_getElem hi]
  rfl

theorem loadClasses_none (t : TableStore) (h : ∀ rs crc, ¬ classImage m rs crc) : t.loadClasses m = t := by
  unfold TableStore.loadClasses
  cases hs : storedClasses m with
  | none => rfl
  | some x =>
    obtain ⟨rs, hrs⟩ := image_of_storedClasses (cs := x.1) (crc := x.2) hs
    exact absurd hrs (h rs x.2)

/-- Loading the class image changes the class table alone. -/
theorem loadClasses_rest (t : TableStore) (h : t.classStaged = t.classActive) :
    ∃ image crc, t.loadClasses m = { t with classStaged := image, classActive := image, classCrc := crc } := by
  unfold TableStore.loadClasses
  cases storedClasses m with
  | none =>
    refine ⟨t.classStaged, t.classCrc, ?_⟩
    cases t
    cases h
    rfl
  | some x => exact ⟨_, x.2, rfl⟩

/-! ## The register (R141) -/

/-- The entry that the register slot `i` holds in record memory. -/
def registerAt (m : List Host.Cell) (i : Nat) : Option RegEntry := ((readSlot m .register i).bind (readRegRecord i)).join

theorem mem_storedRegister {i : Nat} {x : Slot (Option RegEntry)} : (i, x) ∈ storedRegister m ↔
    i < 1024 ∧ ∃ r, registerAt m i = some r ∧ x = .fresh (some r) ∧
      ∀ j e, j < i → registerAt m j = some e → e.tag ≠ r.tag := by
  have hread : ∀ j r, (j, r) ∈ (List.range 1024).filterMap (fun i => (registerAt m i).map fun r => (i, r)) ↔
      j < 1024 ∧ registerAt m j = some r := by
    intro j r
    rw [List.mem_filterMap]
    constructor
    · rintro ⟨k, hk, hmap⟩
      obtain ⟨e, he, heq⟩ := Option.map_eq_some_iff.mp hmap
      cases heq
      exact ⟨List.mem_range.mp hk, he⟩
    · rintro ⟨hj, hr⟩
      exact ⟨j, List.mem_range.mpr hj, by rw [hr]; rfl⟩
  have hstored : storedRegister m =
      ((((List.range 1024).filterMap fun i => (registerAt m i).map fun r => (i, r)).filter fun x =>
        !((List.range 1024).filterMap fun i => (registerAt m i).map fun r => (i, r)).any fun y =>
          decide (y.1 < x.1 ∧ y.2.tag = x.2.tag)).map fun x => (x.1, .fresh (some x.2))) := rfl
  rw [hstored, List.mem_map]
  generalize (List.range 1024).filterMap (fun i => (registerAt m i).map fun r => (i, r)) = read at *
  constructor
  · rintro ⟨⟨j, r⟩, hin, heq⟩
    obtain ⟨hmem, hfirst⟩ := List.mem_filter.mp hin
    cases heq
    obtain ⟨hj, hr⟩ := (hread _ _).mp hmem
    refine ⟨hj, r, hr, rfl, fun k e hk he htag => ?_⟩
    rw [Bool.not_eq_true', List.any_eq_false] at hfirst
    exact hfirst (k, e) ((hread _ _).mpr ⟨lt_trans hk hj, he⟩) (decide_eq_true ⟨hk, htag⟩)
  · rintro ⟨hi, r, hr, rfl, hfirst⟩
    refine ⟨(i, r), List.mem_filter.mpr ⟨(hread _ _).mpr ⟨hi, hr⟩, ?_⟩, rfl⟩
    rw [Bool.not_eq_true', List.any_eq_false]
    rintro ⟨k, e⟩ hin hmatch
    obtain ⟨hk, htag⟩ := of_decide_eq_true hmatch
    exact hfirst k e hk ((hread _ _).mp hin).2 htag

/-- What a slot of the register reads as, by what is listed for it. -/
theorem regSlot_absent {t : TableStore} {i : Nat} (h : ∀ x, (i, x) ∉ t.register) : t.regSlot i = .fresh none := by
  unfold TableStore.regSlot
  cases hf : t.register.find? fun x => x.1 = i with
  | none => rfl
  | some x =>
    have hi : x.1 = i := of_decide_eq_true (List.find?_some (p := fun x : Nat × Slot (Option RegEntry) => decide (x.1 = i)) hf)
    exact absurd (hi ▸ List.mem_of_find?_eq_some hf) (h x.2)

theorem regSlot_listed {t : TableStore} {i : Nat} {y : Slot (Option RegEntry)} (hin : (i, y) ∈ t.register)
    (honly : ∀ x, (i, x) ∈ t.register → x = y) : t.regSlot i = y := by
  unfold TableStore.regSlot
  cases hf : t.register.find? fun x => x.1 = i with
  | none => exact absurd (decide_eq_true rfl) (List.find?_eq_none.mp hf (i, y) hin)
  | some x =>
    have hi : x.1 = i := of_decide_eq_true (List.find?_some (p := fun x : Nat × Slot (Option RegEntry) => decide (x.1 = i)) hf)
    exact honly x.2 (hi ▸ List.mem_of_find?_eq_some hf)

/-- The rows of R141 for one slot. -/
theorem regSlot_rows {t : TableStore} (h : t.register = storedRegister m) {i : Nat} (hi : i < 1024) :
    (registerAt m i = none → t.regSlot i = .fresh none) ∧ ∀ r, registerAt m i = some r →
      ((∃ j e, j < i ∧ registerAt m j = some e ∧ e.tag = r.tag) → t.regSlot i = .fresh none) ∧
      ((∀ j e, j < i → registerAt m j = some e → e.tag ≠ r.tag) → t.regSlot i = .fresh (some r)) := by
  refine ⟨fun hnone => regSlot_absent fun x hx => ?_, fun r hr => ⟨?_, fun hfirst => ?_⟩⟩
  · rw [h, mem_storedRegister, hnone] at hx
    obtain ⟨-, _, hsome, -⟩ := hx
    cases hsome
  · rintro ⟨j, e, hj, he, htag⟩
    refine regSlot_absent fun x hx => ?_
    rw [h, mem_storedRegister, hr] at hx
    obtain ⟨-, _, hsome, -, hfirst⟩ := hx
    cases hsome
    exact hfirst j e hj he htag
  · refine regSlot_listed ?_ fun x hx => ?_
    · rw [h, mem_storedRegister]
      exact ⟨hi, r, hr, rfl, hfirst⟩
    · rw [h, mem_storedRegister, hr] at hx
      obtain ⟨-, _, hsome, rfl, -⟩ := hx
      cases hsome
      rfl

/-! ## The tables together -/

theorem loadSettings_eq (t : TableStore) (image : Option SettingsImage) : t.loadSettings image =
    { t with settingsStaged := image.getD t.settingsStaged, settingsActive := image.getD t.settingsActive } := by
  cases image with
  | none => rfl
  | some i => rfl

/-- The tables as startup loads them. -/
def loadedTables (m : List Host.Cell) : TableStore :=
  { (TableStore.afterReset.loadClasses m).loadSettings ((readSlot m .settings 0).bind readSettingsRecord) with
    register := storedRegister m }

end

/-- A part whose tables are those that startup loads. -/
theorem restoresTables_of {s t : State} (h : t.tables = loadedTables s.mem)
    (hlane : ∀ l, (t.toPart.lane l).adoptedActive = true ∧
      (t.toPart.lane l).adoptedValid = ((readSlot s.mem .settings 0).bind readSettingsRecord).isSome) :
    s.restoresTables t := by
  unfold loadedTables at h
  rw [loadSettings_eq] at h
  have himage := fun rs crc => loadClasses_image (m := s.mem) TableStore.afterReset (rs := rs) (crc := crc)
  have hnone := loadClasses_none (m := s.mem) TableStore.afterReset
  have hregister := fun i (hi : i < 1024) => regSlot_rows (m := s.mem) (t := t.tables) (by rw [h]) hi
  obtain ⟨image, crc, hrest⟩ := loadClasses_rest (m := s.mem) TableStore.afterReset rfl
  unfold State.restoresTables
  rw [hrest] at himage hnone h
  refine ⟨fun rs crc hc => ?_, fun hc => ?_, ?_, ?_, ?_, ?_, ?_, ?_, hlane, hregister⟩
  · rw [h]
    exact himage rs crc hc
  · have hsame := hnone hc
    rw [h]
    exact ⟨congrArg TableStore.classActive hsame, congrArg TableStore.classCrc hsame⟩
  · rw [h]
  · rw [h]
    rfl
  · rw [h]
    rfl
  · rw [h]
    rfl
  · rw [h]
    rfl
  · rw [h]
    rfl

end Sys2Proof.Machine
end


section
/-! PROOFS. The last writes of startup (R160, R169, R179). -/

namespace Sys2Proof.Machine

/-! ## One write -/

/-- One of the last writes, where it is needed. -/
def lastWrite (w : Option (Nat × List Byte)) (fails : Bool) (b : Part × List Host.Cell) : Part × List Host.Cell :=
  if b.1.store.fault then b
  else
    match w with
    | none => b
    | some (a, bytes) =>
      if fails then
        (({ b.1 with fresh := b.1.fresh + 1 } : Part).modStore fun x => { x with fault := true },
         memWrite b.2 a (slotBytes b.1.fresh bytes.length))
      else (b.1, memWrite b.2 a bytes)

section
variable {w : Option (Nat × List Byte)} {fails : Bool} {b : Part × List Host.Cell} {a : Nat} {bytes : List Byte}

theorem lastWrite_fault (h : b.1.store.fault = true) : lastWrite w fails b = b := if_pos h

theorem lastWrite_none : lastWrite none fails b = b := ite_self _

theorem lastWrite_fails (h : b.1.store.fault = false) : lastWrite (some (a, bytes)) true b =
    (({ b.1 with fresh := b.1.fresh + 1 } : Part).modStore fun x => { x with fault := true },
      memWrite b.2 a (slotBytes b.1.fresh bytes.length)) := if_neg (Bool.eq_false_iff.mp h)

theorem lastWrite_done (h : b.1.store.fault = false) : lastWrite (some (a, bytes)) false b = (b.1, memWrite b.2 a bytes) :=
  if_neg (Bool.eq_false_iff.mp h)

theorem bootWrite_eq (k : SlotKind) (slot : Nat) : bootWrite k slot bytes fails b =
    lastWrite (some (k.address slot, bytes)) fails b := rfl

theorem bootMark_eq {m : List Host.Cell} {k : SlotKind} {n : Nat} (h : storedMark b.2 k = storedMark m k) :
    bootMark k n fails b =
      lastWrite (if storedMark m k = some n then none else some (k.address 0, markBytes k n)) fails b := by
  unfold bootMark
  rw [h]
  split
  case isTrue => exact lastWrite_none.symm
  case isFalse => rfl

theorem length_slotBytes (fresh n : Nat) : (slotBytes fresh n).length = n := by
  unfold slotBytes
  rw [List.length_map, List.length_range]

/-- Of the part a write changes the store fault and the choices of free bytes at most. -/
theorem lastWrite_part : ∃ n x, (lastWrite w fails b).1 = { b.1 with fresh := n, store := { b.1.store with fault := x } } := by
  cases hfault : b.1.store.fault with
  | true =>
    rw [lastWrite_fault hfault]
    exact ⟨b.1.fresh, b.1.store.fault, rfl⟩
  | false =>
    cases w with
    | none =>
      rw [lastWrite_none]
      exact ⟨b.1.fresh, b.1.store.fault, rfl⟩
    | some y =>
      cases fails with
      | true =>
        rw [lastWrite_fails hfault]
        exact ⟨b.1.fresh + 1, true, rfl⟩
      | false =>
        rw [lastWrite_done hfault]
        exact ⟨b.1.fresh, b.1.store.fault, rfl⟩

/-- Of the memory a write changes the bytes of its record at most. -/
theorem lastWrite_memory : (lastWrite w fails b).2 = b.2 ∨
    ∃ a bytes xs, w = some (a, bytes) ∧ xs.length = bytes.length ∧ (lastWrite w fails b).2 = memWrite b.2 a xs := by
  cases hfault : b.1.store.fault with
  | true =>
    rw [lastWrite_fault hfault]
    exact .inl rfl
  | false =>
    cases w with
    | none =>
      rw [lastWrite_none]
      exact .inl rfl
    | some y =>
      obtain ⟨a, bytes⟩ := y
      cases fails with
      | true =>
        rw [lastWrite_fails hfault]
        exact .inr ⟨a, bytes, _, rfl, length_slotBytes _ _, rfl⟩
      | false =>
        rw [lastWrite_done hfault]
        exact .inr ⟨a, bytes, bytes, rfl, rfl, rfl⟩

theorem lastWrite_outside {x : Nat} (h : ∀ a bytes, w = some (a, bytes) → x < a ∨ a + bytes.length ≤ x) :
    memRead (lastWrite w fails b).2 x = memRead b.2 x := by
  rcases lastWrite_memory (w := w) (fails := fails) (b := b) with hsame | ⟨a, bytes, xs, hw, hlen, hmem⟩
  · rw [hsame]
  · rw [hmem]
    exact memRead_memWrite_outside b.2 a xs x (hlen ▸ h a bytes hw)

theorem lastWrite_apart {k : SlotKind} {i : Nat}
    (h : ∀ a bytes, w = some (a, bytes) → k.address i + k.size ≤ a ∨ a + bytes.length ≤ k.address i) :
    readSlot (lastWrite w fails b).2 k i = readSlot b.2 k i := by
  rcases lastWrite_memory (w := w) (fails := fails) (b := b) with hsame | ⟨a, bytes, xs, hw, hlen, hmem⟩
  · rw [hsame]
  · rw [hmem]
    exact readSlot_memWrite_apart b.2 a xs k i (hlen ▸ h a bytes hw)

end

/-! ## The writes in turn -/

/-- The last writes in turn, with those that fail. -/
def lastWritesRun (fails : Nat → Bool) : List (Option (Nat × List Byte)) → Part × List Host.Cell → Part × List Host.Cell
  | [], b => b
  | w :: ws, b => lastWritesRun (fun i => fails (i + 1)) ws (lastWrite w (fails 0) b)

/-- The write `i` is needed, and fails where it is made. -/
def failsAt (fails : Nat → Bool) (ws : List (Option (Nat × List Byte))) (i : Nat) : Prop :=
  fails i = true ∧ (ws[i]?).join ≠ none

/-- No write before `i` fails. -/
def reaches (fails : Nat → Bool) (ws : List (Option (Nat × List Byte))) (i : Nat) : Prop := ∀ j, j < i → ¬ failsAt fails ws j

/-- The two records have no byte in common. -/
def writesApart (w v : Option (Nat × List Byte)) : Prop := ∀ a bytes c ds, w = some (a, bytes) → v = some (c, ds) →
  a + bytes.length ≤ c ∨ c + ds.length ≤ a

/-- What the last writes leave, from no store fault on (R169, R179). -/
structure LastWritten (fails : Nat → Bool) (ws : List (Option (Nat × List Byte))) (m : List Host.Cell)
    (r : Part × List Host.Cell) : Prop where
  fault : r.1.store.fault = true ↔ ∃ i, failsAt fails ws i
  stands : ∀ i a bytes, ws[i]? = some (some (a, bytes)) → reaches fails ws i → ¬ failsAt fails ws i →
    memBytes r.2 a bytes.length = bytes
  outside : ∀ x, (∀ i a bytes, ws[i]? = some (some (a, bytes)) → reaches fails ws i → x < a ∨ a + bytes.length ≤ x) →
    memRead r.2 x = memRead m x

section
variable {fails : Nat → Bool} {w : Option (Nat × List Byte)} {ws : List (Option (Nat × List Byte))}

theorem reaches_zero : reaches fails ws 0 := fun j hj => absurd hj (Nat.not_lt_zero j)

theorem reaches_succ {i : Nat} (h : ¬ failsAt fails (w :: ws) 0) :
    reaches fails (w :: ws) (i + 1) ↔ reaches (fun i => fails (i + 1)) ws i := by
  constructor
  · exact fun hr j hj => hr (j + 1) (Nat.succ_lt_succ hj)
  · intro hr j hj
    cases j with
    | zero => exact h
    | succ j => exact hr j (Nat.lt_of_succ_lt_succ hj)

/-- The bytes apart from every write of the list read as before. -/
theorem LastWritten.apart {m : List Host.Cell} {r : Part × List Host.Cell} (h : LastWritten fails ws m r) {x n : Nat}
    (hapart : ∀ c ds, some (c, ds) ∈ ws → x + n ≤ c ∨ c + ds.length ≤ x) : memBytes r.2 x n = memBytes m x n := by
  rw [memBytes_eq_map, memBytes_eq_map]
  refine List.map_congr_left fun j hj => h.outside _ fun i c ds hi _ => ?_
  have hj := List.mem_range.mp hj
  rcases hapart c ds (List.mem_of_getElem? hi) with hbefore | hafter
  · exact .inl (by omega)
  · exact .inr (by omega)

theorem lastWritesRun_fault : ∀ {fails : Nat → Bool} {ws : List (Option (Nat × List Byte))} {b : Part × List Host.Cell},
    b.1.store.fault = true → lastWritesRun fails ws b = b
  | _, [], _, _ => rfl
  | _, w :: ws, b, h => by
    unfold lastWritesRun
    rw [lastWrite_fault h, lastWritesRun_fault h]

theorem lastWritesRun_part : ∀ {fails : Nat → Bool} {ws : List (Option (Nat × List Byte))} {b : Part × List Host.Cell},
    ∃ n x, (lastWritesRun fails ws b).1 = { b.1 with fresh := n, store := { b.1.store with fault := x } }
  | _, [], b => ⟨b.1.fresh, b.1.store.fault, rfl⟩
  | fails, w :: ws, b => by
    obtain ⟨n, x, hrest⟩ := lastWritesRun_part (fails := fun i => fails (i + 1)) (ws := ws) (b := lastWrite w (fails 0) b)
    obtain ⟨n', x', hstep⟩ := lastWrite_part (w := w) (fails := fails 0) (b := b)
    refine ⟨n, x, ?_⟩
    unfold lastWritesRun
    rw [hrest, hstep]

end

/-- A write that fails is the last one that is made. -/
theorem lastWritten_failed {fails : Nat → Bool} {ws : List (Option (Nat × List Byte))} {b : Part × List Host.Cell} {a : Nat}
    {bytes : List Byte} (h : b.1.store.fault = false) (hfails : fails 0 = true) :
    LastWritten fails (some (a, bytes) :: ws) b.2 (lastWritesRun fails (some (a, bytes) :: ws) b) := by
  have hfirst : failsAt fails (some (a, bytes) :: ws) 0 := ⟨hfails, (fun hc => nomatch hc)⟩
  have hrun : lastWritesRun fails (some (a, bytes) :: ws) b = lastWrite (some (a, bytes)) true b := by
    unfold lastWritesRun
    rw [hfails, lastWritesRun_fault (by rw [lastWrite_fails h]; rfl)]
  rw [hrun]
  refine ⟨⟨fun _ => ⟨0, hfirst⟩, fun _ => by rw [lastWrite_fails h]; rfl⟩, fun i c ds _ hr hn => ?_, fun x hx => ?_⟩
  · cases i with
    | zero => exact absurd hfirst hn
    | succ i => exact absurd hfirst (hr 0 (Nat.succ_pos i))
  · refine lastWrite_outside fun c ds heq => ?_
    exact hx 0 c ds (congrArg some heq) reaches_zero

/-- A write that is not needed, or does not fail, and then the others. -/
theorem lastWritten_cons {fails : Nat → Bool} {w : Option (Nat × List Byte)} {ws : List (Option (Nat × List Byte))}
    {b r : Part × List Host.Cell} (h : b.1.store.fault = false) (hfirst : ¬ failsAt fails (w :: ws) 0)
    (hapart : ∀ v ∈ ws, writesApart w v) (hbound : ∀ a bytes, w = some (a, bytes) → a + bytes.length ≤ memSize)
    (hrest : LastWritten (fun i => fails (i + 1)) ws (lastWrite w (fails 0) b).2 r) : LastWritten fails (w :: ws) b.2 r := by
  refine ⟨hrest.fault.trans ⟨fun ⟨i, hi⟩ => ⟨i + 1, hi⟩, ?_⟩, fun i a bytes hi hr hn => ?_, fun x hx => ?_⟩
  · rintro ⟨i, hi⟩
    cases i with
    | zero => exact absurd hi hfirst
    | succ i => exact ⟨i, hi⟩
  · cases i with
    | zero =>
      have hw : w = some (a, bytes) := Option.some.inj hi
      have hdone : fails 0 = false := Bool.eq_false_iff.mpr fun hc => hfirst ⟨hc, by rw [hw]; exact (fun hc => nomatch hc)⟩
      rw [hrest.apart fun c ds hv => hapart _ hv a bytes c ds hw rfl, hw, hdone, lastWrite_done h]
      exact memBytes_memWrite_self b.2 a bytes (hbound a bytes hw)
    | succ i => exact hrest.stands i a bytes hi ((reaches_succ hfirst).mp hr) hn
  · rw [hrest.outside x fun i a bytes hi hr => hx (i + 1) a bytes hi ((reaches_succ hfirst).mpr hr)]
    exact lastWrite_outside fun a bytes heq => hx 0 a bytes (congrArg some heq) reaches_zero

theorem lastWritten_run : ∀ (fails : Nat → Bool) (ws : List (Option (Nat × List Byte))) (b : Part × List Host.Cell),
    b.1.store.fault = false → ws.Pairwise writesApart →
    (∀ w ∈ ws, ∀ a bytes, w = some (a, bytes) → a + bytes.length ≤ memSize) →
    LastWritten fails ws b.2 (lastWritesRun fails ws b)
  | fails, [], b, h, _, _ => by
    refine ⟨⟨fun hc => ?_, fun ⟨i, hi⟩ => absurd rfl hi.2⟩, fun i a bytes hi => (nomatch hi), fun x _ => rfl⟩
    rw [show (lastWritesRun fails [] b).1 = b.1 from rfl, h] at hc
    cases hc
  | fails, w :: ws, b, h, hapart, hbound => by
    obtain ⟨hw, hws⟩ := List.pairwise_cons.mp hapart
    have hstep (hn : ¬ failsAt fails (w :: ws) 0) (hfault : (lastWrite w (fails 0) b).1.store.fault = false) :
        LastWritten fails (w :: ws) b.2 (lastWritesRun fails (w :: ws) b) :=
      lastWritten_cons h hn hw (hbound w List.mem_cons_self)
        (lastWritten_run _ ws _ hfault hws fun v hv => hbound v (List.mem_cons_of_mem w hv))
    cases w with
    | none => exact hstep (fun hc => hc.2 rfl) (by rw [lastWrite_none]; exact h)
    | some y =>
      cases hfails : fails 0 with
      | true => exact lastWritten_failed h hfails
      | false => exact hstep (fun hc => absurd hc.1 (Bool.eq_false_iff.mp hfails)) (by rw [hfails, lastWrite_done h]; exact h)

end Sys2Proof.Machine
end


section
/-! PROOFS. What startup restores, and the writes that follow (R176, R179). -/

namespace Sys2Proof.Machine

/-! ## Stages 1 to 5 -/

theorem renumber_rest (p : Part) : p.renumber = { p with pairing := p.renumber.pairing } := by
  by_cases h : p.pairing.nextCreation ≤ creationLimit
  · rw [show p.renumber = p from if_pos h]
  · obtain ⟨-, ⟨slots, n, dirty, hrest⟩, -⟩ := renumber_facts p (Nat.not_le.mp h)
    rw [hrest]
    rfl

/-- Changes of the pairing unit alone, one after the other. -/
theorem pairing_alone {p q r : Part} (hq : q = { p with pairing := q.pairing }) (hr : r = { q with pairing := r.pairing }) :
    r = { p with pairing := r.pairing } := hr.trans (congrArg (fun x : Part => { x with pairing := r.pairing }) hq)

theorem setList_rest (p : Part) (slots : Vector (Option PendingEntry) 64) (next loss : Nat) (dirty : List Nat) :
    p.setList slots next loss dirty = { p with pairing := (p.setList slots next loss dirty).pairing } := rfl

theorem restorePending_rest {p : Part} (h : p.pairing.dirty = []) (m : List Host.Cell) (tickets : List Ticket) :
    p.restorePending m tickets = { p with pairing := (p.restorePending m tickets).pairing } := by
  rw [restorePending_eq h]
  exact pairing_alone (setList_rest p _ _ _ _) (renumber_rest _)

/-- The ticket store and the trail take their numbers. -/
def Part.numbered (p : Part) (t r : Nat × Nat) : Part :=
  (p.modTickets fun x => { x with nextSerial := t.1, oldestUnread := t.2 }).modTrail fun x =>
    { x with nextSeq := r.1, oldest := r.2 }

theorem restore_eq (s : State) : s.toPart.restore s.mem =
    (allDecks.foldl (Part.restoreDeck s.mem ((scanSlots s.mem .trail readTrail).map (·.2)))
      ((s.toPart.numbered s.restoredTickets s.restoredTrail).restorePending s.mem
        ((scanSlots s.mem .ticket readTicket).map (·.2)))).loadTables s.mem := by
  unfold Part.restore Part.numbered State.restoredTickets State.restoredTrail
  with_reducible rfl

/-- The lane has read the settings image, or the default one stands in. -/
def Lane.takesImage (x : Lane) (valid : Bool) : Lane := { x with adoptedValid := valid }

theorem loadTables_rest (p : Part) (m : List Host.Cell) : ∃ lanes tables, p.loadTables m =
    { p with lanes := lanes, tables := tables } := ⟨_, _, rfl⟩

theorem loadTables_tables (p : Part) (m : List Host.Cell) : (p.loadTables m).tables =
    { (p.tables.loadClasses m).loadSettings ((readSlot m .settings 0).bind readSettingsRecord) with
      register := storedRegister m } := rfl

theorem loadTables_lane (p : Part) (m : List Host.Cell) (l : LaneId) : (p.loadTables m).lane l =
    (p.lane l).takesImage ((readSlot m .settings 0).bind readSettingsRecord).isSome := by
  cases l with
  | l0 => rfl
  | l1 => rfl

/-- The units that no stage of the restoration reaches. -/
def Part.idleUnits (p : Part) : Phase × ResetCause × Clock × Link := (p.phase, p.cause, p.clock, p.link)

/-- What stands before the last writes. -/
structure State.Restored (s : State) (q : Part) : Prop where
  idle : q.idleUnits = s.toPart.idleUnits
  tickets : q.tickets = { s.tickets with nextSerial := s.restoredTickets.1, oldestUnread := s.restoredTickets.2 }
  audit : q.audit = { s.audit with
    trail := { s.audit.trail with nextSeq := s.restoredTrail.1, oldest := s.restoredTrail.2 } }
  pairing : ∃ p : Part, p.pairing = s.pairing ∧
    q.pairing = (p.restorePending s.mem ((scanSlots s.mem .ticket readTicket).map (·.2))).pairing
  deck : ∀ d, q.deck d = restoredDeck s.mem ((scanSlots s.mem .trail readTrail).map (·.2)) d
  queue : q.store.tableQueue =
    (allDecks.filter (imageBehind s.mem ((scanSlots s.mem .trail readTrail).map (·.2)))).map .image
  fault : q.store.fault = s.store.fault
  tables : q.tables = loadedTables s.mem
  lane : ∀ l, q.lane l = (s.toPart.lane l).takesImage ((readSlot s.mem .settings 0).bind readSettingsRecord).isSome

theorem allDecks_sorted : allDecks.Pairwise (· < ·) := by decide

theorem mem_allDecks : ∀ d : DeckId, d ∈ allDecks := by decide

theorem numbered_same (p : Part) (t r : Nat × Nat) : (p.numbered t r).idleUnits = p.idleUnits ∧
    (p.numbered t r).decks = p.decks ∧ (p.numbered t r).lanes = p.lanes ∧ (p.numbered t r).pairing = p.pairing ∧
    (p.numbered t r).tables = p.tables ∧ (p.numbered t r).store = p.store := ⟨rfl, rfl, rfl, rfl, rfl, rfl⟩

theorem numbered_numbers (p : Part) (t r : Nat × Nat) :
    (p.numbered t r).tickets = { p.tickets with nextSerial := t.1, oldestUnread := t.2 } ∧
    (p.numbered t r).audit = { p.audit with trail := { p.audit.trail with nextSeq := r.1, oldest := r.2 } } := ⟨rfl, rfl⟩

theorem pairing_same {p q : Part} {x : Pairing} (h : q = { p with pairing := x }) : q.idleUnits = p.idleUnits ∧
    q.decks = p.decks ∧ q.lanes = p.lanes ∧ q.tickets = p.tickets ∧ q.tables = p.tables ∧ q.audit = p.audit ∧
    q.store = p.store := by
  subst h
  exact ⟨rfl, rfl, rfl, rfl, rfl, rfl, rfl⟩

theorem decksRestored_same {p q : Part} {m : List Host.Cell} {trail : List TrailRecord} {ds : List DeckId}
    (h : p.DecksRestored m trail ds q) : q.idleUnits = p.idleUnits ∧ q.lanes = p.lanes ∧ q.pairing = p.pairing ∧
    q.tickets = p.tickets ∧ q.tables = p.tables ∧ q.audit = p.audit ∧ q.store.fault = p.store.fault := by
  rw [h.rest]
  exact ⟨rfl, rfl, rfl, rfl, rfl, rfl, rfl⟩

theorem loadTables_same (p : Part) (m : List Host.Cell) : (p.loadTables m).idleUnits = p.idleUnits ∧
    (p.loadTables m).decks = p.decks ∧ (p.loadTables m).pairing = p.pairing ∧ (p.loadTables m).tickets = p.tickets ∧
    (p.loadTables m).audit = p.audit ∧ (p.loadTables m).store = p.store := by
  obtain ⟨lanes, tables, hload⟩ := loadTables_rest p m
  rw [hload]
  exact ⟨rfl, rfl, rfl, rfl, rfl, rfl⟩

theorem deck_of_decks {p q : Part} (h : q.decks = p.decks) (d : DeckId) : q.deck d = p.deck d := by
  unfold Part.deck
  rw [h]

theorem lane_of_lanes {p q : Part} (h : q.lanes = p.lanes) (l : LaneId) : q.lane l = p.lane l := by
  unfold Part.lane
  rw [h]

/-- Stages 3 to 5, from the numbers that the scans found. -/
structure Part.Reloads (p : Part) (m : List Host.Cell) (trail : List TrailRecord) (tickets : List Ticket) (q : Part) : Prop where
  idle : q.idleUnits = p.idleUnits
  serials : q.tickets = p.tickets
  sequence : q.audit = p.audit
  pairing : q.pairing = (p.restorePending m tickets).pairing
  deck : ∀ d, q.deck d = restoredDeck m trail d
  queue : q.store.tableQueue = (allDecks.filter (imageBehind m trail)).map .image
  fault : q.store.fault = p.store.fault
  tables : q.tables = loadedTables m
  lane : ∀ l, q.lane l = (p.lane l).takesImage ((readSlot m .settings 0).bind readSettingsRecord).isSome

theorem reloads {p : Part} (hstore : p.store = Store.afterReset) (hpairing : p.pairing = Pairing.afterReset)
    (htables : p.tables = TableStore.afterReset) (hdecks : ∀ d : DeckId, p.deck d = Deck.afterReset) (m : List Host.Cell)
    (trail : List TrailRecord) (tickets : List Ticket) : p.Reloads m trail tickets
      ((allDecks.foldl (Part.restoreDeck m trail) (p.restorePending m tickets)).loadTables m) := by
  have hclean : p.pairing.dirty = [] := by
    rw [hpairing]
    rfl
  obtain ⟨ridle, rdecks, rlanes, rtickets, rtables, raudit, rstore⟩ := pairing_same (restorePending_rest hclean m tickets)
  generalize hr : p.restorePending m tickets = r at *
  rw [hstore] at rstore
  have hdone := restoreDecks_facts m trail allDecks r allDecks_sorted
    (fun d _ => (deck_of_decks rdecks d).trans (hdecks d)) (fun d _ hin => by rw [rstore] at hin; cases hin)
    (fun d _ e he => by rw [rstore] at he; cases he)
  obtain ⟨didle, dlanes, dpairing, dtickets, dtables, daudit, dfault⟩ := decksRestored_same hdone
  generalize allDecks.foldl (Part.restoreDeck m trail) r = q at *
  obtain ⟨lidle, ldecks, lpairing, ltickets, laudit, lstore⟩ := loadTables_same q m
  refine ⟨?_, ?_, ?_, ?_, fun d => ?_, ?_, ?_, ?_, fun l => ?_⟩
  · rw [lidle, didle, ridle]
  · rw [ltickets, dtickets, rtickets]
  · rw [laudit, daudit, raudit]
  · rw [lpairing, dpairing, hr]
  · rw [deck_of_decks ldecks, hdone.deck, if_pos (mem_allDecks d)]
  · rw [lstore, hdone.queue, rstore]
    rfl
  · rw [lstore, dfault, rstore, hstore]
  · rw [loadTables_tables, dtables, rtables, htables]
    rfl
  · rw [loadTables_lane, lane_of_lanes dlanes, lane_of_lanes rlanes]

theorem restore_restored {s : State} (hstore : s.store = Store.afterReset) (hpairing : s.pairing = Pairing.afterReset)
    (htables : s.tables = TableStore.afterReset) (hdecks : ∀ d : DeckId, s.toPart.deck d = Deck.afterReset) :
    s.Restored (s.toPart.restore s.mem) := by
  obtain ⟨nidle, ndecks, nlanes, npairing, ntables, nstore⟩ := numbered_same s.toPart s.restoredTickets s.restoredTrail
  obtain ⟨nserials, nsequence⟩ := numbered_numbers s.toPart s.restoredTickets s.restoredTrail
  have h := reloads (nstore.trans hstore) (npairing.trans hpairing) (ntables.trans htables)
    (fun d => (deck_of_decks ndecks d).trans (hdecks d)) s.mem ((scanSlots s.mem .trail readTrail).map (·.2))
    ((scanSlots s.mem .ticket readTicket).map (·.2))
  rw [restore_eq]
  generalize Part.loadTables _ s.mem = q at h ⊢
  refine ⟨h.idle.trans nidle, h.serials.trans nserials, h.sequence.trans nsequence, ⟨_, npairing, h.pairing⟩, h.deck,
    h.queue, ?_, h.tables, fun l => ?_⟩
  · rw [h.fault, nstore]
  · rw [h.lane, lane_of_lanes nlanes]

/-! ## The last writes -/

theorem length_markBytes {k : SlotKind} (n : Nat) (h : 10 ≤ k.size) : (markBytes k n).length = k.size :=
  length_sealRecord (Nat.le_trans (by decide) h) (by rw [length_leBytes]; omega)

/-- The RESTART record of startup. -/
def State.restartRecord (s : State) : TrailRecord := s.toPart.restartRecord (startupCounts s.mem)

theorem length_restartBytes (s : State) (n : Nat) : (trailBytes n s.restartRecord).length = 64 := by
  refine length_sealRecord (by decide) ?_
  simp [State.restartRecord, Part.restartRecord, TrailBody.bytes, timeField, SlotKind.size]

/-- The needed write keeps within these addresses. -/
def writesWithin (w : Option (Nat × List Byte)) (low high : Nat) : Prop :=
  ∀ a bytes, w = some (a, bytes) → low ≤ a ∧ a + bytes.length ≤ high

theorem writesWithin_if {c : Prop} [Decidable c] {a low high : Nat} {bytes : List Byte} (hlow : low ≤ a)
    (hhigh : a + bytes.length ≤ high) : writesWithin (if c then none else some (a, bytes)) low high := by
  intro b ds h
  split at h
  · cases h
  · cases h
    exact ⟨hlow, hhigh⟩

theorem writesApart_of {w v : Option (Nat × List Byte)} {a b c d : Nat} (hw : writesWithin w a b) (hv : writesWithin v c d)
    (h : b ≤ c) : writesApart w v := fun x xs y ys hx hy =>
  .inl (Nat.le_trans (hw x xs hx).2 (Nat.le_trans h (hv y ys hy).1))

/-- The read mark of this region, where it is needed. -/
def State.markWrite (s : State) (k : SlotKind) (n : Nat) : Option (Nat × List Byte) :=
  if storedMark s.mem k = some n then none else some (k.address 0, markBytes k n)

/-- The RESTART record, where the trail takes it. -/
def State.restartWrite (s : State) : Option (Nat × List Byte) :=
  if 1024 ≤ s.restoredTrail.1 - s.restoredTrail.2 ∨ 4294967295 < s.restoredTrail.1 then none
  else some (SlotKind.trail.address ((s.restoredTrail.1 - 1) % 1024), trailBytes s.restoredTrail.1 s.restartRecord)

theorem lastWrites_eq (s : State) : s.lastWrites =
    [s.markWrite .ticketMark s.restoredTickets.2, s.markWrite .trailMark s.restoredTrail.2, s.restartWrite] := rfl

section
variable (s : State)

theorem State.ticketMark_within (n : Nat) : writesWithin (s.markWrite .ticketMark n) 0 64 :=
  writesWithin_if (Nat.zero_le _) (by rw [length_markBytes n (by decide)]; decide)

theorem State.trailMark_within (n : Nat) : writesWithin (s.markWrite .trailMark n) 64 128 :=
  writesWithin_if (by decide) (by rw [length_markBytes n (by decide)]; decide)

theorem State.restart_within : writesWithin s.restartWrite 0x50400 0x60400 := by
  have haddress : SlotKind.trail.address ((s.restoredTrail.1 - 1) % 1024) =
    0x50400 + 64 * ((s.restoredTrail.1 - 1) % 1024 % 1024) := rfl
  refine writesWithin_if ?_ ?_
  · rw [haddress]
    omega
  · rw [haddress, length_restartBytes]
    omega

theorem lastWrites_apart : s.lastWrites.Pairwise writesApart := by
  have h01 := writesApart_of (s.ticketMark_within s.restoredTickets.2) (s.trailMark_within s.restoredTrail.2) (by decide)
  have h02 := writesApart_of (s.ticketMark_within s.restoredTickets.2) s.restart_within (by decide)
  have h12 := writesApart_of (s.trailMark_within s.restoredTrail.2) s.restart_within (by decide)
  rw [lastWrites_eq]
  simp [h01, h02, h12]

theorem lastWrites_bound : ∀ w ∈ s.lastWrites, ∀ a bytes, w = some (a, bytes) → a + bytes.length ≤ memSize := by
  have hbelow {w : Option (Nat × List Byte)} {low high : Nat} (h : writesWithin w low high) (hhigh : high ≤ memSize) :
      ∀ a bytes, w = some (a, bytes) → a + bytes.length ≤ memSize := fun a bytes hw => Nat.le_trans (h a bytes hw).2 hhigh
  rw [lastWrites_eq]
  refine List.forall_mem_cons.mpr ⟨hbelow (s.ticketMark_within _) (by decide), List.forall_mem_cons.mpr
    ⟨hbelow (s.trailMark_within _) (by decide), List.forall_mem_cons.mpr ⟨hbelow s.restart_within (by decide), ?_⟩⟩⟩
  exact fun w hw => nomatch hw

/-- Which of the last writes fails. -/
def failing (failed : Option (Fin 3)) (i : Nat) : Bool := decide (failed.map (·.val) = some i)

theorem failing_eq : ∀ failed : Option (Fin 3), (failed == some 0) = failing failed 0 ∧ (failed == some 1) = failing failed 1 ∧
    (failed == some 2) = failing failed 2 := by decide

end

/-- The trail after the third write (log 15). -/
def Trail.restarts (x : Trail) (fault : Bool) : Trail :=
  if 1024 ≤ x.nextSeq - x.oldest ∨ 4294967295 < x.nextSeq then { x with gap := 1 }
  else if fault then x
  else { x with nextSeq := x.nextSeq + 1 }

theorem modTrail_congr {p : Part} {f g : Trail → Trail} (h : f p.audit.trail = g p.audit.trail) : p.modTrail f = p.modTrail g := by
  unfold Part.modTrail Part.modAudit
  dsimp only
  rw [h]

theorem modTrail_same {p : Part} {f : Trail → Trail} (h : f p.audit.trail = p.audit.trail) : p.modTrail f = p := by
  unfold Part.modTrail Part.modAudit
  dsimp only
  rw [h]

/-- The third write, with what it makes of the trail. -/
theorem bootRestart_eq {c : StartupCounts} {fails : Bool} {b : Part × List Host.Cell} {x : Trail} (hx : b.1.audit.trail = x)
    (h : x.staging = []) : bootRestart c fails b =
      let w := if 1024 ≤ x.nextSeq - x.oldest ∨ 4294967295 < x.nextSeq then none
        else some (SlotKind.trail.address ((x.nextSeq - 1) % 1024), trailBytes x.nextSeq (b.1.restartRecord c))
      let r := lastWrite w fails b
      (r.1.modTrail fun x => x.restarts r.1.store.fault, r.2) := by
  have hfree : x.free = 0 ↔ 1024 ≤ x.nextSeq - x.oldest := by
    unfold Trail.free Trail.unacknowledged
    rw [h, List.length_nil]
    omega
  have hclosed : (x.free = 0 ∨ serialLimit < x.nextSeq) ↔ 1024 ≤ x.nextSeq - x.oldest ∨ 4294967295 < x.nextSeq :=
    or_congr hfree Iff.rfl
  have hkeeps : ∀ w, (lastWrite w fails b).1.audit.trail = x := fun w => by
    obtain ⟨n, y, hrest⟩ := lastWrite_part (w := w) (fails := fails) (b := b)
    rw [hrest]
    exact hx
  unfold bootRestart
  dsimp only
  rw [hx]
  by_cases hfull : 1024 ≤ x.nextSeq - x.oldest ∨ 4294967295 < x.nextSeq
  · rw [if_pos (hclosed.mpr hfull), if_pos hfull, lastWrite_none]
    refine congrArg (·, b.2) (modTrail_congr ?_)
    rw [hx]
    exact (if_pos hfull).symm
  · rw [if_neg (hclosed.not.mpr hfull), if_neg hfull, bootWrite_eq]
    have htrail := hkeeps (some (SlotKind.trail.address ((x.nextSeq - 1) % 1024), trailBytes x.nextSeq (b.1.restartRecord c)))
    rw [show ringSlot .trail x.nextSeq = (x.nextSeq - 1) % 1024 from rfl]
    generalize lastWrite _ fails b = r at htrail ⊢
    cases hfault : r.1.store.fault with
    | true =>
      rw [if_pos rfl]
      refine Prod.ext (modTrail_same ?_).symm rfl
      rw [htrail]
      exact if_neg hfull
    | false =>
      rw [if_neg Bool.false_ne_true]
      refine congrArg (·, r.2) (modTrail_congr ?_)
      rw [htrail]
      exact ((if_neg hfull).trans (if_neg Bool.false_ne_true)).symm

end Sys2Proof.Machine
end


section
/-! PROOFS. Startup up to its end: the restored units and the last writes together (R160, R169, R176, R179). -/

namespace Sys2Proof.Machine

section
variable {s : State} {q : Part} {failed : Option (Fin 3)}

/-- The part and the memory after the last writes. -/
def State.lastWritten (s : State) (failed : Option (Fin 3)) : Part × List Host.Cell :=
  lastWritesRun (failing failed) s.lastWrites (s.toPart.restore s.mem, s.mem)

/-- The two read marks, in turn. -/
theorem bootMarks_eq (h : s.Restored q) :
    bootMark .trailMark q.audit.trail.oldest (failed == some 1)
      (bootMark .ticketMark q.tickets.oldestUnread (failed == some 0) (q, s.mem)) =
    lastWrite (s.markWrite .trailMark s.restoredTrail.2) (failing failed 1)
      (lastWrite (s.markWrite .ticketMark s.restoredTickets.2) (failing failed 0) (q, s.mem)) := by
  obtain ⟨h0, h1, -⟩ := failing_eq failed
  have hunread : q.tickets.oldestUnread = s.restoredTickets.2 := by rw [h.tickets]
  have holdest : q.audit.trail.oldest = s.restoredTrail.2 := by rw [h.audit]
  rw [hunread, holdest, h0, h1, bootMark_eq (m := s.mem) (k := .ticketMark) rfl]
  refine bootMark_eq ?_
  have hslot := lastWrite_apart (w := s.markWrite .ticketMark s.restoredTickets.2) (fails := failing failed 0)
    (b := (q, s.mem)) (k := .trailMark) (i := 0) fun a bytes hw => .inr (s.ticketMark_within _ a bytes hw).2
  exact congrArg (Option.map readMark) hslot

theorem restartRecord_eq {b : Part} (h : s.Restored q) {n : Nat} {x : Bool}
    (hb : b = { q with fresh := n, store := { q.store with fault := x } }) :
    b.restartRecord (startupCounts s.mem) = s.restartRecord := by
  obtain ⟨-, hrest⟩ := Prod.mk.inj h.idle
  obtain ⟨hcause, hrest⟩ := Prod.mk.inj hrest
  obtain ⟨hclock, -⟩ := Prod.mk.inj hrest
  unfold State.restartRecord Part.restartRecord Part.siteTime
  rw [hb]
  dsimp only
  rw [hcause, hclock]

theorem boot_eq (h : s.Restored (s.toPart.restore s.mem)) (hstaging : s.audit.trail.staging = []) :
    boot failed s.toPart s.mem =
      ((((s.lastWritten failed).1.modTrail fun x => x.restarts (s.lastWritten failed).1.store.fault).finishStartup
        (startupCounts s.mem)).finish, (s.lastWritten failed).2) := by
  unfold State.lastWritten boot
  dsimp only
  generalize s.toPart.restore s.mem = q at *
  rw [bootMarks_eq h, (failing_eq failed).2.2]
  have hpart := lastWritesRun_part (fails := failing failed)
    (ws := [s.markWrite .ticketMark s.restoredTickets.2, s.markWrite .trailMark s.restoredTrail.2]) (b := (q, s.mem))
  obtain ⟨n, x, hb⟩ := hpart
  have htrail : q.audit.trail.nextSeq = s.restoredTrail.1 ∧ q.audit.trail.oldest = s.restoredTrail.2 ∧
      q.audit.trail.staging = [] := by
    rw [h.audit]
    dsimp only
    exact ⟨rfl, rfl, hstaging⟩
  have hrun : lastWritesRun (failing failed) s.lastWrites (q, s.mem) =
      lastWrite s.restartWrite (failing failed 2)
        (lastWritesRun (failing failed) [s.markWrite .ticketMark s.restoredTickets.2, s.markWrite .trailMark s.restoredTrail.2]
          (q, s.mem)) := rfl
  have hmarks : lastWrite (s.markWrite .trailMark s.restoredTrail.2) (failing failed 1)
      (lastWrite (s.markWrite .ticketMark s.restoredTickets.2) (failing failed 0) (q, s.mem)) =
      lastWritesRun (failing failed) [s.markWrite .ticketMark s.restoredTickets.2, s.markWrite .trailMark s.restoredTrail.2]
        (q, s.mem) := rfl
  rw [hrun, hmarks]
  generalize lastWritesRun (failing failed) [_, _] (q, s.mem) = b at hb ⊢
  have hbtrail : b.1.audit.trail = q.audit.trail := by rw [hb]
  rw [bootRestart_eq hbtrail htrail.2.2]
  dsimp only
  rw [htrail.1, htrail.2.1, restartRecord_eq h hb]
  rfl

theorem written_lastWritten (h : s.Restored (s.toPart.restore s.mem)) (hfault : s.store.fault = false) :
    LastWritten (failing failed) s.lastWrites s.mem (s.lastWritten failed) := by
  unfold State.lastWritten
  exact lastWritten_run (failing failed) s.lastWrites (s.toPart.restore s.mem, s.mem)
    (h.fault.trans hfault)
    (lastWrites_apart s) (lastWrites_bound s)

theorem failsAt_failing (ws : List (Option (Nat × List Byte))) (i : Nat) :
    failsAt (failing failed) ws i ↔ failed.map (·.val) = some i ∧ (ws[i]?).join ≠ none :=
  and_congr_left fun _ => decide_eq_true_iff

theorem restoresMemory_of {t : State} {r : Part × List Host.Cell} (h : LastWritten (failing failed) s.lastWrites s.mem r)
    (hmem : t.mem = r.2) (hfault : t.store.fault = r.1.store.fault) : s.restoresMemory failed t := by
  have hfails : failsAt (failing failed) s.lastWrites =
      fun i => failed.map (·.val) = some i ∧ (s.lastWrites[i]?).join ≠ none :=
    funext fun i => propext (failsAt_failing s.lastWrites i)
  obtain ⟨hstop, hstands, houtside⟩ := h
  unfold reaches at hstands houtside
  rw [hfails] at hstop hstands houtside
  unfold State.restoresMemory
  rw [hmem, hfault]
  exact ⟨hstop, hstands, houtside⟩

/-- Without a failing write there is no store fault. -/
theorem LastWritten.clean {ws : List (Option (Nat × List Byte))} {m : List Host.Cell} {r : Part × List Host.Cell}
    (h : LastWritten (failing none) ws m r) : r.1.store.fault = false := by
  refine Bool.eq_false_iff.mpr fun hc => ?_
  obtain ⟨i, hi⟩ := h.fault.mp hc
  exact absurd ((failsAt_failing ws i).mp hi).1 (fun hn => nomatch hn)

theorem restoresTrail_of {t : State} {x : Trail} (hstaging : x.staging = []) (hgap : x.gap = 0)
    (h : t.audit.trail = ({ x with nextSeq := s.restoredTrail.1, oldest := s.restoredTrail.2 } : Trail).restarts t.store.fault) :
    s.restoresTrail t := by
  unfold Trail.restarts at h
  dsimp only at h
  unfold State.restoresTrail
  dsimp only
  generalize s.restoredTrail = r at *
  by_cases hfull : 1024 ≤ r.1 - r.2 ∨ 4294967295 < r.1
  · rw [if_pos hfull] at h
    rw [h]
    exact ⟨rfl, hstaging, fun _ => ⟨rfl, rfl⟩, fun hn => absurd hfull hn⟩
  · rw [if_neg hfull] at h
    cases hfault : t.store.fault with
    | true =>
      rw [hfault, if_pos rfl] at h
      rw [h]
      exact ⟨rfl, hstaging, fun hc => absurd hc hfull, fun _ => ⟨rfl, hgap⟩⟩
    | false =>
      rw [hfault, if_neg Bool.false_ne_true] at h
      rw [h]
      exact ⟨rfl, hstaging, fun hc => absurd hc hfull, fun _ => ⟨rfl, hgap⟩⟩

end

end Sys2Proof.Machine
end


section
/-! PROOFS. The end of startup: the STARTUP notice, the receivers, the lanes and the reports to them (R23, R34, R45, R179). -/

namespace Sys2Proof.Machine

/-! ## The transmitter's next frame -/

/-- The transmitter is idle, and this notice is the next frame. -/
def Link.begins (k : Link) (n : Notice) : Prop := k.tx = none ∧ k.responses = [] ∧ ∃ ns, k.urgent = n :: ns

theorem queueNotice_begins {k : Link} {n : Notice} (h : k.begins n) (x : Notice) : (k.queueNotice x).begins n := by
  obtain ⟨htx, hresponses, ns, hns⟩ := h
  have hgrown : k.urgent ++ [x] = n :: (ns ++ [x]) := by rw [hns, List.cons_append]
  unfold Link.queueNotice
  split
  · split
    · exact ⟨htx, hresponses, _, hgrown⟩
    · exact ⟨htx, hresponses, ns, hns⟩
  · split
    · exact ⟨htx, hresponses, _, hgrown⟩
    · exact ⟨htx, hresponses, ns, hns⟩

theorem notify_begins {p : Part} {n : Notice} (h : p.link.begins n) (b : NoticeBody) : (p.notify b).link.begins n :=
  queueNotice_begins (k := { p.link with nextNotice := p.link.nextNotice + 1 }) h _

/-- The first notice after a reset, where it is urgent, is the next frame. -/
theorem notify_first {p : Part} (h : p.link = Link.afterReset) {b : NoticeBody} (hb : b.urgent = true) :
    (p.notify b).link.begins { number := 0, time := p.siteTime, valid := p.clock.valid, body := b } := by
  unfold Part.notify Part.modLink Link.queueNotice
  dsimp only
  rw [h, if_pos (by decide), if_pos hb]
  exact ⟨rfl, rfl, [], rfl⟩

theorem kick_begins {k : Link} {n : Notice} (h : k.begins n) : k.kick.tx = some (.notice n) := by
  obtain ⟨htx, hresponses, ns, hns⟩ := h
  unfold Link.kick
  rw [htx, hresponses, hns]

/-! ## A lane's start (R34) -/

/-- The lane as its start leaves it. -/
def Lane.startsUp (x : Lane) (fault : Bool) : Lane :=
  let causes := { x.causes with deckFault := fault, laneStop := x.stopInput }
  { x with
    ends := ⟨x.ends.a.begin_, x.ends.b.begin_⟩, stopLatch := x.stopInput, causes := causes
    state := if causes = .empty then x.state else .fault }

/-- A deck of the lane is in FAULT. -/
def Part.deckFaults (p : Part) (l : LaneId) : Bool := l.decks.any fun d => decide ((p.deck d).service = .fault)

/-- Lane `l` has become `x`; of the rest the link alone can differ, and its next frame is the same. -/
structure Part.LaneChanged (p : Part) (l : LaneId) (x : Lane) (q : Part) : Prop where
  rest : ∃ lanes link, q = { p with lanes := lanes, link := link }
  lane : ∀ m, q.lane m = if m = l then x else p.lane m
  begins : ∀ n, p.link.begins n → q.link.begins n

theorem laneChanged_modLane (p : Part) (l : LaneId) (f : Lane → Lane) : p.LaneChanged l (f (p.lane l)) (p.modLane l f) :=
  ⟨⟨_, p.link, rfl⟩, fun m => lane_modLane p l m f, fun _ h => h⟩

theorem laneChanged_notify {p q : Part} {l : LaneId} {x : Lane} (h : p.LaneChanged l x q) (b : NoticeBody) :
    p.LaneChanged l x (q.notify b) := by
  obtain ⟨⟨lanes, link, hrest⟩, hlane, hbegins⟩ := h
  refine ⟨⟨lanes, (q.notify b).link, ?_⟩, hlane, fun n hn => notify_begins (hbegins n hn) b⟩
  rw [hrest]
  rfl

theorem laneChanged_twice {p q r : Part} {l : LaneId} {x y : Lane} (h : p.LaneChanged l x q) (k : q.LaneChanged l y r) :
    p.LaneChanged l y r := by
  obtain ⟨⟨lanes, link, hrest⟩, hlane, hbegins⟩ := h
  obtain ⟨⟨lanes', link', krest⟩, klane, kbegins⟩ := k
  refine ⟨⟨lanes', link', by rw [krest, hrest]⟩, fun m => ?_, fun n hn => kbegins n (hbegins n hn)⟩
  rw [klane, hlane]
  split
  · rfl
  · rfl

/-- A lane that enters FAULT. -/
theorem laneChanged_fault {p : Part} {l : LaneId} (h : (p.lane l).state = .closed) :
    p.LaneChanged l { p.lane l with state := .fault } (p.enterLaneState l .fault) := by
  rw [enterLaneState_ne p l .fault (by rw [h]; decide)]
  refine laneChanged_notify ?_ _
  rw [modLane_congr p l _ (fun x => { x with state := .fault }) rfl]
  exact laneChanged_modLane p l fun x => { x with state := .fault }

theorem startLane_changed {p : Part} {l : LaneId} (h : (p.lane l).state = .closed) :
    p.LaneChanged l ((p.lane l).startsUp (p.deckFaults l)) (p.startLane l) := by
  unfold Part.startLane
  dsimp only
  rw [lane_modLane_self]
  have hbegun := laneChanged_modLane p l fun x => ({ x with
    ends := ⟨x.ends.a.begin_, x.ends.b.begin_⟩, stopLatch := x.stopInput
    causes := { x.causes with deckFault := p.deckFaults l, laneStop := x.stopInput } } : Lane)
  unfold Lane.startsUp
  dsimp only at hbegun ⊢
  by_cases hcauses : ({ (p.lane l).causes with deckFault := p.deckFaults l, laneStop := (p.lane l).stopInput } : LaneCauses) = .empty
  · rw [if_pos hcauses]
    exact (if_pos hcauses).symm ▸ hbegun
  · rw [if_neg hcauses]
    have hlane := (hbegun.lane l).trans (if_pos rfl)
    have hfault := laneChanged_twice hbegun (laneChanged_fault (by rw [hlane]; exact h))
    rw [hlane] at hfault
    exact (if_neg hcauses).symm ▸ hfault

/-! ## The end of startup -/

/-- The block set with the reports at the end of startup. -/
def Blocks.startsUp (b : Blocks) (p : Part) : Blocks :=
  { b with storeNearFull := decide (nearFull ≤ p.tickets.unread), trailFull := decide (p.audit.trail.free = 0),
           storeFault := p.store.fault }

theorem deckFaults_listens {p q : Part} {now : Nat} (h : ∀ d, q.deck d = (p.deck d).listens now) (l : LaneId) :
    q.deckFaults l = p.deckFaults l := by
  unfold Part.deckFaults
  refine congrArg (List.any l.decks) (funext fun d => ?_)
  rw [h]
  rfl

/-- The notice that startup queues first. -/
def Part.startupNotice (p : Part) (c : StartupCounts) : Notice :=
  { number := 0, time := p.siteTime, valid := p.clock.valid, body := .startup p.cause p.clock.valid p.store.fault c }

/-- What startup's end makes of a part whose link stands as after a reset. -/
structure Part.Started (p : Part) (c : StartupCounts) (u : Part) : Prop where
  units : u.phase = .running ∧ u.cause = p.cause ∧ u.pairing = p.pairing ∧ u.tickets = p.tickets ∧ u.tables = p.tables ∧
    u.audit = p.audit ∧ u.store = p.store
  deck : ∀ d, u.deck d = (p.deck d).listens p.now
  lane : ∀ l, u.lane l = { (p.lane l).startsUp (p.deckFaults l) with blocks := (p.lane l).blocks.startsUp p }
  begins : u.link.begins (p.startupNotice c)

/-- The part before its lanes start. -/
def Part.beforeLanes (p : Part) (c : StartupCounts) : Part :=
  allDecks.foldl Part.startDeck (({ p with
    phase := .running, clock := { p.clock with boundaryDue := false } } : Part).notify
      (.startup p.cause p.clock.valid p.store.fault c))

theorem beforeLanes_facts {p : Part} (hlink : p.link = Link.afterReset) (c : StartupCounts) :
    (∃ decks clock link, p.beforeLanes c = { p with phase := .running, clock := clock, decks := decks, link := link }) ∧
    (∀ d, (p.beforeLanes c).deck d = (p.deck d).listens p.now) ∧ (p.beforeLanes c).link.begins (p.startupNotice c) := by
  have hbegins := notify_first (p := { p with phase := .running, clock := { p.clock with boundaryDue := false } }) hlink
    (b := .startup p.cause p.clock.valid p.store.fault c) rfl
  unfold Part.beforeLanes
  obtain ⟨⟨decks, hrest⟩, hdeck⟩ := startDecks_facts allDecks (({ p with
    phase := .running, clock := { p.clock with boundaryDue := false } } : Part).notify
      (.startup p.cause p.clock.valid p.store.fault c)) (by decide)
  refine ⟨⟨decks, _, _, hrest⟩, fun d => (hdeck d).trans (if_pos (mem_allDecks d)), ?_⟩
  rw [hrest]
  exact hbegins

theorem finishStartup_started {p : Part} (hlink : p.link = Link.afterReset) (hclosed : ∀ l, (p.lane l).state = .closed)
    (c : StartupCounts) : p.Started c (p.finishStartup c) := by
  have heq : p.finishStartup c = (((p.beforeLanes c).startLane .l0).startLane .l1).startBlocks := rfl
  obtain ⟨⟨decks, clock, link, hrest⟩, hdeck, hbegins⟩ := beforeLanes_facts hlink c
  have hfaults := fun l => deckFaults_listens hdeck l
  rw [heq]
  generalize p.beforeLanes c = q at *
  have hlanes : ∀ l, q.lane l = p.lane l := fun l => by rw [hrest]; rfl
  have hzero := startLane_changed (p := q) (l := .l0) (by rw [hlanes]; exact hclosed .l0)
  rw [hfaults, hlanes] at hzero
  generalize q.startLane .l0 = r at *
  have hone : (r.lane .l1) = p.lane .l1 := ((hzero.lane .l1).trans (if_neg (by decide))).trans (hlanes .l1)
  have hboth := startLane_changed (p := r) (l := .l1) (by rw [hone]; exact hclosed .l1)
  have hrfaults : r.deckFaults .l1 = p.deckFaults .l1 := by
    obtain ⟨_, _, hr⟩ := hzero.rest
    rw [hr, ← hfaults]
    rfl
  rw [hone, hrfaults] at hboth
  generalize r.startLane .l1 = u at *
  obtain ⟨lanes, link', hr⟩ := hzero.rest
  obtain ⟨lanes', link'', hu⟩ := hboth.rest
  have hstore : u.store = p.store ∧ u.tickets = p.tickets ∧ u.audit = p.audit := by
    rw [hu, hr, hrest]
    exact ⟨rfl, rfl, rfl⟩
  refine ⟨?_, fun d => ?_, fun l => ?_, hboth.begins _ (hzero.begins _ hbegins)⟩
  · unfold Part.startBlocks
    rw [hu, hr, hrest]
    exact ⟨rfl, rfl, rfl, rfl, rfl, rfl, rfl⟩
  · rw [← hdeck d]
    unfold Part.startBlocks
    rw [hu, hr]
    rfl
  · unfold Part.startBlocks Blocks.startsUp
    rw [lane_bothBlocks]
    obtain ⟨hstore, htickets, haudit⟩ := hstore
    rw [hstore, htickets, haudit, hboth.lane, hzero.lane]
    cases l with
    | l0 => rfl
    | l1 => rfl

end Sys2Proof.Machine
end


section
/-! PROOFS. Startup finishes (R15, R23, R34, R45, R96, R110, R120, R124, R135, R140, R141, R146, R160, R176-R179). -/

namespace Sys2Proof.Machine

/-- The end of a step that leaves no BARRIER behind, with a notice to send next. -/
theorem finish_begins {u : Part} {n : Notice} (hs : u.settingsSettled) (hphase : u.phase = .running)
    (hbarrier : ∀ l, (u.lane l).causes.barrier = false) (h : u.link.begins n) :
    u.finish.link.tx = some (.notice n) ∧
      ∀ l, (u.finish.lane l).state = (u.lane l).state ∧ (u.finish.lane l).blocks = (u.lane l).blocks := by
  have hzero : u.barrierLeaves .l0 = u := barrierLeaves_id u .l0 (.inl (hbarrier .l0))
  have hone : (u.barrierLeaves .l0).barrierLeaves .l1 = u := by
    rw [hzero]
    exact barrierLeaves_id u .l1 (.inl (hbarrier .l1))
  have hmoved := drives_moved u hs
  have hcloses := (finish_closes u hs).state
  rw [hone] at hmoved hcloses
  refine ⟨?_, fun l => ?_⟩
  · unfold Part.finish
    generalize (u.driveLane .l0).driveLane .l1 = v at *
    have hphase' : v.phase = .running := by rw [hmoved.rest]; exact hphase
    have hlink : v.link = u.link := by rw [hmoved.rest]
    have hkick : v.kick = v.modLink Link.kick := if_neg (by rw [hphase']; decide)
    rw [hkick]
    have htx := kick_begins h
    rw [← hlink] at htx
    exact htx
  · obtain ⟨hstate, -, hblocks⟩ := hcloses l
    exact ⟨hstate, hblocks⟩

/-- The part before the end of startup. -/
def State.bootPart (s : State) (failed : Option (Fin 3)) : Part :=
  (s.lastWritten failed).1.modTrail fun x => x.restarts (s.lastWritten failed).1.store.fault

theorem bootPart_facts (s : State) (failed : Option (Fin 3)) : ∃ n x trail, s.bootPart failed =
    { s.toPart.restore s.mem with
      fresh := n, store := { (s.toPart.restore s.mem).store with fault := x }
      audit := { (s.toPart.restore s.mem).audit with trail := trail } } ∧
    x = (s.lastWritten failed).1.store.fault ∧ trail = (s.toPart.restore s.mem).audit.trail.restarts x := by
  unfold State.bootPart
  obtain ⟨n, x, hrest⟩ : ∃ n x, (s.lastWritten failed).1 = { s.toPart.restore s.mem with
      fresh := n, store := { (s.toPart.restore s.mem).store with fault := x } } :=
    lastWritesRun_part (b := (s.toPart.restore s.mem, s.mem))
  generalize (s.lastWritten failed).1 = p at *
  generalize s.toPart.restore s.mem = q at *
  subst hrest
  exact ⟨n, x, _, rfl, rfl, rfl⟩

/-- The part at the end of startup, before the end of the step. -/
structure State.Boots (s : State) (failed : Option (Fin 3)) (u : Part) : Prop where
  running : u.phase = .running ∧ u.cause = s.cause
  serials : u.tickets = { s.tickets with nextSerial := s.restoredTickets.1, oldestUnread := s.restoredTickets.2 }
  trail : u.audit.trail =
    ({ s.audit.trail with nextSeq := s.restoredTrail.1, oldest := s.restoredTrail.2 } : Trail).restarts u.store.fault
  fault : u.store.fault = (s.lastWritten failed).1.store.fault
  queue : u.store.tableQueue =
    (allDecks.filter (imageBehind s.mem ((scanSlots s.mem .trail readTrail).map (·.2)))).map .image
  pairing : ∃ p : Part, p.pairing = s.pairing ∧
    u.pairing = (p.restorePending s.mem ((scanSlots s.mem .ticket readTicket).map (·.2))).pairing
  tables : u.tables = loadedTables s.mem
  deck : ∀ d, u.deck d = (restoredDeck s.mem ((scanSlots s.mem .trail readTrail).map (·.2)) d).listens s.clock.running
  lane : ∀ l, u.lane l = { ((s.toPart.lane l).takesImage ((readSlot s.mem .settings 0).bind readSettingsRecord).isSome).startsUp
    (u.deckFaults l) with blocks := (s.toPart.lane l).blocks.startsUp u }
  begins : ∃ n : Notice, u.link.begins n ∧ n.number = 0 ∧
    n.body = .startup s.cause s.clock.valid u.store.fault (startupCounts s.mem)
  settled : u.settingsSettled

theorem startsUp_congr {p q : Part} (ht : q.tickets = p.tickets) (ha : q.audit = p.audit) (hs : q.store = p.store) (b : Blocks) :
    b.startsUp q = b.startsUp p := by
  unfold Blocks.startsUp
  rw [ht, ha, hs]

/-- The units that a boot leaves as they were restored, and those that the last writes change. -/
theorem bootPart_boots {s : State} {failed : Option (Fin 3)} (h : s.Restored (s.toPart.restore s.mem))
    (hright : (s.toPart.restore s.mem).parityRight) (hlink : s.link = Link.afterReset)
    (hclosed : ∀ l, (s.toPart.lane l).state = .closed) :
    s.Boots failed ((s.bootPart failed).finishStartup (startupCounts s.mem)) := by
  obtain ⟨n, x, trail, hpart, hx, htrail⟩ := bootPart_facts s failed
  rw [hpart]
  generalize s.toPart.restore s.mem = q at *
  obtain ⟨hidle, hserials, haudit, hpairing, hdeck, hqueue, -, htables, hlane⟩ := h
  obtain ⟨-, hrest⟩ := Prod.mk.inj hidle
  obtain ⟨hcause, hrest⟩ := Prod.mk.inj hrest
  obtain ⟨hclock, hqlink⟩ := Prod.mk.inj hrest
  generalize hp : ({ q with
    fresh := n, store := { q.store with fault := x }, audit := { q.audit with trail := trail } } : Part) = p
  have hplane : ∀ l, p.lane l = q.lane l := fun l => by rw [← hp]; rfl
  have hpdeck : ∀ d, p.deck d = q.deck d := fun d => by rw [← hp]; rfl
  have hstarted := finishStartup_started (p := p) (by rw [← hp]; exact hqlink.trans hlink)
    (fun l => by rw [hplane, hlane]; exact hclosed l) (startupCounts s.mem)
  have hpright : p.parityRight := by
    rw [← hp]
    exact parityRight_same hright rfl rfl
  have hsettled := settled_of_parityRight (parityRight_finishStartup hpright (startupCounts s.mem))
  generalize p.finishStartup (startupCounts s.mem) = u at *
  obtain ⟨⟨hphase, hucause, hupairing, hutickets, hutables, huaudit, hustore⟩, hudeck, hulane, hubegins⟩ := hstarted
  have hfaults := fun l => deckFaults_listens hudeck l
  have hclock' : p.clock = s.clock := by rw [← hp]; exact hclock
  have hcause' : p.cause = s.cause := by rw [← hp]; exact hcause
  have hufault : u.store.fault = x := by rw [hustore, ← hp]
  refine ⟨⟨hphase, hucause.trans hcause'⟩, ?_, ?_, hufault.trans hx, ?_, ?_, ?_, fun d => ?_, fun l => ?_,
    ⟨p.startupNotice (startupCounts s.mem), hubegins, rfl, ?_⟩, hsettled⟩
  · rw [hutickets, ← hserials, ← hp]
  · rw [huaudit, hufault, ← hp]
    dsimp only
    rw [htrail, haudit]
  · rw [hustore, ← hqueue, ← hp]
  · obtain ⟨p', hp', heq⟩ := hpairing
    exact ⟨p', hp', by rw [hupairing, ← heq, ← hp]⟩
  · rw [hutables, ← htables, ← hp]
  · rw [hudeck, hpdeck, hdeck]
    unfold Part.now
    rw [hclock']
  · rw [hulane, ← hfaults, hplane, hlane, startsUp_congr hutickets huaudit hustore]
    rfl
  · unfold Part.startupNotice
    rw [hcause', hclock', hustore]

theorem afterReset_parityRight {p : Part} (htables : p.tables = TableStore.afterReset)
    (hdecks : ∀ d : DeckId, p.deck d = Deck.afterReset) : p.parityRight := by
  refine ⟨fun d c hc => ?_, ?_⟩
  · rw [hdecks] at hc
    cases hc
  · rw [htables]
    exact reset_parityRight.2

theorem startup_boots {s : State} {failed : Option (Fin 3)} (hphase : s.phase = .startup) {b : Part × List Host.Cell}
    (hb : boot failed s.toPart s.mem = b) :
    exec (.startup failed) s = .next { s.act (fun _ => b.1) with mem := b.2 } := by
  subst hb
  exact if_pos hphase

theorem startup_exec {s : State} {failed : Option (Fin 3)} (hphase : s.phase = .startup)
    (h : s.Restored (s.toPart.restore s.mem)) (hstaging : s.audit.trail.staging = []) : exec (.startup failed) s =
      .next { s.act (fun _ => ((s.bootPart failed).finishStartup (startupCounts s.mem)).finish) with
        mem := (s.lastWritten failed).2 } := by
  unfold State.bootPart
  have hboots := startup_boots hphase (boot_eq (failed := failed) h hstaging)
  dsimp only at hboots
  exact hboots

/-! ## What stands at the end of the step -/

/-- The units that the end of a step leaves alone. -/
theorem closes_units {u q : Part} (h : u.Closes q) : q.phase = u.phase ∧ q.cause = u.cause ∧ q.tickets = u.tickets ∧
    q.audit = u.audit ∧ q.pairing = u.pairing ∧ q.tables = u.tables ∧ q.store.fault = u.store.fault ∧
    q.store.tableQueue = u.store.tableQueue ∧ q.decks = u.decks := by
  rw [h.rest]
  exact ⟨rfl, rfl, rfl, rfl, rfl, rfl, rfl, rfl, rfl⟩

/-- The rows of a lane's start after a reset (R34). -/
structure Lane.StartRows (x : Lane) (valid fault : Bool) (y : Lane) : Prop where
  visit : y.visit = none
  stop : y.stopLatch = x.stopInput
  barrier : y.causes.barrier = false
  state : y.state = .fault ↔ x.stopInput = true ∨ fault = true
  closed : y.state ≠ .fault → y.state = .closed
  adopted : y.adoptedActive = true ∧ y.adoptedValid = valid
  beam : ∀ e, (y.ends.get e).beamLevel = (x.ends.get e).beamRaw ∧ (y.ends.get e).beamLatch = (x.ends.get e).beamRaw

theorem startCauses_empty (fault stop : Bool) :
    ({ LaneCauses.empty with deckFault := fault, laneStop := stop } : LaneCauses) = .empty ↔ ¬ (stop = true ∨ fault = true) := by
  cases fault with
  | true => cases stop with
    | true => decide
    | false => decide
  | false => cases stop with
    | true => decide
    | false => decide

theorem startsUp_state {x : Lane} (hclear : x = x.clear) (valid fault : Bool) :
    ((x.takesImage valid).startsUp fault).state = if x.stopInput = true ∨ fault = true then .fault else .closed := by
  have hcauses : x.causes = .empty := (congrArg Lane.causes hclear).trans rfl
  unfold Lane.startsUp Lane.takesImage
  dsimp only
  rw [hcauses, if_congr (startCauses_empty fault x.stopInput) rfl rfl, ite_not]
  exact congrArg (fun st => if x.stopInput = true ∨ fault = true then LaneState.fault else st) (congrArg Lane.state hclear)

theorem startsUp_rows {x : Lane} (hclear : x = x.clear) (valid fault : Bool) :
    x.StartRows valid fault ((x.takesImage valid).startsUp fault) := by
  have hstate := startsUp_state hclear valid fault
  refine ⟨?_, rfl, ?_, ?_, ?_, ⟨?_, rfl⟩, fun e => ?_⟩
  · exact (congrArg Lane.visit hclear).trans rfl
  · exact (congrArg (·.causes.barrier) hclear).trans rfl
  · rw [hstate]
    split
    case isTrue hin => exact ⟨fun _ => hin, fun _ => rfl⟩
    case isFalse hout => exact ⟨(fun hc => nomatch hc), fun hin => absurd hin hout⟩
  · rw [hstate]
    split
    case isTrue => exact fun hn => absurd rfl hn
    case isFalse => exact fun _ => rfl
  · exact (congrArg Lane.adoptedActive hclear).trans rfl
  · cases e with
    | a => exact ⟨rfl, rfl⟩
    | b => exact ⟨rfl, rfl⟩

theorem deckFaults_iff {p : Part} {l : LaneId} : p.deckFaults l = true ↔ ∃ d ∈ l.decks, (p.deck d).service = .fault := by
  unfold Part.deckFaults
  rw [List.any_eq_true]
  exact exists_congr fun d => and_congr_right fun _ => decide_eq_true_iff

section
variable {s t : State} {failed : Option (Fin 3)} {u : Part} (h : s.Boots failed u)
  (hclear : ∀ l, s.toPart.lane l = (s.toPart.lane l).clear)
include h hclear

theorem State.Boots.rows (l : LaneId) : (s.toPart.lane l).StartRows
    ((readSlot s.mem .settings 0).bind readSettingsRecord).isSome (u.deckFaults l) (u.lane l) := by
  obtain ⟨hvisit, hstop, hbarrier, hstate, hclosed, hadopted, hbeam⟩ :=
    startsUp_rows (hclear l) ((readSlot s.mem .settings 0).bind readSettingsRecord).isSome (u.deckFaults l)
  rw [h.lane l]
  exact ⟨hvisit, hstop, hbarrier, hstate, hclosed, hadopted, hbeam⟩

/-- The blocks that startup reports (R45, R120, R160). -/
theorem State.Boots.blocks (hstaging : s.audit.trail.staging = []) (l : LaneId) : (u.lane l).blocks =
    { Blocks.empty with
      storeNearFull := decide (2032 ≤ u.tickets.nextSerial - u.tickets.oldestUnread), storeFault := u.store.fault
      trailFull := decide (1024 ≤ u.audit.trail.nextSeq - u.audit.trail.oldest) } := by
  have hempty : (s.toPart.lane l).blocks = .empty := by
    rw [hclear l]
    rfl
  have hkept : u.audit.trail.staging = [] := by
    rw [h.trail]
    unfold Trail.restarts
    split
    · exact hstaging
    · split
      · exact hstaging
      · exact hstaging
  have hfree : u.audit.trail.free = 0 ↔ 1024 ≤ u.audit.trail.nextSeq - u.audit.trail.oldest := by
    unfold Trail.free Trail.unacknowledged
    rw [hkept, List.length_nil]
    omega
  rw [h.lane l]
  unfold Blocks.startsUp
  dsimp only
  rw [hempty, decide_eq_decide.mpr hfree]
  rfl

end

section
variable {s t : State} {failed : Option (Fin 3)} {u : Part} (h : s.Boots failed u) (hc : u.Closes t.toPart)
  (hclear : ∀ l, s.toPart.lane l = (s.toPart.lane l).clear)
include h hc hclear

theorem startup_lane (hstaging : s.audit.trail.staging = [])
    (hends : ∀ l, (t.toPart.lane l).state = (u.lane l).state ∧ (t.toPart.lane l).blocks = (u.lane l).blocks) (l : LaneId) :
    (t.toPart.lane l).visit = none ∧ (t.toPart.lane l).stopLatch = (s.toPart.lane l).stopInput ∧
      (t.toPart.lane l).blocks.storeFault = t.store.fault ∧
      (t.toPart.lane l).blocks = { Blocks.empty with
        storeNearFull := decide (2032 ≤ t.tickets.nextSerial - t.tickets.oldestUnread), storeFault := t.store.fault
        trailFull := decide (1024 ≤ t.audit.trail.nextSeq - t.audit.trail.oldest) } ∧
      ((t.toPart.lane l).state = .fault ↔
        (s.toPart.lane l).stopInput = true ∨ ∃ d ∈ l.decks, (t.toPart.deck d).service = .fault) ∧
      ((t.toPart.lane l).state ≠ .fault → (t.toPart.lane l).state = .closed) ∧
      ∀ e, (t.toPart.laneEnd l e).beamLevel = (s.toPart.laneEnd l e).beamRaw ∧
        (t.toPart.laneEnd l e).beamLatch = (s.toPart.laneEnd l e).beamRaw := by
  obtain ⟨-, -, htickets, haudit, -, -, hfault, -, hdecks⟩ := closes_units hc
  obtain ⟨hvisit, hstop, -, hstate, hclosed, -, hbeam⟩ := h.rows hclear l
  obtain ⟨hstate', hblocks'⟩ := hends l
  have hblocks := h.blocks hclear hstaging l
  rw [← hblocks', ← hfault, ← htickets, ← haudit] at hblocks
  have hfaults : u.deckFaults l = t.toPart.deckFaults l := by
    unfold Part.deckFaults Part.deck
    rw [hdecks]
  rw [← hstate', hfaults, deckFaults_iff] at hstate
  rw [← hstate'] at hclosed
  have hlane := hc.lane l
  refine ⟨?_, ?_, ?_, hblocks, hstate, hclosed, fun e => ?_⟩
  · rw [hlane]
    exact hvisit
  · rw [hlane]
    exact hstop
  · rw [hblocks]
  · rw [hc.ends l e]
    exact hbeam e

theorem startup_tables : s.restoresTables t := by
  obtain ⟨-, -, -, -, -, htables, -⟩ := closes_units hc
  refine restoresTables_of (htables.trans h.tables) fun l => ?_
  have hadopted := (h.rows hclear l).adopted
  rw [hc.lane l]
  exact hadopted

end

section
variable {s t : State} {failed : Option (Fin 3)} {u : Part} (h : s.Boots failed u) (hc : u.Closes t.toPart)
include h hc

theorem startup_pending (hpairing : s.pairing = Pairing.afterReset) : s.restoresPending t := by
  obtain ⟨-, -, -, -, hkept, -⟩ := closes_units hc
  obtain ⟨p, hp, hu⟩ := h.pairing
  exact restoresPending_of (hp.trans hpairing) (hkept.trans hu)

theorem startup_decks : s.restoresDecks t := by
  obtain ⟨-, -, -, -, -, -, -, hqueue, hdecks⟩ := closes_units hc
  exact restoresDecks_of (fun d => (deck_of_decks hdecks d).trans (h.deck d)) (hqueue.trans h.queue)

theorem startup_trail (hstaging : s.audit.trail.staging = []) (hgap : s.audit.trail.gap = 0) : s.restoresTrail t := by
  obtain ⟨-, -, -, haudit, -, -, hfault, -, -⟩ := closes_units hc
  refine restoresTrail_of hstaging hgap ?_
  rw [haudit, hfault]
  exact h.trail

theorem startup_service (d : DeckId) : (t.toPart.deck d).service = (Deck.afterReset.restore (storedImage s.mem d)
    (highestCount ((scanSlots s.mem .trail readTrail).map (·.2)) d)).service := by
  obtain ⟨-, -, -, -, -, -, -, -, hdecks⟩ := closes_units hc
  rw [deck_of_decks hdecks, h.deck]
  rfl

end

/-- Settles O19: startup restores each unit, makes its last writes, and ends the step as the lanes start. -/
theorem startupFinishes : Obligations.StartupFinishes := by
  unfold Obligations.StartupFinishes
  intro failed s hphase htables hstore htickets haudit hlink hpairing hdecks hclear
  have hrestored := restore_restored hstore hpairing htables hdecks
  have hclean : s.store.fault = false := by rw [hstore]; rfl
  have hstaging : s.audit.trail.staging = [] := by rw [haudit]; rfl
  have hgap : s.audit.trail.gap = 0 := by rw [haudit]; rfl
  have hserials : s.tickets.staging = [] := by rw [htickets]; rfl
  have hwritten := written_lastWritten (failed := failed) hrestored hclean
  have hboots := bootPart_boots (failed := failed) hrestored
    (parityRight_restore (afterReset_parityRight htables hdecks) s.mem) hlink
    fun l => (congrArg Lane.state (hclear l)).trans rfl
  have hexec := startup_exec (failed := failed) hphase hrestored hstaging
  generalize (s.bootPart failed).finishStartup (startupCounts s.mem) = u at *
  obtain ⟨t, hnext, htu, hmem, hpending⟩ : ∃ t, exec (.startup failed) s = .next t ∧ t.toPart = u.finish ∧
    t.mem = (s.lastWritten failed).2 ∧ t.pending = s.pending := ⟨_, hexec, rfl, rfl, rfl⟩
  obtain ⟨n, hbegins, hnumber, hbody⟩ := hboots.begins
  have hcloses : u.Closes t.toPart := htu ▸ finish_closes u hboots.settled
  obtain ⟨htx, hends⟩ := finish_begins hboots.settled hboots.running.1 (fun l => (hboots.rows hclear l).barrier) hbegins
  rw [← htu] at htx hends
  obtain ⟨hrunning, hcause, hserial, -, -, -, hfault, -, -⟩ := closes_units hcloses
  rw [hboots.serials] at hserial
  refine ⟨t, hnext, hpending, hrunning.trans hboots.running.1, hcause.trans hboots.running.2, fun hnone => ?_, ?_, ?_, ?_,
    ?_, restoredTrail_scanned s, ⟨n, htx, hnumber, ?_⟩, startup_service hboots hcloses, startup_decks hboots hcloses,
    startup_pending hboots hcloses hpairing, startup_tables hboots hcloses hclear, startup_trail hboots hcloses hstaging hgap,
    restoresMemory_of hwritten hmem (hfault.trans hboots.fault), startup_lane hboots hcloses hclear hstaging hends⟩
  · subst hnone
    rw [hfault, hboots.fault]
    exact hwritten.clean
  · rw [hserial]
  · rw [hserial]
  · rw [hserial]
    dsimp only
    exact hserials
  · rw [hserial]
    dsimp only
    exact restoredTickets_scanned s
  · rw [hbody, hfault]

end Sys2Proof.Machine
end
